-- ==== Sys2Proof/Word.lean ====
section
/-! DEFINITION. The word types of the TK8 (00 R3, 04 R91, 05 R113). -/

namespace Sys2Proof

/-- An 8-bit byte. -/
abbrev Byte := BitVec 8
/-- A 64-bit scalar register, control register or virtual address (04 R91). -/
abbrev Word := BitVec 64
/-- A 512-byte vector register, lane 0 in the low bits (05 R113). -/
abbrev VWord := BitVec 4096
/-- A 1024-lane predicate, lane 0 in bit 0 (04 R91). -/
abbrev PWord := BitVec 1024
/-- A 128-byte layout record or shape register, byte 0 in the low bits (06 R140). -/
abbrev Rec := BitVec 1024

end Sys2Proof
end

