-- ==== Sys2Proof/Config.lean ====
section
/-! DEFINITION. What the spec leaves to an implementation or to cryptography: opaque constants, which nothing in the
model or in a proof can evaluate. -/

namespace Sys2Proof.Config

/-- A free choice: replacement victims (11 R243, R247), the logical and physical cores the dispatcher gives (01 R22,
14 R326), the order of queues (14 R314). The counter State.free picks a fresh one each time. (Log 2.) -/
opaque choice : Nat → Nat

/-- How a commit signature folds in one more observed value (08 R191); the spec gives no function. (Log 2.) -/
opaque sigFold : Word → Nat → Word

/-- The public signing key that a key identifier names (03 R89): the spec says where identifiers stand, not keys. (Log 16.) -/
opaque publicKey : List Byte → List Byte

/-- An attestation report over a nonce, the digests of the running firmware and of the board configuration block, the
rollback counter and an interface's table entry, signed and laid out in a reply record by H firmware (18 R412, R422).
(Log 16.) -/
opaque attest : BitVec 256 → List Byte → List Byte → Nat → List Byte → BitVec 512

end Sys2Proof.Config
end

