-- ==== Sys2Proof/Syntax.lean ====
section
/-! DEFINITION. The syntax of Fildan: operands (03 R68, R71, R66, R65) and ONE inductive of all rows of the opcode
table. A slot constructor carries the fields of its encoding but the e bit, which frames bundles (R58). The 85 event
rows have no encoding; each is an act of the machine outside a slot, and its arguments say which core, queue or
context it happens to, or carry what comes from outside the device. -/

namespace Sys2Proof

/-- A scalar source field (R68): a register or one of the latches B0, B1, B6, B7. -/
inductive SSrc where
  | x (i : Fin 56) | b0 | b1 | b6 | b7
  deriving DecidableEq, Repr

/-- A scalar destination field (R68): X0 to X55. -/
abbrev SDst := Fin 56

/-- A vector source field (R68): V0 to V47, W0 to W7 or one of the latches B2 to B7. -/
inductive VSrc where
  | v (i : Fin 48) | w (i : Fin 8) | b2 | b3 | b4 | b5 | b6 | b7
  deriving DecidableEq, Repr

/-- A vector destination field (R68). -/
inductive VDst where
  | v (i : Fin 48) | w (i : Fin 8)
  deriving DecidableEq, Repr

/-- A predicate register P0 to P15 (R68). -/
abbrev PReg := Fin 16

/-- The integer types of R32. -/
inductive ITy where
  | i4 | i8 | i16 | i32 | n4 | n8 | n16 | n32
  deriving DecidableEq, Repr

/-- The float types of R71. -/
inductive FTy where
  | e4m3 | e5m2 | bf16 | f16 | f32
  deriving DecidableEq, Repr

/-- The type of a conversion's source or destination (R75). -/
inductive ElTy where
  | i (t : ITy) | f (t : FTy)
  deriving DecidableEq, Repr

/-- The scopes of R66. -/
inductive Scope where
  | core | gang | cluster | chip | peer | system | tenant | image
  deriving DecidableEq, Repr

/-- The orderings of the G and A formats (R65). -/
inductive Ord where
  | plain | acq | rel
  deriving DecidableEq, Repr

/-- The bn and bar fields of the E format (R65): a barrier index, or a scalar source holding a logical barrier name. -/
inductive BarOp where
  | idx (i : BitVec 8) | name (x : SSrc)
  deriving DecidableEq, Repr

/-- What PIPW sends (14 R332): a scalar or a vector. -/
inductive PipeSrc where
  | x (s : SSrc) | v (s : VSrc)
  deriving DecidableEq, Repr

/-- Where PIPR delivers (14 R332). -/
inductive PipeDst where
  | x (d : SDst) | v (d : VDst)
  deriving DecidableEq, Repr

/-- An update of a barrier (16 R369, R373). -/
inductive BarUpdate where
  | init (n : Nat) | arrive | arriveExp (v : Word) | expect (v : Word) | post (count : Nat) (poisoned : Bool)
  deriving DecidableEq, Repr

/-- The energy a core's seat spent over an interval, as the activity counters say it (16 R383): its weights are not
in the spec, so the amount is an input of the interval's event. -/
structure EnergyShare where
  core : Nat
  microjoules : Nat
  deriving DecidableEq, Repr

/-- A thermal reading: which sensor, and the value in 1/16 degree (16 R384). -/
structure Reading where
  which : Nat
  value : BitVec 16
  deriving DecidableEq, Repr

/-- The coolant port's fault conditions (18 R418): slow pump, low flow, hot coolant, silent sensor. -/
inductive CoolFault where
  | pump | flow | hot | silent
  deriving DecidableEq, Repr

/-- What the board configuration block says of the coolant loop (18 R418, R421): the pump's least speed, the least flow, and
the limit of the coolant in 1/16 degrees. -/
structure Loop where
  minSpeed : Nat
  minFlow : Nat
  limit : BitVec 16
  deriving DecidableEq, Repr

/-- The board configuration block as its verification hands it over (18 R421): power limit, rails, thermal thresholds,
the fastest rate step of the bridge if there is one, the coolant loop if there is one, the offsets of the sensors in
1/16 degrees, the 128 cores' first and then the slices', the identifiers of the keys that it lists, and that of the key that signs it. -/
structure Board where
  watts : Nat
  rail : BitVec 16
  limits : Word
  bridge : Option (BitVec 2)
  cooling : Option Loop
  offsets : List (BitVec 16)
  keys : List (BitVec 128)
  signer : BitVec 128
  deriving DecidableEq, Repr

/-- What the board controller reads over the management bus (18 R419, R423). -/
inductive MgmtItem where
  | core (p : Nat) | slice (i : Nat) | coolant | flow | speed | joules (isl : Nat) | limit | bridge | bringUp
  deriving DecidableEq, Repr

/-- Where a steward puts a region of a plan (03 R88, R90): its virtual and its physical address, and the widest
ordering scope its pages grant. -/
structure Placing where
  va : Nat
  pa : Nat
  scope : BitVec 3
  deriving DecidableEq, Repr

/-- The host AtomicOps of 12 R282. -/
inductive HostAtomic where
  | fetchAdd (v : Word) | swap (v : Word) | cas (cmp new : Word)
  deriving DecidableEq, Repr

/-- One constructor per row of the opcode table: the slots with fields in its order, the slots without, then the
events. -/
inductive Instr where
  /-- ADD (R93): Writes the 64-bit wrapped sum of two scalar registers. -/
  | add (n : Bool) (d : SDst) (a : SSrc) (b : SSrc)
  /-- SUB (R93): Writes the 64-bit wrapped difference of two scalar registers. -/
  | sub (n : Bool) (d : SDst) (a : SSrc) (b : SSrc)
  /-- MUL (R93): Writes the low 64 bits of a scalar product. -/
  | mul (n : Bool) (d : SDst) (a : SSrc) (b : SSrc)
  /-- MULH (R93): Writes the high 64 bits of a signed scalar product. -/
  | mulh (n : Bool) (d : SDst) (a : SSrc) (b : SSrc)
  /-- MULHU (R93): Writes the high 64 bits of an unsigned scalar product. -/
  | mulhu (n : Bool) (d : SDst) (a : SSrc) (b : SSrc)
  /-- DIV (R93): Writes the signed quotient truncated toward zero, with the defined results for a zero divisor and overflow. -/
  | div (n : Bool) (d : SDst) (a : SSrc) (b : SSrc)
  /-- DIVU (R93): Writes the unsigned quotient. -/
  | divu (n : Bool) (d : SDst) (a : SSrc) (b : SSrc)
  /-- REM (R93): Writes the signed remainder with the sign of the dividend. -/
  | rem (n : Bool) (d : SDst) (a : SSrc) (b : SSrc)
  /-- REMU (R93): Writes the unsigned remainder. -/
  | remu (n : Bool) (d : SDst) (a : SSrc) (b : SSrc)
  /-- AND (R93): Writes the bitwise AND of two scalars. -/
  | and (n : Bool) (d : SDst) (a : SSrc) (b : SSrc)
  /-- OR (R93): Writes the bitwise OR of two scalars. -/
  | or (n : Bool) (d : SDst) (a : SSrc) (b : SSrc)
  /-- XOR (R93): Writes the bitwise XOR of two scalars. -/
  | xor (n : Bool) (d : SDst) (a : SSrc) (b : SSrc)
  /-- ANDN (R93): Writes a AND NOT b. -/
  | andn (n : Bool) (d : SDst) (a : SSrc) (b : SSrc)
  /-- SHL (R93): Shifts a scalar left by the low 6 bits of b. -/
  | shl (n : Bool) (d : SDst) (a : SSrc) (b : SSrc)
  /-- SHR (R93): Shifts a scalar right logically by the low 6 bits of b. -/
  | shr (n : Bool) (d : SDst) (a : SSrc) (b : SSrc)
  /-- SRA (R93): Shifts a scalar right arithmetically by the low 6 bits of b. -/
  | sra (n : Bool) (d : SDst) (a : SSrc) (b : SSrc)
  /-- ROTL (R93): Rotates a scalar left by the low 6 bits of b. -/
  | rotl (n : Bool) (d : SDst) (a : SSrc) (b : SSrc)
  /-- MIN (R93): Writes the signed minimum. -/
  | min (n : Bool) (d : SDst) (a : SSrc) (b : SSrc)
  /-- MAX (R93): Writes the signed maximum. -/
  | max (n : Bool) (d : SDst) (a : SSrc) (b : SSrc)
  /-- MINU (R93): Writes the unsigned minimum. -/
  | minu (n : Bool) (d : SDst) (a : SSrc) (b : SSrc)
  /-- MAXU (R93): Writes the unsigned maximum. -/
  | maxu (n : Bool) (d : SDst) (a : SSrc) (b : SSrc)
  /-- CLZ (R93): Counts leading zero bits of a scalar. -/
  | clz (n : Bool) (d : SDst) (a : SSrc)
  /-- CTZ (R93): Counts trailing zero bits of a scalar. -/
  | ctz (n : Bool) (d : SDst) (a : SSrc)
  /-- POPC (R93): Counts one bits of a scalar. -/
  | popc (n : Bool) (d : SDst) (a : SSrc)
  /-- SEL (R93): Writes a when b is nonzero, else keeps the old destination. -/
  | sel (n : Bool) (d : SDst) (a : SSrc) (b : SSrc)
  /-- EXTS (R93): Sign-extends the low w+1 bits of a. -/
  | exts (n : Bool) (d : SDst) (a : SSrc) (w : BitVec 6)
  /-- EXTZ (R93): Zero-extends the low w+1 bits of a. -/
  | extz (n : Bool) (d : SDst) (a : SSrc) (w : BitVec 6)
  /-- BFX (R94): Extracts a bit field of a described by X(b). -/
  | bfx (n : Bool) (d : SDst) (a : SSrc) (b : SSrc)
  /-- BFI (R94): Inserts a bit field from a into the old destination. -/
  | bfi (n : Bool) (d : SDst) (a : SSrc) (b : SSrc)
  /-- MOV (R93): Copies a scalar register. -/
  | mov (n : Bool) (d : SDst) (a : SSrc)
  /-- ADDA (R93): Forms a canonical 57-bit address sum. -/
  | adda (n : Bool) (d : SDst) (a : SSrc) (b : SSrc)
  /-- WIDF (R97): Extracts a field, the whole WID or the depth of the step identity. -/
  | widf (n : Bool) (d : SDst) (k : BitVec 6)
  /-- ADDI (R95): Adds a sign-extended 9-bit immediate. -/
  | addi (n : Bool) (d : SDst) (a : SSrc) (imm : BitVec 9)
  /-- ANDI (R95): ANDs with a sign-extended immediate. -/
  | andi (n : Bool) (d : SDst) (a : SSrc) (imm : BitVec 9)
  /-- ORI (R95): ORs with a sign-extended immediate. -/
  | ori (n : Bool) (d : SDst) (a : SSrc) (imm : BitVec 9)
  /-- XORI (R95): XORs with a sign-extended immediate. -/
  | xori (n : Bool) (d : SDst) (a : SSrc) (imm : BitVec 9)
  /-- SHLI (R95): Shifts left by an immediate of 0 to 63. -/
  | shli (n : Bool) (d : SDst) (a : SSrc) (imm : BitVec 9)
  /-- SHRI (R95): Shifts right logically by an immediate of 0 to 63. -/
  | shri (n : Bool) (d : SDst) (a : SSrc) (imm : BitVec 9)
  /-- SRAI (R95): Shifts right arithmetically by an immediate of 0 to 63. -/
  | srai (n : Bool) (d : SDst) (a : SSrc) (imm : BitVec 9)
  /-- CMPI_EQ (R98): Sets every bit of a predicate to whether a equals the immediate. -/
  | cmpiEq (n : Bool) (d : PReg) (a : SSrc) (imm : BitVec 9)
  /-- CMPI_NE (R98): Sets a predicate to whether a differs from the immediate. -/
  | cmpiNe (n : Bool) (d : PReg) (a : SSrc) (imm : BitVec 9)
  /-- CMPI_LT (R98): Sets a predicate to a signed less-than against the immediate. -/
  | cmpiLt (n : Bool) (d : PReg) (a : SSrc) (imm : BitVec 9)
  /-- CMPI_LE (R98): Sets a predicate to a signed less-or-equal against the immediate. -/
  | cmpiLe (n : Bool) (d : PReg) (a : SSrc) (imm : BitVec 9)
  /-- CMPI_LTN (R98): Sets a predicate to an unsigned less-than against the immediate. -/
  | cmpiLtn (n : Bool) (d : PReg) (a : SSrc) (imm : BitVec 9)
  /-- CMPI_LEN (R98): Sets a predicate to an unsigned less-or-equal against the immediate. -/
  | cmpiLen (n : Bool) (d : PReg) (a : SSrc) (imm : BitVec 9)
  /-- LI (R96): Loads a sign-extended 15-bit immediate. -/
  | li (n : Bool) (d : SDst) (imm : BitVec 15)
  /-- LIH (R96): Shifts the destination left by 15 and appends a 15-bit immediate. -/
  | lih (n : Bool) (d : SDst) (imm : BitVec 15)
  /-- CMP_EQ (R98): Sets a predicate to whether two scalars are equal. -/
  | cmpEq (n : Bool) (d : PReg) (a : SSrc) (b : SSrc)
  /-- CMP_NE (R98): Sets a predicate to whether two scalars differ. -/
  | cmpNe (n : Bool) (d : PReg) (a : SSrc) (b : SSrc)
  /-- CMP_LT (R98): Sets a predicate to a signed less-than. -/
  | cmpLt (n : Bool) (d : PReg) (a : SSrc) (b : SSrc)
  /-- CMP_LE (R98): Sets a predicate to a signed less-or-equal. -/
  | cmpLe (n : Bool) (d : PReg) (a : SSrc) (b : SSrc)
  /-- CMP_LTN (R98): Sets a predicate to an unsigned less-than. -/
  | cmpLtn (n : Bool) (d : PReg) (a : SSrc) (b : SSrc)
  /-- CMP_LEN (R98): Sets a predicate to an unsigned less-or-equal. -/
  | cmpLen (n : Bool) (d : PReg) (a : SSrc) (b : SSrc)
  /-- PAND (R99): ANDs two predicates. -/
  | pand (n : Bool) (d : PReg) (a : PReg) (b : PReg)
  /-- POR (R99): ORs two predicates. -/
  | por (n : Bool) (d : PReg) (a : PReg) (b : PReg)
  /-- PXOR (R99): XORs two predicates. -/
  | pxor (n : Bool) (d : PReg) (a : PReg) (b : PReg)
  /-- PNOT (R99): Inverts a predicate. -/
  | pnot (n : Bool) (d : PReg) (a : PReg)
  /-- PMOV (R99): Copies a predicate. -/
  | pmov (n : Bool) (d : PReg) (a : PReg)
  /-- BR (R100): Branches after one delay bundle when lane 0 of the predicate, possibly negated, is 1. -/
  | br (p : PReg) (neg : Bool) (disp : BitVec 16)
  /-- CALL (R100): Branches as BR and writes the return address into X55. -/
  | call (n : Bool) (p : PReg) (neg : Bool) (disp : BitVec 16)
  /-- RET (R100): Jumps to X(a) after one delay bundle. -/
  | ret (a : SSrc)
  /-- JMPX (R100): Jumps to X(a) after one delay bundle and writes the return address into X(d). -/
  | jmpx (n : Bool) (d : SDst) (a : SSrc)
  /-- LOOP (R102): Opens a counted loop by pushing start, end and a copied count onto the loop stack. -/
  | loop (d : SSrc) (imm : BitVec 15)
  /-- LOOPM (R105): Reads the body and stage map and starts a software-pipelined modulo loop. -/
  | loopm (d : SSrc) (imm : BitVec 15)
  /-- BRKL (R104): Pops the top loop entry and branches past its end when the predicate holds. -/
  | brkl (neg : Bool) (p : PReg)
  /-- SLEEP (R110): Stops issue until the chip time counter reaches X(a). -/
  | sleep (a : SSrc)
  /-- SHF (R150): Writes a scalar into one field of a shadow layout record. -/
  | shf (fld : Fin 25) (a : SSrc) (sd : Fin 8)
  /-- SHF_ADD (R150): Adds a scalar into one field of a shadow record, wrapping at the field width. -/
  | shfAdd (fld : Fin 25) (a : SSrc) (sd : Fin 8)
  /-- SHFI (R150): Writes a sign-extended immediate into one shadow field. -/
  | shfi (imm : BitVec 9) (fld : Fin 25) (sd : Fin 8)
  /-- SHFI_ADD (R150): Adds a sign-extended immediate into one shadow field. -/
  | shfiAdd (imm : BitVec 9) (fld : Fin 25) (sd : Fin 8)
  /-- SHCP_D (R151): Copies a shape register into a shadow. -/
  | shcpD (sd : Fin 8) (t : Fin 8)
  /-- SHCP_SD (R151): Copies one shadow into another. -/
  | shcpSd (sd : Fin 8) (t : Fin 8)
  /-- SHCP_MEM (R151): Loads a 128-byte layout record from global memory into a shadow with variable latency. -/
  | shcpMem (sd : Fin 8) (a : SSrc)
  /-- SHRD (R152): Reads one field of a shape register or shadow into a scalar. -/
  | shrd (n : Bool) (d : SDst) (r : Fin 16) (fld : Fin 25)
  /-- SHCHK (R153): Writes the lowest failing layout check code of a record without trapping. -/
  | shchk (n : Bool) (d : SDst) (r : Fin 16)
  /-- CSRR (R159): Reads a control register through the issuing level's view. -/
  | csrr (n : Bool) (g : SDst) (c : BitVec 12)
  /-- CSRW (R159): Writes the visible writable fields of a control register, timed by its class. -/
  | csrw (g : SSrc) (c : BitVec 12)
  /-- CSRS (R159): Sets bits of a control register. -/
  | csrs (g : SSrc) (c : BitVec 12)
  /-- CSRC (R159): Clears bits of a control register. -/
  | csrc (g : SSrc) (c : BitVec 12)
  /-- SYS (R163): At U level waits for results, commits and enters the steward with SYSCALL. -/
  | sys (f : BitVec 6)
  /-- FREEZE (R166): Sends a suspend, freeze or resume request for a context and leaves X(d) pending for its status. -/
  | freeze (n : Bool) (d : SDst) (a : SSrc)
  /-- PAIRSET (R167): Requests paired or unprotected mode for a context, applied at each kernel's next dispatch. -/
  | pairset (n : Bool) (d : SDst) (a : SSrc)
  /-- CTC (R368): Reads the chip time counter at the issue tick. -/
  | ctc (n : Bool) (d : SDst)
  /-- BUDQ (R387): Reads an item of the charging budget account. -/
  | budq (n : Bool) (d : SDst) (a : SSrc)
  /-- BOOST (R387): Requests or releases boost permits for the cluster's lease. -/
  | boost (n : Bool) (d : SDst) (a : SSrc)
  /-- JRD (R387): Reads a joule counter of the step, task, context or island. -/
  | jrd (n : Bool) (d : SDst) (a : SSrc)
  /-- THQ (R385): Reads a temperature and its threshold band. -/
  | thq (n : Bool) (d : SDst) (a : SSrc)
  /-- VADD (R121): Adds vector elements with wrap. -/
  | vadd (n : Bool) (t : ITy) (d : VDst) (a : VSrc) (b : VSrc)
  /-- VSUB (R121): Subtracts vector elements with wrap. -/
  | vsub (n : Bool) (t : ITy) (d : VDst) (a : VSrc) (b : VSrc)
  /-- VADDS (R121): Adds vector elements with saturation. -/
  | vadds (n : Bool) (t : ITy) (d : VDst) (a : VSrc) (b : VSrc)
  /-- VSUBS (R121): Subtracts vector elements with saturation. -/
  | vsubs (n : Bool) (t : ITy) (d : VDst) (a : VSrc) (b : VSrc)
  /-- VMUL (R121): Multiplies vector elements keeping low bits. -/
  | vmul (n : Bool) (t : ITy) (d : VDst) (a : VSrc) (b : VSrc)
  /-- VMULH (R121): Multiplies vector elements keeping high bits. -/
  | vmulh (n : Bool) (t : ITy) (d : VDst) (a : VSrc) (b : VSrc)
  /-- VMULW (R123): Writes exact double-width products into a register pair. -/
  | vmulw (n : Bool) (t : ITy) (d : VDst) (a : VSrc) (b : VSrc)
  /-- VMAC (R121): Multiplies and accumulates into the old destination with wrap. -/
  | vmac (n : Bool) (t : ITy) (d : VDst) (a : VSrc) (b : VSrc)
  /-- VDOT (R122): Computes wrapping integer dot products into 32-bit lanes. -/
  | vdot (n : Bool) (t : ITy) (d : VDst) (a : VSrc) (b : VSrc)
  /-- VAND (R121): ANDs vector elements. -/
  | vand (n : Bool) (t : ITy) (d : VDst) (a : VSrc) (b : VSrc)
  /-- VOR (R121): ORs vector elements. -/
  | vor (n : Bool) (t : ITy) (d : VDst) (a : VSrc) (b : VSrc)
  /-- VXOR (R121): XORs vector elements. -/
  | vxor (n : Bool) (t : ITy) (d : VDst) (a : VSrc) (b : VSrc)
  /-- VANDN (R121): Computes a AND NOT b per element. -/
  | vandn (n : Bool) (t : ITy) (d : VDst) (a : VSrc) (b : VSrc)
  /-- VSHL (R121): Shifts elements left. -/
  | vshl (n : Bool) (t : ITy) (d : VDst) (a : VSrc) (b : VSrc)
  /-- VSHR (R121): Shifts elements right logically. -/
  | vshr (n : Bool) (t : ITy) (d : VDst) (a : VSrc) (b : VSrc)
  /-- VSRA (R121): Shifts elements right arithmetically. -/
  | vsra (n : Bool) (t : ITy) (d : VDst) (a : VSrc) (b : VSrc)
  /-- VMIN (R121): Writes element minima. -/
  | vmin (n : Bool) (t : ITy) (d : VDst) (a : VSrc) (b : VSrc)
  /-- VMAX (R121): Writes element maxima. -/
  | vmax (n : Bool) (t : ITy) (d : VDst) (a : VSrc) (b : VSrc)
  /-- VABS (R121): Writes element absolute values. -/
  | vabs (n : Bool) (t : ITy) (d : VDst) (a : VSrc)
  /-- VNEG (R121): Negates elements with wrap. -/
  | vneg (n : Bool) (t : ITy) (d : VDst) (a : VSrc)
  /-- VCMP_EQ (R121): Writes a predicate of element equality. -/
  | vcmpEq (n : Bool) (t : ITy) (d : PReg) (a : VSrc) (b : VSrc)
  /-- VCMP_NE (R121): Writes a predicate of element inequality. -/
  | vcmpNe (n : Bool) (t : ITy) (d : PReg) (a : VSrc) (b : VSrc)
  /-- VCMP_LT (R121): Writes a predicate of element less-than. -/
  | vcmpLt (n : Bool) (t : ITy) (d : PReg) (a : VSrc) (b : VSrc)
  /-- VCMP_LE (R121): Writes a predicate of element less-or-equal. -/
  | vcmpLe (n : Bool) (t : ITy) (d : PReg) (a : VSrc) (b : VSrc)
  /-- VSEL (R121): Selects a or the old destination by predicate bits. -/
  | vsel (n : Bool) (t : ITy) (d : VDst) (a : VSrc) (p : PReg)
  /-- VCLZ (R121): Counts leading zeros per element. -/
  | vclz (n : Bool) (t : ITy) (d : VDst) (a : VSrc)
  /-- VPOPC (R121): Counts ones per element. -/
  | vpopc (n : Bool) (t : ITy) (d : VDst) (a : VSrc)
  /-- VDOT_SAT (R122): Computes saturating integer dot products into 32-bit lanes. -/
  | vdotSat (n : Bool) (t : ITy) (d : VDst) (a : VSrc) (b : VSrc)
  /-- FADD (R124): Adds float elements with one rounding. -/
  | fadd (n : Bool) (t : FTy) (d : VDst) (a : VSrc) (b : VSrc)
  /-- FSUB (R124): Subtracts float elements. -/
  | fsub (n : Bool) (t : FTy) (d : VDst) (a : VSrc) (b : VSrc)
  /-- FMUL (R124): Multiplies float elements. -/
  | fmul (n : Bool) (t : FTy) (d : VDst) (a : VSrc) (b : VSrc)
  /-- FMA (R124): Computes a times b plus the old destination with one rounding. -/
  | fma (n : Bool) (t : FTy) (d : VDst) (a : VSrc) (b : VSrc)
  /-- FMS (R124): Computes a times b minus the old destination with one rounding. -/
  | fms (n : Bool) (t : FTy) (d : VDst) (a : VSrc) (b : VSrc)
  /-- FNMA (R124): Computes the old destination minus a times b with one rounding. -/
  | fnma (n : Bool) (t : FTy) (d : VDst) (a : VSrc) (b : VSrc)
  /-- FMIN (R124): Writes minimumNumber per element. -/
  | fmin (n : Bool) (t : FTy) (d : VDst) (a : VSrc) (b : VSrc)
  /-- FMAX (R124): Writes maximumNumber per element. -/
  | fmax (n : Bool) (t : FTy) (d : VDst) (a : VSrc) (b : VSrc)
  /-- FABS (R124): Clears the sign of float elements. -/
  | fabs (n : Bool) (t : FTy) (d : VDst) (a : VSrc)
  /-- FNEG (R124): Inverts the sign of float elements. -/
  | fneg (n : Bool) (t : FTy) (d : VDst) (a : VSrc)
  /-- FCMP_EQ (R125): Writes a predicate of float equality. -/
  | fcmpEq (n : Bool) (t : FTy) (d : PReg) (a : VSrc) (b : VSrc)
  /-- FCMP_NE (R125): Writes a predicate of float inequality. -/
  | fcmpNe (n : Bool) (t : FTy) (d : PReg) (a : VSrc) (b : VSrc)
  /-- FCMP_LT (R125): Writes a predicate of float less-than. -/
  | fcmpLt (n : Bool) (t : FTy) (d : PReg) (a : VSrc) (b : VSrc)
  /-- FCMP_LE (R125): Writes a predicate of float less-or-equal. -/
  | fcmpLe (n : Bool) (t : FTy) (d : PReg) (a : VSrc) (b : VSrc)
  /-- FCMP_UN (R125): Writes a predicate of unordered operands. -/
  | fcmpUn (n : Bool) (t : FTy) (d : PReg) (a : VSrc) (b : VSrc)
  /-- FRINT (R125): Rounds float elements to integral values. -/
  | frint (n : Bool) (t : FTy) (d : VDst) (a : VSrc)
  /-- VCVT (R126): Converts a register group into one narrower or equal-width register. -/
  | vcvt (n : Bool) (t : ElTy) (d : VDst) (a : VSrc) (src : ElTy)
  /-- VCVTW (R126): Converts one register into a wider register group. -/
  | vcvtw (n : Bool) (t : ElTy) (d : VDst) (a : VSrc) (src : ElTy)
  /-- VPACK (R127): Narrows two registers into one with saturation. -/
  | vpack (n : Bool) (t : ITy) (d : VDst) (a : VSrc) (b : VSrc)
  /-- VQNT (R128): Quantizes f32 values with scale and zero point to an integer type. -/
  | vqnt (n : Bool) (t : ITy) (d : VDst) (a : VSrc) (b : VSrc)
  /-- VMOV (R129): Copies a vector register. -/
  | vmov (n : Bool) (t : ITy) (d : VDst) (a : VSrc)
  /-- VBCAST (R129): Broadcasts one element to every element. -/
  | vbcast (n : Bool) (t : ITy) (d : VDst) (a : VSrc) (b : VSrc)
  /-- VEXT (R129): Extracts one element into element 0. -/
  | vext (n : Bool) (t : ITy) (d : VDst) (a : VSrc) (b : VSrc)
  /-- VINS (R129): Inserts element 0 of a into the old destination. -/
  | vins (n : Bool) (t : ITy) (d : VDst) (a : VSrc) (b : VSrc)
  /-- VPERM (R129): Permutes elements by an index vector. -/
  | vperm (n : Bool) (t : ITy) (d : VDst) (a : VSrc) (b : VSrc)
  /-- VZIP (R129): Interleaves two registers into a pair. -/
  | vzip (n : Bool) (t : ITy) (d : VDst) (a : VSrc) (b : VSrc)
  /-- VUNZIP (R129): De-interleaves two registers into a pair. -/
  | vunzip (n : Bool) (t : ITy) (d : VDst) (a : VSrc) (b : VSrc)
  /-- VSLIDE (R129): Slides elements by a signed count. -/
  | vslide (n : Bool) (t : ITy) (d : VDst) (a : VSrc) (b : VSrc)
  /-- VCOMPR (R129): Compresses selected elements to the front. -/
  | vcompr (n : Bool) (t : ITy) (d : VDst) (a : VSrc) (p : PReg)
  /-- VEXPND (R129): Expands consecutive elements into selected positions. -/
  | vexpnd (n : Bool) (t : ITy) (d : VDst) (a : VSrc) (p : PReg)
  /-- VIOTA (R129): Writes prefix counts of set predicate bits. -/
  | viota (n : Bool) (t : ITy) (d : VDst) (p : PReg)
  /-- VRSUM_INT (R131): Writes the exact 64-bit sum of selected integer elements. -/
  | vrsumInt (n : Bool) (t : ITy) (d : VDst) (a : VSrc) (p : PReg)
  /-- VRMAX_INT (R132): Writes the greatest selected integer element. -/
  | vrmaxInt (n : Bool) (t : ITy) (d : VDst) (a : VSrc) (p : PReg)
  /-- VRMIN_INT (R132): Writes the least selected integer element. -/
  | vrminInt (n : Bool) (t : ITy) (d : VDst) (a : VSrc) (p : PReg)
  /-- VARGMAX_INT (R132): Writes the index and value of the greatest selected integer element. -/
  | vargmaxInt (n : Bool) (t : ITy) (d : VDst) (a : VSrc) (p : PReg)
  /-- VSCAN_INT (R133): Computes an inclusive segmented integer prefix sum. -/
  | vscanInt (n : Bool) (t : ITy) (d : VDst) (a : VSrc) (p : PReg)
  /-- VSCAN_EX_INT (R133): Computes an exclusive segmented integer prefix sum. -/
  | vscanExInt (n : Bool) (t : ITy) (d : VDst) (a : VSrc) (p : PReg)
  /-- VCMPX_INT (R134): Performs one integer compare-exchange step of a sorting network. -/
  | vcmpxInt (n : Bool) (t : ITy) (d : VDst) (a : VSrc) (desc : Bool) (flip : Bool) (j : BitVec 4)
  /-- PSET (R135): Sets the first n predicate bits and clears the rest. -/
  | pset (n : Bool) (d : PReg) (k : BitVec 12)
  /-- PCNT (R135): Counts set predicate bits into lane 0. -/
  | pcnt (n : Bool) (d : VDst) (a : PReg)
  /-- PFIRST (R135): Keeps only the lowest set predicate bit. -/
  | pfirst (n : Bool) (d : PReg) (a : PReg)
  /-- VRSUM_FLOAT (R131): Reduces selected float elements to f32 by a fixed tree. -/
  | vrsumFloat (n : Bool) (t : FTy) (d : VDst) (a : VSrc) (p : PReg)
  /-- VRMAX_FLOAT (R132): Writes the greatest selected float element. -/
  | vrmaxFloat (n : Bool) (t : FTy) (d : VDst) (a : VSrc) (p : PReg)
  /-- VRMIN_FLOAT (R132): Writes the least selected float element. -/
  | vrminFloat (n : Bool) (t : FTy) (d : VDst) (a : VSrc) (p : PReg)
  /-- VARGMAX_FLOAT (R132): Writes the index and value of the greatest selected float element. -/
  | vargmaxFloat (n : Bool) (t : FTy) (d : VDst) (a : VSrc) (p : PReg)
  /-- VSCAN_FLOAT (R133): Computes an inclusive segmented float prefix sum. -/
  | vscanFloat (n : Bool) (t : FTy) (d : VDst) (a : VSrc) (p : PReg)
  /-- VSCAN_EX_FLOAT (R133): Computes an exclusive segmented float prefix sum. -/
  | vscanExFloat (n : Bool) (t : FTy) (d : VDst) (a : VSrc) (p : PReg)
  /-- VCMPX_FLOAT (R134): Performs one float compare-exchange step of a sorting network. -/
  | vcmpxFloat (n : Bool) (t : FTy) (d : VDst) (a : VSrc) (desc : Bool) (flip : Bool) (j : BitVec 4)
  /-- EXP2 (R136): Computes 2 to the power of each element. -/
  | exp2 (n : Bool) (t : FTy) (d : VDst) (a : VSrc)
  /-- LOG2 (R136): Computes the base-2 logarithm of each element. -/
  | log2 (n : Bool) (t : FTy) (d : VDst) (a : VSrc)
  /-- RCP (R136): Computes the reciprocal of each element. -/
  | rcp (n : Bool) (t : FTy) (d : VDst) (a : VSrc)
  /-- RSQRT (R136): Computes the reciprocal square root of each element. -/
  | rsqrt (n : Bool) (t : FTy) (d : VDst) (a : VSrc)
  /-- SQRT (R136): Computes the square root of each element. -/
  | sqrt (n : Bool) (t : FTy) (d : VDst) (a : VSrc)
  /-- SIN (R136): Computes the sine of each element. -/
  | sin (n : Bool) (t : FTy) (d : VDst) (a : VSrc)
  /-- COS (R136): Computes the cosine of each element. -/
  | cos (n : Bool) (t : FTy) (d : VDst) (a : VSrc)
  /-- TANH (R136): Computes the hyperbolic tangent of each element. -/
  | tanh (n : Bool) (t : FTy) (d : VDst) (a : VSrc)
  /-- ERF (R136): Computes the error function of each element. -/
  | erf (n : Bool) (t : FTy) (d : VDst) (a : VSrc)
  /-- LDS (R211): Loads 512 bytes from the scratchpad into a vector register. -/
  | lds (n : Bool) (t : ITy) (g : VDst) (b : SSrc) (off : BitVec 6)
  /-- STS (R211): Withholds a 512-byte scratchpad store until commit. -/
  | sts (t : ITy) (g : VSrc) (b : SSrc) (off : BitVec 6)
  /-- LDSS (R211): Loads 1 to 8 bytes from the scratchpad into a scalar. -/
  | ldss (n : Bool) (z : BitVec 3) (g : SDst) (b : SSrc) (off : BitVec 6)
  /-- STSS (R211): Withholds a scalar scratchpad store until commit. -/
  | stss (z : BitVec 3) (g : SSrc) (b : SSrc) (off : BitVec 6)
  /-- LDSG (R212): Gathers 64 elements from scratchpad offsets into a vector. -/
  | ldsg (n : Bool) (t : ITy) (g : VDst) (b : SSrc) (i : VSrc)
  /-- STSX (R212): Withholds a 64-element scratchpad scatter until commit. -/
  | stsx (t : ITy) (g : VSrc) (b : SSrc) (i : VSrc)
  /-- SPALLOC (R213): At commit grants a loaf range zeroed with a recorded life. -/
  | spalloc (a : SSrc) (b : SSrc)
  /-- SPFREE (R213): At commit releases a loaf range. -/
  | spfree (a : SSrc)
  /-- RENEW (R213): At commit rewrites live loaves and sets their new expiry. -/
  | renew (a : SSrc) (b : SSrc)
  /-- SPLIFE (R214): Reads the committed state, life and remaining time of a loaf. -/
  | splife (n : Bool) (d : SDst) (a : SSrc)
  /-- SPFILL (R213): At commit fills held loaves with a pattern and renews them. -/
  | spfill (a : SSrc) (b : SSrc)
  /-- WLD (R233): Copies a scratchpad box into the weight buffer and pushes its scale words. -/
  | wld (h : Fin 8) (sw : Bool) (bar : Option BarOp) (x : SSrc)
  /-- MMA (R228): Withholds a matrix multiply command described by an A record and a descriptor. -/
  | mma (h : Fin 8) (sw : Bool) (bar : Option BarOp) (x : SSrc)
  /-- ACCRD (R237): Reads one accumulator block into a vector, waiting while its region is busy. -/
  | accrd (n : Bool) (d : VDst) (a : SSrc)
  /-- ACCST (R234): Stores accumulator blocks through a record with conversion. -/
  | accst (h : Fin 8) (sw : Bool) (bar : Option BarOp) (x : SSrc)
  /-- ACCLD (R235): Loads a box into accumulator blocks with conversion to f32. -/
  | accld (h : Fin 8) (sw : Bool) (bar : Option BarOp) (x : SSrc)
  /-- ACCCLR (R236): Clears selected accumulator regions and their poison bits. -/
  | accclr (a : SSrc)
  /-- MGRP (R232): Sets the core's group row and column offsets in queue order. -/
  | mgrp (a : SSrc)
  /-- MWAIT (R238): Marks X(d) pending until masked matrix commands complete. -/
  | mwait (d : SDst) (a : SSrc)
  /-- LD (R253): Loads a scalar from global memory. -/
  | ld (n : Bool) (z : BitVec 3) (g : SDst) (b : SSrc) (off : BitVec 4)
  /-- LD_ACQ (R255): Loads a scalar as an acquire at a scope. -/
  | ldAcq (n : Bool) (z : BitVec 3) (g : SDst) (b : SSrc) (sc : Scope)
  /-- ST (R253): Withholds a scalar global store until commit. -/
  | st (z : BitVec 3) (g : SSrc) (b : SSrc) (off : BitVec 4)
  /-- ST_REL (R255): Withholds a releasing scalar store performed after earlier writes are acknowledged. -/
  | stRel (z : BitVec 3) (g : SSrc) (b : SSrc) (sc : Scope)
  /-- VLD (R253): Loads 512 bytes from global memory. -/
  | vld (n : Bool) (t : ITy) (g : VDst) (b : SSrc) (off : BitVec 4)
  /-- VLD_ACQ (R255): Loads 512 bytes as an acquire. -/
  | vldAcq (n : Bool) (t : ITy) (g : VDst) (b : SSrc) (sc : Scope)
  /-- VST (R253): Withholds a 512-byte global store. -/
  | vst (t : ITy) (g : VSrc) (b : SSrc) (off : BitVec 4)
  /-- VST_REL (R255): Withholds a releasing 512-byte global store. -/
  | vstRel (t : ITy) (g : VSrc) (b : SSrc) (sc : Scope)
  /-- VLDG (R253): Gathers 64 elements from global addresses. -/
  | vldg (n : Bool) (t : ITy) (g : VDst) (b : SSrc) (i : VSrc)
  /-- VSTX (R253): Withholds a 64-element global scatter. -/
  | vstx (t : ITy) (g : VSrc) (b : SSrc) (i : VSrc)
  /-- LDF (R257): Reads a 64-bit future, waiting at the home slice until it is full. -/
  | ldf (n : Bool) (g : SDst) (b : SSrc)
  /-- LDF_ACQ (R257): Reads a future as an acquire. -/
  | ldfAcq (n : Bool) (g : SDst) (b : SSrc) (sc : Scope)
  /-- STF (R258): Withholds a future store that sets the full bit and answers waiters. -/
  | stf (g : SSrc) (b : SSrc)
  /-- STF_REL (R258): Withholds a releasing future store. -/
  | stfRel (g : SSrc) (b : SSrc) (sc : Scope)
  /-- PREF (R262): Prefetches a sector into the system cache and optionally L1. -/
  | pref (l1 : Bool) (b : SSrc) (off : BitVec 4)
  /-- FENCE_ACQ (R263): Acts as an acquire at issue, invalidating L1 and holding later loads. -/
  | fenceAcq (sc : Scope)
  /-- FENCE_REL (R263): Withholds a release entry that holds later entries until earlier writes are acknowledged. -/
  | fenceRel (sc : Scope)
  /-- FENCE_AR (R263): Acts as both acquire and release fence. -/
  | fenceAr (sc : Scope)
  /-- FENCEX (R264): Withholds a cross-path fence ordering two paths and releasing at its scope. -/
  | fencex (sc : Scope) (p : BitVec 3) (q : BitVec 3)
  /-- CAS (R260): Withholds a compare-and-swap performed at the home slice at commit. -/
  | cas (n : Bool) (sc : Scope) (g : SDst) (b : SSrc) (o : Ord) (sz : Bool)
  /-- ATOM_ADD (R260): Withholds an atomic add returning the old value. -/
  | atomAdd (n : Bool) (sc : Scope) (g : SDst) (b : SSrc) (o : Ord) (sz : Bool)
  /-- ATOM_AND (R260): Withholds an atomic AND. -/
  | atomAnd (n : Bool) (sc : Scope) (g : SDst) (b : SSrc) (o : Ord) (sz : Bool)
  /-- ATOM_OR (R260): Withholds an atomic OR. -/
  | atomOr (n : Bool) (sc : Scope) (g : SDst) (b : SSrc) (o : Ord) (sz : Bool)
  /-- ATOM_XOR (R260): Withholds an atomic XOR. -/
  | atomXor (n : Bool) (sc : Scope) (g : SDst) (b : SSrc) (o : Ord) (sz : Bool)
  /-- ATOM_MIN (R260): Withholds an atomic signed minimum. -/
  | atomMin (n : Bool) (sc : Scope) (g : SDst) (b : SSrc) (o : Ord) (sz : Bool)
  /-- ATOM_MAX (R260): Withholds an atomic signed maximum. -/
  | atomMax (n : Bool) (sc : Scope) (g : SDst) (b : SSrc) (o : Ord) (sz : Bool)
  /-- ATOM_MINU (R260): Withholds an atomic unsigned minimum. -/
  | atomMinu (n : Bool) (sc : Scope) (g : SDst) (b : SSrc) (o : Ord) (sz : Bool)
  /-- ATOM_MAXU (R260): Withholds an atomic unsigned maximum. -/
  | atomMaxu (n : Bool) (sc : Scope) (g : SDst) (b : SSrc) (o : Ord) (sz : Bool)
  /-- ATOM_SWAP (R260): Withholds an atomic swap. -/
  | atomSwap (n : Bool) (sc : Scope) (g : SDst) (b : SSrc) (o : Ord) (sz : Bool)
  /-- COPY_OUT (R296): Withholds a copy from a record's tensor to a dense side. -/
  | copyOut (h : Fin 8) (sw : Bool) (bar : BarOp) (dense : Bool) (x : SDst)
  /-- COPY_IN (R296): Withholds a copy from a dense side into a record's tensor, possibly multicast. -/
  | copyIn (h : Fin 8) (sw : Bool) (bar : BarOp) (dense : Bool) (x : SDst)
  /-- COPYM (R298): Withholds a weight copy with scale stream followed by a matrix command in each receiver. -/
  | copym (h : Fin 8) (sw : Bool) (bar : BarOp) (post : Bool) (x : SDst)
  /-- COPYS (R297): Withholds a copy of a global box into weight buffers with its scale stream. -/
  | copys (h : Fin 8) (sw : Bool) (bar : BarOp) (x : SDst)
  /-- COPYX (R305): Withholds a converting copy between two boxes. -/
  | copyx (h : Fin 8) (sw : Bool) (bar : BarOp) (x : SDst)
  /-- GATH (R307): Withholds a row gather through an index table to a dense destination. -/
  | gath (h : Fin 8) (sw : Bool) (bar : BarOp) (dense : Bool) (x : SDst)
  /-- REDC_ADD (R306): Withholds a link-engine add reduction into a dense destination. -/
  | redcAdd (h : Fin 8) (sw : Bool) (bar : BarOp) (x : SDst)
  /-- REDC_MAX (R306): Withholds a link-engine max reduction. -/
  | redcMax (h : Fin 8) (sw : Bool) (bar : BarOp) (x : SDst)
  /-- REDC_MIN (R306): Withholds a link-engine min reduction. -/
  | redcMin (h : Fin 8) (sw : Bool) (bar : BarOp) (x : SDst)
  /-- CPQ_SUMMARY (R309): Reads the counts of running, halted and used copy entries. -/
  | cpqSummary (n : Bool) (d : SDst)
  /-- CPQ_ENTRY (R309): Reads the state, handle and progress of one copy entry. -/
  | cpqEntry (n : Bool) (d : SDst) (a : SSrc)
  /-- CPCAN (R310): Withholds a cancel, retry, skip or patch of a copy entry. -/
  | cpcan (a : SSrc) (b : SSrc)
  /-- SPAWN (R333): Withholds a device-side launch of the packet at X(xa). -/
  | spawn (bar : Option BarOp) (x : SSrc)
  /-- PIPW (R332): Withholds a 512-byte pipe message to the reader endpoint. -/
  | pipw (e : Fin 8) (src : PipeSrc)
  /-- PIPR (R332): Reads the next pipe entry speculatively, pending until it is present. -/
  | pipr (n : Bool) (dst : PipeDst) (e : Fin 8)
  /-- PIPQ (R332): Samples the fill or outstanding count of a pipe endpoint. -/
  | pipq (n : Bool) (d : SDst) (e : Fin 8)
  /-- BINIT (R373): Withholds initialisation of a barrier with an arrival count. -/
  | binit (bar : BarOp) (x : SSrc)
  /-- BARV (R373): Withholds a barrier arrival. -/
  | barv (bar : BarOp)
  /-- BARV_EXP (R373): Withholds a barrier arrival with a byte expectation. -/
  | barvExp (bar : BarOp) (x : SSrc)
  /-- BEXP (R373): Withholds a byte expectation on a barrier. -/
  | bexp (bar : BarOp) (x : SSrc)
  /-- BWAIT (R374): Marks X(xa) pending until the barrier's phase differs from the given one. -/
  | bwait (bar : BarOp) (x : SDst)
  /-- BTRY (R374): Reads a barrier's phase and flags and whether it moved. -/
  | btry (n : Bool) (bar : BarOp) (x : SDst)
  /-- CKPT (R109): Waits for no pending register, commits the segment and takes a new checkpoint. -/
  | ckpt
  /-- STEPEND (R111): Issues its bundle, stops issue and waits for every result before retiring the step. -/
  | stepend
  /-- NOP (R108): Has no effect. -/
  | nop
  /-- ERET (R164): Waits for results, commits the steward segment and reloads the kernel from the save area. -/
  | eret
  /-- IFLUSH (R165): Invalidates the core's L1 instruction cache and fetch blocks. -/
  | iflush
  /-- YIELD (R334): Commits and checkpoints, then parks the step when an eligible step could launch in its place. -/
  | yield
  /-- STATFL (R339): Withholds a flush of the statistics queue to its ring. -/
  | statfl
  /-- RESULT_LANDING (R72): A fixed-latency result lands in its register and latch L beats after issue. -/
  | resultLanding (c : Nat)
  /-- VARIABLE_RESULT_LANDING (R73): A variable-latency result arrives, clears the pending mark and ends any freeze on it. -/
  | variableResultLanding (c : Nat) (k : Nat)
  /-- COMMIT_BUFFER_DRAIN (R177): A committed entry drains to its path and is performed. -/
  | commitBufferDrain (c : Nat)
  /-- WRITE_ACKNOWLEDGE (R252): An acknowledgement of a write arrives, releasing waiting releases and arrivals. -/
  | writeAcknowledge (c : Nat) (k : Nat)
  /-- WRFAIL_REPORT (R177): A committed store or atomic is found lost after commit and reported as WRFAIL. -/
  | wrfailReport (c : Nat) (k : Nat) (link : Bool)
  /-- STEP_RETIRE (R26): After STEPEND's results land the segment commits and the step retires. -/
  | stepRetire (c : Nat)
  /-- SYSCALL_ENTRY (R163): After SYS's results land the segment commits and the steward is entered with SYSCALL. -/
  | syscallEntry (c : Nat)
  /-- ERET_RETURN (R164): After ERET's results land the steward segment commits and the kernel state is reloaded. -/
  | eretReturn (c : Nat)
  /-- SLEEP_WAKE (R110): The chip time counter reaches the sleep tick and issue resumes. -/
  | sleepWake (c : Nat)
  /-- ASYNC_TRAP_DELIVERY (R184): A pending asynchronous record is delivered at a checkpoint, at once when frozen, or before redispatch. -/
  | asyncTrapDelivery (c : Nat)
  /-- PREEMPTION (R187): Stops issue at a boundary, rolls back, saves state and spills loaves and parks the step. -/
  | preemption (c : Nat)
  /-- TRAP_HANDLER_ABANDON (R181): After 16,000 ticks of waiting a priority-0 pre-emption abandons the trap handler. -/
  | trapHandlerAbandon (c : Nat)
  /-- STEP_DISPATCH (R326): When cores can take a step the dispatcher ranks eligible steps, picks a variant and launches or holds each. -/
  | stepDispatch (isl : Nat)
  /-- PROOFING_AREA_BUILD (R205): The dispatcher reserves loaves, fetches the kernel and copies preloads for the next step. -/
  | proofingAreaBuild (c : Nat) (task : Nat) (wid : Nat)
  /-- PROOFING_LOAF_RENEW (R205): A proofing loaf whose remaining life falls below 20,000 ticks is renewed or recopied. -/
  | proofingLoafRenew (c : Nat) (loaf : Nat)
  /-- STEP_KILL (R24): The steward kills a resident or parked step. -/
  | stepKill (task : Nat) (wid : Nat)
  /-- CONTEXT_DESTROY (R24): The steward destroys a context and its parked steps are killed. -/
  | contextDestroy (ctx : Nat)
  /-- WALKER_GENERATE (R322): The walker generates steps in WID order into its window with dependence counters. -/
  | walkerGenerate (task : Nat)
  /-- COMPLETION_WORD_WRITE (R318): After the last step retires, and any rel wait, the device writes the completion word. -/
  | completionWordWrite (task : Nat)
  /-- NOTIFY_WRITE (R313): A host write to a queue's notify register stores the new write index. -/
  | notifyWrite (vi : Nat) (q : Nat) (val : BitVec 32)
  /-- PACKET_PROCESS (R314): The packet processor reads the next packet of a queue and advances rd_index. -/
  | packetProcess (vi : Nat) (q : Nat)
  /-- PACKET_ADMIT (R316): The task is admitted once its wait, acquire and table room allow. -/
  | packetAdmit (vi : Nat) (q : Nat)
  /-- MARKER_COMPLETE (R315): A marker packet completes when every earlier packet of its queue has completed. -/
  | markerComplete (vi : Nat) (q : Nat)
  /-- FABRIC_MESSAGE_RECEIVE (R335): A receiver takes a fabric message, accepts and acknowledges it or drops it with a NACK. -/
  | fabricMessageReceive (c : Nat) (k : Nat)
  /-- FABRIC_ACKNOWLEDGE (R335): An acknowledgement removes a message from the sender's replay window. -/
  | fabricAcknowledge (c : Nat) (k : Nat)
  /-- REPLAY_RESEND (R336): After the back-off expires the port resends the refused message and later ones in order. -/
  | replayResend (c : Nat)
  /-- FORWARDING_ENTRY_EXPIRE (R362): A forwarding entry frees at its expiry tick. -/
  | forwardingEntryExpire (c : Nat) (k : Nat)
  /-- LDF_REQUEST_RESOLVE (R257): An LDF reaches its home slice and returns the value or is deferred. -/
  | ldfRequestResolve (c : Nat) (k : Nat)
  /-- CACHE_SECTOR_FILL (R247): Memory data fills a system-cache sector, poisoned if uncorrectable. -/
  | cacheSectorFill (a : Nat) (bad : Bool)
  /-- TLB_MISS_WALK (R350): The chip walker walks the page tables for a miss and installs the translation. -/
  | tlbMissWalk (c : Nat) (va : Word)
  /-- ATS_TRANSLATION_COMPLETION (R353): A host ATS completion arrives and is cached or triggers a PRI page request and XLATE. -/
  | atsTranslationCompletion (pasid : Nat) (va : Word) (size : Nat) (hpa : Nat) (rights : BitVec 3) (present : Bool)
  /-- HOST_ATS_INVALIDATE (R354): A host ATS Invalidate Request is handled as a range invalidation and completed when met. -/
  | hostAtsInvalidate (pasid : Nat) (va : Word) (size : Nat)
  /-- XLT_INVALIDATE_RANGE (R351): An xlt.cmd kind 0 write starts invalidation of an aligned range of a context. -/
  | xltInvalidateRange (vi : Nat) (ctx : Nat) (range : Nat)
  /-- XLT_INVALIDATE_CONTEXT (R351): An xlt.cmd kind 1 write starts invalidation of a whole context. -/
  | xltInvalidateContext (vi : Nat) (ctx : Nat)
  /-- XLT_RELOAD_DESCRIPTOR (R351): An xlt.cmd kind 2 write re-reads the context descriptor or rejects it. -/
  | xltReloadDescriptor (vi : Nat) (ctx : Nat)
  /-- XLT_CMD_RESERVED_KIND (R351): An xlt.cmd kind 3 write is rejected and sets err. -/
  | xltCmdReservedKind (vi : Nat)
  /-- XLT_CMD_COMPLETE (R352): An invalidation completes when no covered entry or access remains and the count advances. -/
  | xltCmdComplete (vi : Nat)
  /-- COPY_START (R290): The BTE starts the ready entry with the smallest not_before in a free running slot. -/
  | copyStart (c : Nat)
  /-- COPY_ELEMENT_TRANSFER (R291): The engine reaches an element, checks its addresses and reads, fills or writes it. -/
  | copyElementTransfer (c : Nat) (pos : Nat)
  /-- COPY_COMPLETE (R292): A command completes and posts its box byte count to its barrier. -/
  | copyComplete (c : Nat) (pos : Nat)
  /-- MATRIX_CMD_START (R231): The matrix unit starts the next queued command, popping its scale batch. -/
  | matrixCmdStart (c : Nat)
  /-- MATRIX_CMD_COMPLETE (R230): A matrix command completes, writing results and posting any barrier arrival or bytes. -/
  | matrixCmdComplete (c : Nat)
  /-- ACCRD_BUSY_LAND (R237): An ACCRD on a busy region lands 4 cycles after the region stops being busy. -/
  | accrdBusyLand (c : Nat)
  /-- STAT_DRAIN (R338): In a free port cycle one statistics record and the write index are written to the ring. -/
  | statDrain (c : Nat)
  /-- LINK_REDUCTION_UPDATE (R306): The link engine reads a source element and updates the destination at its home slice. -/
  | linkReductionUpdate (c : Nat) (pos : Nat)
  /-- BARRIER_UPDATE_APPLY (R370): A barrier applies one initialise, arrival, expectation or byte post and checks completion. -/
  | barrierUpdateApply (ctx : Nat) (l : Nat) (idx : Nat) (upd : BarUpdate)
  /-- LOAF_EXPIRE (R197): A held loaf passes its expiry tick and becomes expired. -/
  | loafExpire (c : Nat) (loaf : Nat)
  /-- BANK_GUARD_GRANT (R208): An engine request that waited 64 cycles is granted ahead of every rank, freezing the core a beat. -/
  | bankGuardGrant (c : Nat)
  /-- LOGICAL_CORE_ABSENT (R393): A park, suspension, freeze or migration stops the step and spills its state into the image. -/
  | logicalCoreAbsent (ctx : Nat) (l : Nat)
  /-- MERGE_ON_RESUME (R397): A step dispatched on an absent logical core has its image merged before its first bundle. -/
  | mergeOnResume (ctx : Nat) (l : Nat) (c : Nat)
  /-- CONTEXT_SUSPEND (R393): A suspend request makes every logical core absent and returns its status. -/
  | contextSuspend (ctx : Nat)
  /-- CONTEXT_FREEZE_REFLECTION (R402): A freeze request suspends, drains in-flight work and writes the walker area and header. -/
  | contextFreezeReflection (ctx : Nat)
  /-- CONTEXT_RESUME (R404): A resume request checks fit, rebases saved ticks and resumes the context. -/
  | contextResume (ctx : Nat)
  /-- MIGRATION_REQUEST (R399): A steward migration request is recorded to be honoured at the step's next checkpoint. -/
  | migrationRequest (ctx : Nat) (l : Nat) (dest : Option Nat)
  /-- ROTATION (R406): A parked step waiting over 100 intervals causes the longest-resident step to be parked in its favour. -/
  | rotation (ctx : Nat)
  /-- BUDGET_INTERVAL_BOUNDARY (R378): Every 10,000 ticks the governor grants, debits and caps each account. -/
  | budgetIntervalBoundary (isl : List Nat) (shares : List EnergyShare)
  /-- BOOST_LEASE_EXPIRE (R382): A lease lapses at its expiry tick and returns its permits. -/
  | boostLeaseExpire (cl : Nat)
  /-- SENSOR_SAMPLE (R384): Each microsecond every sensor is sampled and compared with the thresholds. -/
  | sensorSample (cores : List Reading) (slices : List Reading) (cool : Option (BitVec 16))
  /-- CLUSTER_GATE (R386): An empty cluster whose predicted idle time pays for a sleep-wake pair is gated. -/
  | clusterGate (cl : Nat)
  /-- VIT_LOAD (R364): Writing vit.load loads or refuses a virtual interface entry. -/
  | vitLoad (vi : Nat)
  /-- ISL_MATRIX_WRITE (R365): A write to isl.matrix holds changed cluster rails or is refused. -/
  | islMatrixWrite (v : Word)
  /-- GOV_LIMIT_WRITE (R375): A write to gov.limit sets the power limit or is refused outside 300 to 750 W. -/
  | govLimitWrite (v : Word)
  /-- FAB_BACKOFF_WRITE (R416): A write to fab.backoff sets the replay back-off or is refused below 16. -/
  | fabBackoffWrite (v : Word)
  /-- BRIDGE_TRAIN_GO (R416): Writing go to brg.train starts bridge training at max_step. -/
  | bridgeTrainGo (step : BitVec 2)
  /-- MAILBOX_REQUEST_POST (R412): A write of req_wr posts request records to H firmware unless it would overfill. -/
  | mailboxRequestPost (vi : Nat) (wr : BitVec 4)
  /-- MAILBOX_REPLY_CONSUME (R412): A write of rep_rd consumes reply records. -/
  | mailboxReplyConsume (vi : Nat) (rd : BitVec 4)
  /-- ATTESTATION_REPORT (R422): H firmware answers an attestation request with a signed report. -/
  | attestationReport (vi : Nat) (nonce : BitVec 256)
  /-- DEVICE_REGISTER_WRITE (R242): A write to a device register without its own row updates its writable fields. -/
  | deviceRegisterWrite (a : Nat) (wide : Bool) (v : Word)
  /-- BRIDGE_MARGIN_REPORT (R414): Every 10 µs each lane reports its eye margin and the receiver may request a rate change. -/
  | bridgeMarginReport (mv : List Nat)
  /-- BRIDGE_RETRAIN_DONE (R414): A rate change finishes retraining, resends held flits and logs a link event. -/
  | bridgeRetrainDone
  /-- FLIT_RETRY (R415): A flit failing CRC after FEC is resent, up to 8 times. -/
  | flitRetry (rx : Bool) (good : Bool)
  /-- PATROL_SCRUB (R250): The patrol scrub reads sectors and rewrites those it corrects. -/
  | patrolScrub (a : Nat)
  /-- COOLANT_CONTROL_UPDATE (R418): Every 10 ms firmware sets pump and valve duty from zone readings. -/
  | coolantControlUpdate (pump : Nat) (valves : List Nat)
  /-- COOLING_FAULT (R418): A sustained cooling fault appends an event and puts every island in half-width mode. -/
  | coolingFault (kind : CoolFault) (on : Bool)
  /-- MGMT_SMBUS_WRITE (R419): The board controller writes gov.limit through H firmware. -/
  | mgmtSmbusWrite (v : Word)
  /-- GRACEFUL_POWER_DOWN (R419): The board controller requests a graceful power-down. -/
  | gracefulPowerDown
  /-- BRING_UP (R423): After power-good the device verifies firmware, trains memory and links and loads interface 0. -/
  | bringUp (ok : Bool) (block : Option Board)
  /-- HOST_WRITE (R282): A host posted write is performed at the home slice in delivery order. -/
  | hostWrite (a : Nat) (bs : List Byte)
  /-- HOST_READ (R282): A host read of node 0 is performed at the home slice. -/
  | hostRead (a : Nat) (len : Nat)
  /-- HOST_ATOMICOP (R282): A host AtomicOp on node 0 is performed as an atomic. -/
  | hostAtomicop (a : Nat) (wide : Bool) (op : HostAtomic)
  /-- FGB_LOAD (R90): The steward loads an FGB file, patches it and creates its graph instances or refuses it. -/
  | fgbLoad (ctx : Nat) (file : List Byte) (places : List Placing) (tables : List Nat)
  /-- CONTEXT_CREATE (R388): Creating a context sets its diversion entries absent and initialises its barriers. -/
  | contextCreate (vi : Nat) (ctx : Nat)
  /-- PRI_PAGE_RESPONSE (R353): A PRI Page Response from the host frees one of the function's outstanding page-request allocations, so a page request waiting in the device can be sent. -/
  | priPageResponse (vi : Nat)
  /-- GRAPH_INSTANCE_UNLOAD (R18): The steward unloads a graph instance, which retires it and lets the walker drop the completion bitmaps it kept for the instance's tasks. -/
  | graphInstanceUnload (ctx : Nat) (gi : Nat)
  /-- PAIR_QUARANTINE_CLEAR (R192): H firmware clears a quarantined pair, after which the pair may take work again. -/
  | pairQuarantineClear (c : Nat)
  deriving DecidableEq, Repr

/-- The acts of the event rows, with the arguments of the rows' constructors: what a schedule of the model holds. (An
act is its own type because a runtime value of Instr can hold fields only under its first 245 constructors.) -/
inductive Act where
  | resultLanding (c : Nat)
  | variableResultLanding (c : Nat) (k : Nat)
  | commitBufferDrain (c : Nat)
  | writeAcknowledge (c : Nat) (k : Nat)
  | wrfailReport (c : Nat) (k : Nat) (link : Bool)
  | stepRetire (c : Nat)
  | syscallEntry (c : Nat)
  | eretReturn (c : Nat)
  | sleepWake (c : Nat)
  | asyncTrapDelivery (c : Nat)
  | preemption (c : Nat)
  | trapHandlerAbandon (c : Nat)
  | stepDispatch (isl : Nat)
  | proofingAreaBuild (c : Nat) (task : Nat) (wid : Nat)
  | proofingLoafRenew (c : Nat) (loaf : Nat)
  | stepKill (task : Nat) (wid : Nat)
  | contextDestroy (ctx : Nat)
  | walkerGenerate (task : Nat)
  | completionWordWrite (task : Nat)
  | notifyWrite (vi : Nat) (q : Nat) (val : BitVec 32)
  | packetProcess (vi : Nat) (q : Nat)
  | packetAdmit (vi : Nat) (q : Nat)
  | markerComplete (vi : Nat) (q : Nat)
  | fabricMessageReceive (c : Nat) (k : Nat)
  | fabricAcknowledge (c : Nat) (k : Nat)
  | replayResend (c : Nat)
  | forwardingEntryExpire (c : Nat) (k : Nat)
  | ldfRequestResolve (c : Nat) (k : Nat)
  | cacheSectorFill (a : Nat) (bad : Bool)
  | tlbMissWalk (c : Nat) (va : Word)
  | atsTranslationCompletion (pasid : Nat) (va : Word) (size : Nat) (hpa : Nat) (rights : BitVec 3) (present : Bool)
  | hostAtsInvalidate (pasid : Nat) (va : Word) (size : Nat)
  | xltInvalidateRange (vi : Nat) (ctx : Nat) (range : Nat)
  | xltInvalidateContext (vi : Nat) (ctx : Nat)
  | xltReloadDescriptor (vi : Nat) (ctx : Nat)
  | xltCmdReservedKind (vi : Nat)
  | xltCmdComplete (vi : Nat)
  | copyStart (c : Nat)
  | copyElementTransfer (c : Nat) (pos : Nat)
  | copyComplete (c : Nat) (pos : Nat)
  | matrixCmdStart (c : Nat)
  | matrixCmdComplete (c : Nat)
  | accrdBusyLand (c : Nat)
  | statDrain (c : Nat)
  | linkReductionUpdate (c : Nat) (pos : Nat)
  | barrierUpdateApply (ctx : Nat) (l : Nat) (idx : Nat) (upd : BarUpdate)
  | loafExpire (c : Nat) (loaf : Nat)
  | bankGuardGrant (c : Nat)
  | logicalCoreAbsent (ctx : Nat) (l : Nat)
  | mergeOnResume (ctx : Nat) (l : Nat) (c : Nat)
  | contextSuspend (ctx : Nat)
  | contextFreezeReflection (ctx : Nat)
  | contextResume (ctx : Nat)
  | migrationRequest (ctx : Nat) (l : Nat) (dest : Option Nat)
  | rotation (ctx : Nat)
  | budgetIntervalBoundary (isl : List Nat) (shares : List EnergyShare)
  | boostLeaseExpire (cl : Nat)
  | sensorSample (cores : List Reading) (slices : List Reading) (cool : Option (BitVec 16))
  | clusterGate (cl : Nat)
  | vitLoad (vi : Nat)
  | islMatrixWrite (v : Word)
  | govLimitWrite (v : Word)
  | fabBackoffWrite (v : Word)
  | bridgeTrainGo (step : BitVec 2)
  | mailboxRequestPost (vi : Nat) (wr : BitVec 4)
  | mailboxReplyConsume (vi : Nat) (rd : BitVec 4)
  | attestationReport (vi : Nat) (nonce : BitVec 256)
  | deviceRegisterWrite (a : Nat) (wide : Bool) (v : Word)
  | bridgeMarginReport (mv : List Nat)
  | bridgeRetrainDone
  | flitRetry (rx : Bool) (good : Bool)
  | patrolScrub (a : Nat)
  | coolantControlUpdate (pump : Nat) (valves : List Nat)
  | coolingFault (kind : CoolFault) (on : Bool)
  | mgmtSmbusWrite (v : Word)
  | gracefulPowerDown
  | bringUp (ok : Bool) (block : Option Board)
  | hostWrite (a : Nat) (bs : List Byte)
  | hostRead (a : Nat) (len : Nat)
  | hostAtomicop (a : Nat) (wide : Bool) (op : HostAtomic)
  | fgbLoad (ctx : Nat) (file : List Byte) (places : List Placing) (tables : List Nat)
  | contextCreate (vi : Nat) (ctx : Nat)
  | priPageResponse (vi : Nat)
  | graphInstanceUnload (ctx : Nat) (gi : Nat)
  | pairQuarantineClear (c : Nat)
  /-- H firmware flushes the system cache (11 R241). -/
  | cacheFlush
  /-- H firmware takes the oldest request of a mailbox in hand, and answers it (18 R412). -/
  | mailboxTake (vi : Nat)
  | mailboxReply (vi : Nat) (body : BitVec 512)
  /-- The peer, the receiver of the transmit direction, requests the next lower or the next higher rate (18 R414). -/
  | peerRate (lower : Bool)
  /-- Readings of the pump's tachometer and of the flow sensor; none of a sensor that is silent (18 R418). -/
  | coolantReading (speed : Nat) (flow : Option Nat)
  | mgmtRead (item : MgmtItem)
  /-- A steward makes a range of device memory visible to the host, or no longer (18 R411). -/
  | windowMap (lo : Nat) (n : Nat) (on : Bool)
  /-- H firmware goes on with the emergency save (17 R408). -/
  | emergencySave
  /-- A bit of a memory cell is lost in a way that its next read corrects (11 R250). -/
  | cellUpset (a : Nat)
  deriving DecidableEq, Repr

end Sys2Proof
end

