-- ==== Sys2Proof/Machine/State.lean ====
section
/-! DEFINITION. The state of the TK8 as plain data: a core (with its checkpoint state held twice), the other cores,
the chip, memory, the tables the device keeps outside memory, and the outside world as far as instructions see it.
INVENTORY.md names the rule of the spec behind every field. -/

namespace Sys2Proof.Machine

/-- Bytes by address, addresses strictly rising, no entry equal to 0, which an unlisted address reads as (log 6). -/
abbrev Mem := List Host.Cell

/-- A table by key, keys strictly rising. -/
abbrev Tab (α : Type) := List (Nat × α)

/-- A set of numbers, strictly rising. -/
abbrev NSet := List Nat

/-- A loop stack entry (04 R91). -/
structure LoopEntry where
  start : Word
  stop : Word
  count : Word
  deriving DecidableEq, Repr

/-- The modulo sequencer (04 R91, R105, R106); stop and after are the re-derived body end and the address after the
stage map (17 R391). -/
structure Modulo where
  active : Bool
  start : Word
  ii : Nat
  n : Nat
  stages : Nat
  k : Nat
  pass : Nat
  map : List Nat
  stop : Word
  after : Word
  deriving DecidableEq, Repr

/-- The checkpoint state of a kernel (08 R169). -/
structure Arch where
  x : Vector Word 56
  p : Vector PWord 16
  v : Vector VWord 48
  w : Vector VWord 8
  d : Vector Rec 8
  sd : Vector Rec 8
  fpctl : Word
  fpflags : Word
  loops : List LoopEntry
  modq : Modulo
  wid : Word
  depth : Nat
  widths : List Nat
  /-- Pipe read pointers, counted without wrapping; the saved byte is the count modulo 16. -/
  rd : Vector Nat 8
  ckptmax : Nat
  deriving DecidableEq, Repr

/-- The level of the running bundle (07 R156). -/
inductive Level where
  | u | s | h
  deriving DecidableEq, Repr

/-- What a core is doing. -/
inductive Phase where
  /-- No kernel and no steward code runs here. -/
  | idle
  /-- Bundles issue. -/
  | run
  /-- STEPEND has issued; STEP_RETIRE ends the step (04 R111). -/
  | stepEnd
  /-- SYS has issued with this function number, slot and bundle; SYSCALL_ENTRY enters the trap (07 R163). -/
  | sys (fn pos : Nat) (bundle : Word)
  /-- ERET has issued at this slot and bundle; ERET_RETURN reloads the kernel (07 R164). -/
  | eret (pos : Nat) (bundle : Word)
  /-- Issue stopped after a double fault (08 R182). -/
  | halted
  /-- This core follows the leader of its pair (08 R190). -/
  | follower
  deriving DecidableEq, Repr

/-- The delay-bundle state (03 R61): the branch bundle has issued, the delay bundle is next. -/
inductive Delay where
  | none
  /-- After the delay bundle, go to the target; unconditional and untaken branches have no target. -/
  | after (target : Option Word)
  deriving DecidableEq, Repr

/-- Where a fixed-latency result goes (03 R72). -/
inductive Dst where
  | none
  | x (d : Fin 56) (v : Word)
  | p (d : Fin 16) (v : PWord)
  | v (ds : List (VDst × VWord))
  | csr (n : Nat) (v : Word)
  | shf (sd : Fin 8) (fld : Fin 25) (v : Word)
  | sd (sd : Fin 8) (r : Rec)
  deriving DecidableEq, Repr

/-- A result in flight (03 R72, R74); the list of them is in issue order, which decides R74. -/
structure Flight where
  due : Nat
  dst : Dst
  /-- The latch it fills and with what (03 R69). -/
  latch : Option (Nat × VWord)
  flags : BitVec 5
  /-- Issued since the last checkpoint: only such a result fills its latch (08 R170). -/
  fresh : Bool
  /-- The beat and the slot of its issue (03 R73, R74). -/
  issued : Nat
  pos : Nat
  deriving DecidableEq, Repr

/-- Bytes of a store: their address and content. -/
structure Chunk where
  va : Nat
  pa : Nat
  bytes : List Byte
  deriving DecidableEq, Repr

/-- One piece of a pending load: the physical address and, per byte, what a withheld store forwards (08 R174). -/
structure Piece where
  va : Nat
  pa : Nat
  fwd : List (Option Byte)
  /-- The bridge went down while the piece was under way: it comes poisoned (18 R415). -/
  lost : Bool
  deriving DecidableEq, Repr

/-- What a pending register waits for (03 R73). -/
inductive Wait where
  /-- A global load; sx is the size code of a scalar load (03 R67), w the width of gathered elements, 0 for none. -/
  | load (pieces : List Piece) (sx : Nat) (w : Nat) (acq : Option Scope) (useL1 : Bool)
  /-- A future (11 R257): deferred at its slice, or refused until a tick (R259), and the bytes forwarded to it (08 R174). -/
  | future (va pa : Nat) (acq : Option Scope) (deferred : Bool) (retry : Nat) (fwd : List (Option Byte))
  /-- A forwarded future (11 R257). -/
  | futureFwd (v : Word) (acq : Option Scope)
  | barrier (idx phase : Nat)
  | pipe (e count : Nat) (vec : Bool)
  | accrd (row col : Nat)
  /-- MWAIT (10 R238): the commands that it waits for, and the tick at which the last of them completed. -/
  | mwait (ids : List Nat) (last : Option Nat)
  /-- A PREF that an acquire before it holds back (11 R255, R263): its address, the physical one, and whether L1 takes the line. -/
  | pref (va pa : Nat) (l1 : Bool)
  /-- A FREEZE request of this core (07 R166): the context, the request's number, whether the bundle has joined its own
  earlier request, and the status once it ended. -/
  | freeze (ctx req : Nat) (joined : Bool) (status : Option Nat)
  deriving DecidableEq, Repr

/-- The register that a variable-latency operation has marked (03 R73); none with n = 1 or X0. -/
inductive PDst where
  | none
  | x (d : Fin 56)
  | v (d : VDst)
  | sd (d : Fin 8)
  deriving DecidableEq, Repr

/-- A pending result. -/
structure Pend where
  dst : PDst
  wait : Wait
  latch : Nat
  /-- The beat of its issue, its core's time then, and whether it was issued since the last checkpoint. -/
  beat : Nat
  time : Nat
  fresh : Bool
  /-- The bundle and slot that issued it, for a fault of its landing. -/
  bundle : Word
  slot : Nat
  /-- Later global loads, LDF, PREF and ordered accesses wait for it (11 R255, R263). -/
  block : Bool
  deriving DecidableEq, Repr

/-- A barrier operand as resolved at issue (13 R288): bn = 1 names a barrier of a logical core. -/
structure BarRef where
  named : Bool
  lcore : Nat
  idx : Nat
  deriving DecidableEq, Repr

/-- The atomic operations (11 R260). -/
inductive AOp where
  | add | and | or | xor | min | max | minu | maxu | swap | cas
  deriving DecidableEq, Repr

/-- The matrix commands (10 R225). -/
inductive MKind where
  | wld | mma | accst | accld | accclr | mgrp
  deriving DecidableEq, Repr

/-- The step that a committed effect belongs to (11 R249, 14 R317, 16 R377). -/
structure Owner where
  task : Nat
  wid : Nat
  deriving DecidableEq, Repr

/-- A matrix command (10 R216): its record copy, its scalar operand, its barrier and where it came from. A follow-on
of COPYM has follow set. Its number, given at commit, is that of its place among its core's engine commands, and names
it on the chip; a follow-on has its COPYM's. owner is its step and gang its gang's logical cores. poisoned, faults, the
elements that an ACCST has written and whether one of its elements saturated are the run's own (R234, R239). -/
structure MCmd where
  id : Nat
  kind : MKind
  shape : Rec
  x : Word
  bar : Option BarRef
  bundle : Word
  level : Level
  follow : Bool
  ctx : Nat
  lcore : Nat
  owner : Owner
  gang : List Nat
  poisoned : Bool
  faults : List (Nat × Nat)
  /-- The physical core whose engine supplied a follow-on (14 R337); none for a command of the core itself. -/
  home : Option Nat
  moved : Nat
  saturated : Bool
  /-- The tick of its commit (12 R285). -/
  tick : Nat
  deriving DecidableEq, Repr

/-- The copy commands (13 R294). -/
inductive CKind where
  | copyOut (glob : Bool) | copyIn (glob : Bool) | copym (post : Bool) | copys | copyx | gath (glob : Bool)
  | redc (op : Nat)
  deriving DecidableEq, Repr

/-- The state of a command-buffer entry (13 R288). -/
inductive CState where
  | waiting | running | halted
  deriving DecidableEq, Repr

/-- A command of the block-transfer engine (13 R288). The last fields are the run's own progress: the scale words
pushed, the table of GATH, the codes and details reported in this run (R303), whether its post sets poisoned (R372),
the element skipped by CPCAN with the side that failed there (R304), which side failed last, the statistics records made
(R48), the command's coverage by byte and the words it poisoned (09 R198, R215), by frame (Copy.lean), and at the end the
receivers whose follow-on has entered and whether the bytes are posted (R298), and whether the bridge went down under the
read of its element (18 R415); tick is its commit tick. A row of the table is its failure's code (0 for none) and
its index. seq is the command's number, given at commit, as a matrix command's id; owner and gang are as there. -/
structure CCmd where
  pos : Nat
  ctx : Nat
  lcore : Nat
  owner : Owner
  gang : List Nat
  level : Level
  state : CState
  kind : CKind
  recs : List Rec
  ops : List Word
  notBefore : Nat
  progress : Nat
  bundle : Word
  bar : BarRef
  seq : Nat
  pushed : Nat
  scaleDone : Bool
  table : List (Nat × Int)
  reported : List (Nat × Nat)
  poisoned : Bool
  skip : Option (Nat × Bool)
  failSrc : Bool
  stats : NSet
  cover : Tab (BitVec 4096)
  bad : NSet
  followed : List Nat
  posted : Bool
  lost : Bool
  tick : Nat
  /-- The trap records that name it (13 R308): their addresses. -/
  notes : List Nat
  deriving DecidableEq, Repr

/-- Loaf management (09 R213). -/
inductive SpOp where
  | alloc | free | renew | fill
  deriving DecidableEq, Repr

/-- What a withheld entry will do (08 R172). -/
inductive EKind where
  | spStore (chunks : List Chunk)
  | spMgmt (op : SpOp) (first count : Nat) (v : Word)
  | gStore (chunks : List Chunk) (rel : Option Scope)
  | stf (va pa : Nat) (v : Word) (rel : Option Scope)
  | atom (op : AOp) (va pa size : Nat) (cmp operand : Word) (ord : Ord) (scope : Scope) (dst : Option (Fin 56)) (beat : Nat)
  | fenceRel (scope : Scope)
  | fencex (scope : Scope) (p q : Nat)
  | barrier (bar : BarRef) (upd : BarUpdate)
  /-- PIPW with its endpoint and the reader it was resolved to at issue: logical core and endpoint. -/
  | pipw (e l pe : Nat) (m : VWord)
  | copy (c : CCmd)
  | cpcan (pos act : Nat) (v : Word)
  | matrix (c : MCmd)
  | spawn (va : Nat) (post : Option BarRef)
  | statfl
  | csr (n : Nat) (v : Word)
  | pairset (ctx : Nat) (paired : Bool)
  /-- Closes the draining stores of a segment: the loaves that they cover whole (09 R198). -/
  | covered (loaves : List Nat)
  deriving DecidableEq, Repr

/-- A commit-buffer entry (08 R172): what it does, the level, bundle, context, logical core and step it came from, and
its commit tick once it is committed. -/
structure Entry where
  kind : EKind
  level : Level
  bundle : Word
  ctx : Nat
  lcore : Nat
  owner : Owner
  tick : Nat
  deriving DecidableEq, Repr

/-- A write of the core that is performed but not yet acknowledged (11 R252): its node and addresses, and whose it is; a
drain of the statistics queue reports no loss (14 R338). -/
structure Ack where
  node : Nat
  pa : Nat
  va : Nat
  task : Nat
  ctx : Nat
  lcore : Nat
  bundle : Word
  silent : Bool
  deriving DecidableEq, Repr

/-- The issue context of the slot that executes: its position, its unit's ordinal, whether the bundle's swaps are done
(06 R148), whether a slot trapped, whether the bundle redirected itself, and the facts of the bundle in issue. (Log 3.) -/
structure Issue where
  pos : Nat
  unit : Nat
  swapped : Bool
  stopped : Bool
  /-- A taken branch's target, or the bundle after an empty LOOP or LOOPM body. -/
  branch : Option (Option Word)
  jump : Option Word
  /-- The address of the bundle that follows the issuing one. -/
  nextPc : Word
  /-- C-class writes that the bundle has withheld (07 R160). -/
  cw : Nat
  deriving DecidableEq, Repr

/-- The trap registers and the other control registers of a core (07 R155). -/
structure Csrs where
  cause : Word
  baddr : Word
  info : Word
  ret : Word
  status : Word
  vec : Word
  save : Word
  scratch : Word
  statRing : Word
  deriving DecidableEq, Repr

/-- The registers as a core has them at reset (07 R155). -/
def Csrs.reset : Csrs := Csrs.mk 0 0 0 0 0 0 0 0 0

/-- Who runs on a core (01 R18 to R23). -/
structure Seat where
  ctx : Nat
  lcore : Nat
  vi : Nat
  task : Nat
  wid : Nat
  member : Nat
  footprint : Nat
  prio : Nat
  deriving DecidableEq, Repr

/-- The record of one physical loaf (09 R194). -/
structure Loaf where
  life : Nat
  expiry : Nat
  deriving DecidableEq, Repr

/-- Who holds a physical loaf (09 R194); a loaf listed nowhere is free. -/
inductive Holder where
  | step | proofing
  deriving DecidableEq, Repr

/-- A proofing area (09 R205): the step it is for and its loaf map. -/
structure Proof where
  task : Nat
  wid : Nat
  map : Tab Nat
  /-- The step behind which it is built, and that step's restarts then (09 R206). -/
  behind : Nat × Nat × Nat
  deriving DecidableEq, Repr

/-- The scratchpad of a core (09 R194): cells by byte offset in the physical loaves, poison by physical bank word
(offset / 64), the loaf map of the resident step, holder and record by physical loaf. (Coverage per writer stands with
the writer: CCmd.cover for a copy, EKind.covered for the stores of a segment.) -/
structure Scratch where
  cells : Mem
  poison : NSet
  map : Tab Nat
  holder : Tab Holder
  loaf : Tab Loaf
  proof : Option Proof
  deriving DecidableEq, Repr

/-- A word of the scale FIFO (13 R287, 10 R223). -/
structure SWord where
  word : BitVec 32
  stop : Bool
  /-- Marked poisoned (10 R223). -/
  bad : Bool
  deriving DecidableEq, Repr

/-- The matrix state of a core (10 R216). The accumulator array and the weight buffer are held by byte offset in the
layout of 17 R389. -/
structure Matrix where
  wb : Mem
  wbPoison : NSet
  acc : Mem
  accPoison : NSet
  queue : List MCmd
  /-- The head command has started; the scale words popped by the first command of the queue that needs them. -/
  running : Bool
  batch : List SWord
  /-- WLDs whose bytes are written and which still push scale words, with the words pushed. -/
  pushing : List (MCmd × Nat)
  rowOff : Nat
  colOff : Nat
  markC : BitVec 4
  markW : BitVec 8
  lastCtx : Option Nat
  deriving DecidableEq, Repr

/-- A pipe endpoint (14 R311, 17 R390): the entries it holds, oldest first, from the count base on. -/
structure Pipe where
  role : Nat
  depth : Nat
  peerMember : Nat
  peerEnd : Nat
  base : Nat
  entries : List VWord
  outstanding : Nat
  deriving DecidableEq, Repr

/-- A statistics record (14 R337), with the context to whose ring it drains (R338). -/
structure Stat where
  ctx : Nat
  kind : Nat
  source : Nat
  handle : Nat
  tick : Nat
  bundle : Word
  deriving DecidableEq, Repr

/-- The engines of a core: block-transfer engine, scale FIFO, pipes, statistics queue (13 R287, 14 R311). -/
structure Engines where
  bte : List CCmd
  seq : Nat
  fifo : List SWord
  pipes : Vector Pipe 8
  statq : List Stat
  deriving DecidableEq, Repr

/-- A 64-byte line of an L1 cache. -/
structure Line where
  data : BitVec 512
  poison : Bool
  deriving DecidableEq, Repr

/-- A translation (15 R349): the context, the page, its rights (a leaf's bits) and whether the walk came from a dirty
leaf; leaf is the address of the entry read. -/
structure Tlb where
  ctx : Nat
  va : Nat
  size : Nat
  pa : Nat
  leaf : BitVec 64
  leafAddr : Nat
  deriving DecidableEq, Repr

/-- An element among the bytes of a remote store (13 R300, R303): its offset, whether it is poisoned, its coordinates. -/
structure StoreEl where
  off : Nat
  bad : Bool
  crd : List Nat
  deriving DecidableEq, Repr

/-- What a fabric message carries (14 R335). -/
inductive Body where
  | pipe (e : Nat) (m : VWord)
  | barrier (idx : Nat) (upd : BarUpdate)
  /-- A free notice of pipe slots to the writer (14 R332). -/
  | freeNotice (e : Nat) (n : Nat)
  /-- Bytes of an engine command, by its number, for the receiver's scratchpad (13 R300; 10 R234), with the elements that
  they are, in order. -/
  | store (cmd off : Nat) (bs : List Byte) (els : List StoreEl)
  deriving DecidableEq, Repr

/-- The state of a message in a replay window (14 R336). -/
inductive MState where
  | sent | accepted | refused (retry : Nat)
  deriving DecidableEq, Repr

/-- A message in a replay window (14 R335, R336), to a logical core of a context. -/
structure Msg where
  seq : Nat
  ctx : Nat
  lcore : Nat
  body : Body
  st : MState
  /-- An engine's post is reported as its command's; a core's own as handle 0 (16 R371). -/
  handle : Nat
  bundle : Word
  /-- The task whose step sent it (14 R317), and the logical core that did. -/
  task : Nat
  src : Nat
  /-- Sent by an engine: no write of the core itself (11 R252). -/
  engine : Bool
  /-- The physical core to which its port has resolved it (15 R361), or to which it was passed on (R362). -/
  dest : Option Nat
  deriving DecidableEq, Repr

/-- A forwarding entry (15 R362). -/
structure Fwd where
  ctx : Nat
  lcore : Nat
  pcore : Nat
  expiry : Nat
  deriving DecidableEq, Repr

/-- The caches, translations and fabric port of a core (11 R241, 15 R342, 14 R311). -/
structure Port where
  l1d : Tab Line
  l1i : Tab Line
  tlb : List Tlb
  window : List Msg
  seq : Nat
  fwd : List Fwd
  acks : List Ack
  deriving DecidableEq, Repr

/-- A physical core. -/
structure Core where
  pcore : Nat
  arch : Arch
  ck : Arch
  ckAddr : Word
  pc : Word
  level : Level
  phase : Phase
  delay : Delay
  lat : Vector VWord 8
  fspace : Nat
  beat : Nat
  flight : List Flight
  pend : List Pend
  /-- Identity of the last checkpoint, of the kernel's while the steward runs, the identities given so far, and the
  checkpoint at which the last FREEZE request left (07 R166). -/
  ckId : Nat
  ckKernel : Nat
  ckNext : Nat
  frzCk : Option Nat
  /-- Asleep until a tick, since another (04 R110). -/
  sleep : Option (Nat × Nat)
  segBundles : Nat
  cbuf : List Entry
  drain : List Entry
  csr : Csrs
  /-- The interface whose trap registers stand in `csr`, and those of the others that have run here (07 R158). -/
  csrVi : Nat
  csrBank : Tab Csrs
  paired : Bool
  quarantined : Bool
  mismatches : Nat
  sig : Word
  /-- From outside: the issued bundles, counted by beat, whose signatures will disagree (08 R191; log 20). -/
  upsets : List Nat
  iss : Issue
  sp : Scratch
  mx : Matrix
  eng : Engines
  port : Port
  bars : Mem
  sensor : BitVec 16
  ltime : Nat
  seat : Option Seat
  /-- A YIELD or an asynchronous delivery that already happened at the bundle about to issue. -/
  yielded : Bool
  /-- The clean sources consumed in this segment (08 R188): their addresses. -/
  cleanRerun : List Nat
  /-- A record is due before the next bundle at U level: a synchronous trap was taken where it would have been delivered
  (08 R186), or the step has just come to its core (R184): then the records of the events before tick `dueBy` are. -/
  asyncDue : Bool
  dueBy : Nat
  /-- Since when a pre-emption waits for this core, and whether it is for a priority-0 step (08 R181, 14 R328). -/
  preempt : Option (Nat × Bool)
  deriving DecidableEq, Repr

/-- A virtual interface entry in force (15 R364). -/
structure Vi where
  enabled : Bool
  isolated : Bool
  unsigned : Bool
  island : Nat
  lclusters : Nat
  lcores : Nat
  mask : BitVec 8
  prioCap : Nat
  buShare : Nat
  memQuota : Nat
  ctxBase : Nat
  ctxCount : Nat
  vector : Nat
  ctxTable : Nat
  queueTable : Nat
  ring : Nat
  ringSize : Nat
  keys : Nat
  keyCount : Nat
  deriving DecidableEq, Repr

/-- The registers of an interface's translation page and its commands not yet complete (15 R351): kind, context, range, address. -/
structure Xlt where
  addr : Word
  err : Bool
  count : Nat
  cmds : List (Nat × Nat × Nat × Nat)
  deriving DecidableEq, Repr

/-- The mailbox of an interface (18 R412). -/
structure Mbox where
  repRd : Nat
  repWr : Nat
  reqRd : Nat
  reqWr : Nat
  busy : Bool
  page : Mem
  /-- The first 8 bytes of the request that H firmware has in hand. -/
  hand : Option Nat
  deriving DecidableEq, Repr

/-- A context in force (15 R357, 07 R156, 17 R400): what its descriptor gave, what the interface entry gave at its
creation, its pairing, and its device-kept counters. -/
structure Ctx where
  vi : Nat
  /-- The address of its descriptor. -/
  desc : Nat
  root : Nat
  pasid : Nat
  lcores : Nat
  logBase : Nat
  logWin : Nat
  logSize : Nat
  map : Nat
  div : Nat
  memQuota : Nat
  prioCap : Nat
  lclCores : Nat
  lclusters : Nat
  /-- 0 running, 1 suspended, 2 frozen, 3 resuming. -/
  state : Nat
  paired : Bool
  statRing : Word
  /-- The ring's write index and lost count, which the device keeps (14 R338). -/
  statWr : Nat
  statLost : Nat
  joule : Nat
  /-- The FREEZE requests not yet ended, in order (07 R166), the first in progress: a request's number is its mode plus 4
  times the identity of the checkpoint at which it left, 0 for one of the device's own. -/
  stopping : List Nat
  /-- The bytes of device memory that loads have placed for it (03 R90). -/
  memUsed : Nat
  /-- The context has been resumed (12 R285). -/
  resumed : Bool
  /-- When it was last suspended or frozen (12 R285). -/
  stopAt : Nat
  /-- The pinned entries of its map that are effective, by logical core (15 R351, R358). -/
  pins : Tab Nat
  deriving DecidableEq, Repr

/-- An entry of a cluster's naming cache (15 R342, R361): the map entry and the diversion state of a logical core. -/
structure Naming where
  cluster : Nat
  ctx : Nat
  lcore : Nat
  entry : Nat
  div : Nat
  deriving DecidableEq, Repr

/-- The producers of a logical core's scale FIFO that have a place there, by number, in their order (13 R301). -/
structure ScaleLine where
  ctx : Nat
  lcore : Nat
  queue : List Nat
  deriving DecidableEq, Repr

/-- The life of a tile step (01 R24). -/
inductive SState where
  | blocked | ready | held | resident | parked | migrating
  deriving DecidableEq, Repr

/-- A generated, unretired tile step (01 R20, 14 R322): its counter, its logical and physical cores, the variant it
runs, the intervals held, restarts, energy and the requests outstanding for it. -/
structure Step where
  task : Nat
  wid : Nat
  idx : List Nat
  state : SState
  counter : Nat
  lcores : List Nat
  cores : List Nat
  variant : Nat
  held : Nat
  restarts : Nat
  joule : Nat
  /-- Sectors metered since its generation, and those counted at the last boundary (16 R381, R383). -/
  sectors : Nat
  sectorsAt : Nat
  /-- Not considered before this interval on this island (14 R329). -/
  notBefore : Nat × Nat
  /-- A migration requested for this logical core, to this core if it names one (17 R399). -/
  migrate : Option (Nat × Option Nat)
  /-- To be parked at its next checkpoint by a rotation (17 R406). -/
  rotate : Bool
  /-- The members whose STEPEND has committed (01 R26). -/
  ended : NSet
  /-- By logical core: the identities of its last checkpoint and of its last FREEZE request's (07 R166), and whether it
  yielded there (14 R334). -/
  ids : List (Nat × Nat × Option Nat × Bool)
  parkedAt : Nat
  residentAt : Nat
  /-- By logical core: the core that it left last (15 R362; 17 R406). -/
  was : Tab Nat
  deriving DecidableEq, Repr

/-- A kernel variant of a task (14 R320): the gang descriptor as read at admission. -/
structure Member where
  entry : Word
  loaves : Nat
  ckptmax : Nat
  deriving DecidableEq, Repr

/-- A pipe of a gang (14 R320). -/
structure GPipe where
  writer : Nat
  reader : Nat
  depth : Nat
  wEnd : Nat
  rEnd : Nat
  deriving DecidableEq, Repr

/-- A variant: its energy class, its members and pipes (14 R319, R320). -/
structure Variant where
  cls : Nat
  members : List Member
  pipes : List GPipe
  deriving DecidableEq, Repr

/-- A dependence rule as bound at admission (14 R320). -/
inductive Rule where
  | chain (level : Nat)
  | tile (mask : BitVec 6) (producer : Option Nat)
  deriving DecidableEq, Repr

/-- A preload (14 R321). -/
structure Preload where
  base : Nat
  stride : Nat
  first : Nat
  count : Nat
  level : Nat
  deriving DecidableEq, Repr

/-- An operator task of the walker's table (14 R311, R319 to R324, 17 R401). -/
structure Task where
  id : Nat
  ctx : Nat
  pblock : Word
  /-- Its admission tick plus 2^64: after a resume it may lie before tick 0 of the chip (17 R405). -/
  age : Nat
  doneAddr : Nat
  doneValue : Word
  fences : BitVec 4
  /-- The queue it came from; none for SPAWN, whose arrival is post. -/
  queue : Option Nat
  post : Option (BarRef × Word × Nat)
  packet : Nat
  graph : Option Nat
  prio : Nat
  restartable : Bool
  cheaper : Bool
  variants : List Variant
  rules : List Rule
  preloads : List Preload
  widths : List Nat
  tiles : List Nat
  steps : Nat
  /-- The next step to generate, the retired steps, and whether the task retired or was dropped. -/
  nextGen : Nat
  done : NSet
  retired : Bool
  joule : Nat
  /-- Its place in the walker area, and the offset of its bitmap there (17 R401). -/
  slot : Nat
  bitmap : Nat
  deriving DecidableEq, Repr

/-- A packet being processed or held (14 R314 to R317, R333): its number in the queue, its 64 bytes, and for one of SPAWN
the barrier, the bundle and the logical core of its arrival. -/
structure Packet where
  num : Nat
  bytes : BitVec 512
  post : Option (BarRef × Word × Nat)
  deriving DecidableEq, Repr

/-- The packet processor's state of a queue (14 R314): the packet read and not admitted, the packets not complete. A number
from 64 on names the device queue of a context, 64 less, with the packets that it holds (14 R333). -/
structure PQueue where
  vi : Nat
  q : Nat
  queue : List Packet
  current : Option Packet
  open_ : List Packet
  /-- Bytes of packet reads and completion data the processor keeps: next packet number. -/
  next : Nat
  deriving DecidableEq, Repr

/-- A kernel table entry of a loaded file (03 R86). -/
structure Kernel where
  entry : Nat
  size : Nat
  loaves : Nat
  ckptmax : Nat
  cls : Nat
  gang : Nat
  variantOf : Nat
  name : Nat
  deriving DecidableEq, Repr

/-- A graph instance (01 R18, 03 R86, 14 R315). -/
structure Graph where
  ctx : Nat
  index : Nat
  /-- By node: its kernel's table entry (03 R86), if the file has one. -/
  kernels : List (Option Kernel)
  /-- Nodes: parameter block addresses; edges: producer and consumer node. -/
  nodes : List Nat
  edges : List (Nat × Nat)
  /-- Its last operator task has retired (01 R18). -/
  retired : Bool
  deriving DecidableEq, Repr

/-- A budget account (16 R366): of an island itself or of one interface on it. -/
structure Acct where
  island : Nat
  vi : Option Nat
  balance : Int
  grant : Nat
  admitted : Nat
  sectors : Nat
  carry : Nat
  deriving DecidableEq, Repr

/-- An island's governor state (16 R366, R379, R380, 14 R327). -/
structure Island where
  warned : Bool
  /-- The boundary at which the warning was raised. -/
  warnedAt : Nat
  half : Bool
  hot : Bool
  pool : Nat
  joule : Nat
  /-- Reservation: task, step, amount, priority. -/
  reserve : Option (Nat × Nat × Nat × Nat)
  idleFor : Nat
  deriving DecidableEq, Repr

/-- A boost lease (16 R382). -/
structure Lease where
  remaining : Nat
  age : Nat
  expiry : Nat
  frozen : Bool
  /-- The step that it is of, and its context. -/
  ctx : Nat
  owner : Owner
  deriving DecidableEq, Repr

/-- A cluster (16 R366, R386, 01 R14). -/
structure Cluster where
  lease : Option Lease
  /-- Clock of the current interval: 0, 1 or 2. -/
  clock : Nat
  /-- Intervals of falling clock still due. -/
  fall : Nat
  gated : Bool
  idle : List Nat
  idleSince : Nat
  deriving DecidableEq, Repr

/-- A kernel's stay on a core that ended in the interval at hand (16 R383): the ticks of the interval that it lasted, and
the microjoules added for it at its step's retirement. -/
structure Stay where
  core : Nat
  seat : Seat
  ticks : Nat
  paid : Option Nat
  deriving DecidableEq, Repr

/-- The governor's registers (16 R375). -/
structure Gov where
  watts : Nat
  cost : Vector Word 4
  pairUj : Nat
  leakMw : Nat
  deriving DecidableEq, Repr

/-- One direction of the bridge (18 R413, R414): trained, rate step, retries of the flit in hand, the consecutive low
reports of each lane, the consecutive good reports of all, the reports left in which no step up follows a step down, and
the step it retrains to. -/
structure Link where
  up : Bool
  step : Nat
  retries : Nat
  low : List Nat
  good : Nat
  holdOff : Nat
  retrain : Option Nat
  deriving DecidableEq, Repr

/-- The bridge and fabric registers (18 R416). -/
structure Bridge where
  tx : Link
  rx : Link
  marginHigh : Nat
  marginLow : Nat
  maxStep : Nat
  backoff : Nat
  /-- Each chip has verified the other's identity report: node 1 is open (18 R423, step 5). -/
  opened : Bool
  deriving DecidableEq, Repr

/-- The coolant loop (18 R418): duties in 1/256, the conditions that stand, the coolant temperature, the last readings of
tachometer and flow, the ticks since when they are below the block's minima, and when the flow sensor and the temperature
sensor last answered. -/
structure Cool where
  pump : Nat
  valves : List Nat
  faults : List CoolFault
  reading : Option (BitVec 16)
  speed : Nat
  flow : Nat
  slow : Option Nat
  dry : Option Nat
  heard : Nat
  heardTemp : Nat
  deriving DecidableEq, Repr

/-- The chip's tenancy registers (15 R363 to R365). -/
structure Tenancy where
  vitBase : Word
  seq : Nat
  lastVi : Nat
  status : Nat
  rail : BitVec 16
  railPend : BitVec 8
  railNew : BitVec 16
  deriving DecidableEq, Repr

/-- The chip's power (16 R384, 18 R419). -/
inductive Power where
  | on | low | off
  deriving DecidableEq, Repr

/-- A sector of the system cache (11 R241). -/
structure Sector where
  dirty : Bool
  poison : Bool
  deriving DecidableEq, Repr

/-- A deferred future (11 R257, R259): the slice, the word, and the core that asked. -/
structure Deferred where
  slice : Nat
  pa : Nat
  core : Nat
  deriving DecidableEq, Repr

/-- A host page (15 R353): its PASID, page and rights as an ATS completion would return them. -/
structure HostPage where
  pasid : Nat
  va : Nat
  size : Nat
  hpa : Nat
  rights : BitVec 3
  deriving DecidableEq, Repr

/-- Device memory, its metadata and the caches above it (11 R241); node 1 stands at 2^45 and above (R242). -/
structure Memory where
  bytes : Mem
  host : Mem
  full : NSet
  poison : NSet
  dirtyTrack : NSet
  sys : Tab Sector
  defer : List Deferred
  /-- From outside: the sectors of device memory whose next read meets a correctable error; and the corrected reads that H
  firmware has not been told of (11 R250; log 123). -/
  weak : NSet
  corrected : Nat
  deriving DecidableEq, Repr

/-- What the model's schedule says happens next (log 1). -/
inductive Turn where
  | core (p : Nat)
  | act (a : Act)
  | time (ticks : Nat)
  deriving DecidableEq, Repr

/-- The whole machine. `core` is the core whose turn it is; a core listed nowhere is as at reset. -/
structure State where
  core : Core
  others : List Core
  tick : Nat
  mem : Memory
  /-- Naming and translation shared by the chip (15 R342). -/
  ctlb : List (Nat × Tlb)
  atc : List Tlb
  hostMap : List HostPage
  pri : List (Nat × Nat × Nat)
  vit : Vector (Option Vi) 64
  vitNext : Vector (Option Vi) 64
  xlt : Vector Xlt 64
  ten : Tenancy
  gov : Gov
  govNext : Gov
  accts : List Acct
  islands : Vector Island 4
  clusters : Vector Cluster 8
  sliceSensor : List Reading
  coolant : Cool
  limH : Word
  limS : Vector Word 64
  ctxs : Tab Ctx
  naming : List Naming
  lines : List ScaleLine
  /-- What the device keeps of the copy commands whose records stand in images (17 R390), by place there. -/
  kept : List (Nat × CCmd)
  tasks : List Task
  steps : List Step
  pqueues : List PQueue
  graphs : List Graph
  nextTask : Nat
  msi : List (Nat × Nat)
  mbox : Vector Mbox 64
  bridge : Bridge
  /-- The MSI-X tables, 64 KiB for each interface (18 R411). -/
  msix : Mem
  /-- Bring-up (18 R423): the steps done, whether the next one failed, the fused rollback counter, and the board
  configuration block in force. -/
  bring : Nat
  bringFailed : Bool
  rollback : Nat
  board : Option Board
  power : Power
  interval : Nat
  /-- What the last host read or AtomicOp returned (12 R282). -/
  hostData : List Byte
  /-- The ranges of device memory that a steward has made visible to the host, by address and size (18 R411). -/
  windows : List (Nat × Nat)
  /-- The SPI flash by offset, the four fused key hashes, and whether firmware runs from slot B (18 R420, R423). -/
  flash : Mem
  fuses : List (List Byte)
  slot : Option Bool
  /-- What the last management read returned (18 R419). -/
  mgmt : Nat
  /-- The hottest readings of the last 100 samples, newest first, and the contexts that the emergency save at hand covers and
  has still to handle, each with whether the save has asked for its freeze (17 R408). -/
  heats : List (BitVec 16)
  saves : List (Nat × Bool)
  /-- The status of the last context creation (15 R357). -/
  created : Nat
  /-- The stays on cores that ended in the interval at hand (16 R383), and whether the dispatcher has still to consider the
  balances of its beginning (23 R445). -/
  stays : List Stay
  passDue : Bool
  /-- The model's own: what happens next, and the count of free choices taken (log 1, 2). -/
  schedule : List Turn
  free : Nat
  deriving DecidableEq, Repr

/-- Why the machine stops. -/
inductive Fault where
  /-- The device is powered off (16 R384, 18 R419); raised by step. Safe: the spec gives no behaviour without power. -/
  | poweredOff
  deriving DecidableEq, Repr

/-- Why the model refuses an instruction. -/
inductive Refusal where
  /-- The row of the opcode table has no meaning in the model yet; raised by exec. Safe. -/
  | notModelled (mnemonic : String)
  deriving DecidableEq, Repr

/-- The inactive modulo sequencer (04 R91). -/
def Modulo.reset : Modulo := (Modulo.mk false 0 0 0 0 0 0 [] 0 0)

/-- The checkpoint state before any dispatch (04 R91, 05 R113, 06 R140; log 5). -/
def Arch.reset : Arch :=
  (Arch.mk (.replicate 56 0) (.replicate 16 0) (.replicate 48 0) (.replicate 8 0) (.replicate 8 0) (.replicate 8 0)
    0 0 [] .reset 0 1 [1, 0, 0, 0, 0, 0] (.replicate 8 0) 4096)

/-- An unused pipe endpoint (14 R311). -/
def Pipe.reset : Pipe := (Pipe.mk 0 0 0 0 0 [] 0)

/-- A core after device reset (the reset column of each inventory table; log 5). -/
def Core.reset (p : Nat) : Core where
  pcore := p
  arch := .reset
  ck := .reset
  ckAddr := 0
  pc := 0
  level := .u
  phase := .idle
  delay := .none
  lat := .replicate 8 0
  fspace := 3
  beat := 0
  flight := []
  pend := []
  ckId := 0
  ckKernel := 0
  ckNext := 0
  frzCk := none
  sleep := none
  segBundles := 0
  cbuf := []
  drain := []
  csr := .reset
  csrVi := 0
  csrBank := []
  paired := false
  quarantined := false
  mismatches := 0
  sig := 0
  upsets := []
  iss := (Issue.mk 0 0 false false none none 0 0)
  sp := (Scratch.mk [] [] [] [] [] none)
  mx := (Matrix.mk [] [] [] [] [] false [] [] 0 0 0 0 none)
  eng := (Engines.mk [] 0 [] (.replicate 8 .reset) [])
  port := (Port.mk [] [] [] [] 0 [] [])
  bars := []
  sensor := 0
  ltime := 0
  seat := none
  yielded := false
  cleanRerun := []
  asyncDue := false
  dueBy := 0
  preempt := none

/-- The cost table of an island at reset (16 R375). -/
def costReset : Word := 0x2018100C08060402

/-- therm.limits at reset (07 R156). -/
def limitsReset : Word := 0x06E00690064005F0

/-- The machine right after device reset (every inventory table's reset column; 16 R366 for the boost pools, 16 R375
for the governor, 15 R365 for the switch matrix, 18 R416 and R418 for the bridge and the coolant port). -/
def State.reset : State where
  core := .reset 0
  others := []
  tick := 0
  mem := (Memory.mk [] [] [] [] [] [] [] [] 0)
  ctlb := []
  atc := []
  hostMap := []
  pri := []
  vit := .replicate 64 none
  vitNext := .replicate 64 none
  xlt := .replicate 64 (Xlt.mk 0 false 0 [])
  ten := (Tenancy.mk 0 0 0 0 0xFA50 0 0xFA50)
  gov := (Gov.mk 600 (.replicate 4 costReset) 40 3000)
  govNext := (Gov.mk 600 (.replicate 4 costReset) 40 3000)
  accts := []
  islands := .replicate 4 (Island.mk false 0 false false 64 0 none 0)
  clusters := .replicate 8 (Cluster.mk none 0 0 false [0, 0, 0, 0] 0)
  sliceSensor := (List.range 32).map fun i => (Reading.mk i 0)
  coolant := (Cool.mk 256 [256, 256, 256, 256] [] none 0 0 none none 0 0)
  limH := limitsReset
  limS := .replicate 64 limitsReset
  ctxs := []
  naming := []
  lines := []
  kept := []
  tasks := []
  steps := []
  pqueues := []
  graphs := []
  nextTask := 0
  msi := []
  mbox := .replicate 64 (Mbox.mk 0 0 0 0 false [] none)
  bridge := (Bridge.mk (Link.mk false 0 0 [] 0 0 none) (Link.mk false 0 0 [] 0 0 none) 40 15 0 200 false)
  msix := []
  bring := 0
  bringFailed := false
  rollback := 0
  board := none
  power := .on
  interval := 0
  hostData := []
  windows := []
  flash := []
  fuses := List.replicate 4 (List.replicate 64 0)
  slot := none
  mgmt := 0
  heats := []
  saves := []
  created := 0
  stays := []
  passDue := false
  schedule := []
  free := 0

end Sys2Proof.Machine
end

