-- ==== Sys2Proof/Machine/Bits.lean ====
section
/-! DEFINITION. Bytes, bit fields, memories, tables and sets: the helpers under every other definition of the
machine (00 R3, R10). -/

namespace Sys2Proof.Machine

/-- bits(x, hi, lo) of 00 R10. -/
def bits (x hi lo : Nat) : Nat := x / 2 ^ lo % 2 ^ (hi + 1 - lo)

/-- Bits hi:lo of a word. -/
def wbits (x : Word) (hi lo : Nat) : Nat := bits x.toNat hi lo

/-- The signed reading of bits w-1:0 (00 R10). -/
def sval (x w : Nat) : Int :=
  let y := x % 2 ^ w
  if 2 * y < 2 ^ w then (y : Int) else (y : Int) - 2 ^ w

/-- sext(x, w) of 00 R10 as a 64-bit word. -/
def sextW (x w : Nat) : Word := BitVec.ofInt 64 (sval x w)

/-- sat(x, t) for a signed or unsigned type of w bits (00 R10). -/
def satInt (signed : Bool) (w : Nat) (x : Int) : Int :=
  if signed then max (-(2 ^ (w - 1))) (min (2 ^ (w - 1) - 1) x) else max 0 (min (2 ^ w - 1) x)

/-- The low w bits of an integer, as a number. -/
def lowBits (w : Nat) (x : Int) : Nat := (x % 2 ^ w).toNat

/-- x with bits hi:lo replaced by v. -/
def setBits (x hi lo v : Nat) : Nat :=
  x - bits x hi lo * 2 ^ lo + v % 2 ^ (hi + 1 - lo) * 2 ^ lo

/-- The n little-endian bytes of a number (00 R3). -/
def toBytes : Nat → Nat → List Byte
  | 0, _ => []
  | n + 1, v => BitVec.ofNat 8 v :: toBytes n (v / 256)

/-- The number that little-endian bytes hold (00 R3). -/
def ofBytes : List Byte → Nat
  | [] => 0
  | b :: bs => b.toNat + 256 * ofBytes bs

/-- The cells at or above an address. -/
def Mem.above (m : Mem) (a : Nat) : Mem :=
  match m with
  | [] => []
  | c :: cs => if c.1 < a then Mem.above cs a else c :: cs

/-- The cells below an address. -/
def Mem.below (m : Mem) (a : Nat) : Mem :=
  match m with
  | [] => []
  | c :: cs => if c.1 < a then c :: Mem.below cs a else []

/-- The byte at an address (log 6). -/
def Mem.get (m : Mem) (a : Nat) : Byte :=
  match m with
  | [] => 0
  | c :: cs => if c.1 = a then c.2 else Mem.get cs a

/-- n bytes from an address, given the cells at or above it. -/
def Mem.take : Nat → Mem → Nat → List Byte
  | 0, _, _ => []
  | n + 1, [], a => 0 :: Mem.take n [] (a + 1)
  | n + 1, c :: cs, a =>
    if c.1 = a then c.2 :: Mem.take n cs (a + 1) else 0 :: Mem.take n (c :: cs) (a + 1)

/-- The n bytes from address a on. -/
def Mem.bytes (m : Mem) (a n : Nat) : List Byte := Mem.take n (m.above a) a

/-- The little-endian number of n bytes at a (00 R3). -/
def Mem.nat (m : Mem) (a n : Nat) : Nat := ofBytes (m.bytes a n)

/-- The cells that bytes at an address stand in: none for a byte of 0. -/
def Mem.cells : List Byte → Nat → Mem
  | [], _ => []
  | b :: bs, a => if b = 0 then Mem.cells bs (a + 1) else (a, b) :: Mem.cells bs (a + 1)

/-- Writes bytes from address a on. -/
def Mem.write (m : Mem) (a : Nat) (bs : List Byte) : Mem :=
  m.below a ++ Mem.cells bs a ++ m.above (a + bs.length)

/-- Writes the n-byte little-endian number v at a. -/
def Mem.put (m : Mem) (a n v : Nat) : Mem := m.write a (toBytes n v)

/-- Clears n bytes to the value unlisted bytes have. -/
def Mem.clear (m : Mem) (a n : Nat) : Mem := m.below a ++ m.above (a + n)

/-- Moves every cell up by an offset. -/
def Mem.shift (m : Mem) (o : Nat) : Mem := m.map fun c => (c.1 + o, c.2)

/-- The cells of a range, with addresses from 0. -/
def Mem.slice (m : Mem) (a n : Nat) : Mem := ((m.above a).below (a + n)).map fun c => (c.1 - a, c.2)

/-- Replaces a range of n bytes at a by a slice with addresses from 0. -/
def Mem.paste (m : Mem) (a n : Nat) (src : Mem) : Mem :=
  m.below a ++ (src.below n).shift a ++ m.above (a + n)

/-- The cells of the n-byte little-endian number v at a. -/
def Mem.natCells : Nat → Nat → Nat → Mem
  | 0, _, _ => []
  | n + 1, v, a =>
    if v = 0 then [] else if v % 256 = 0 then Mem.natCells n (v / 256) (a + 1)
    else (a, BitVec.ofNat 8 v) :: Mem.natCells n (v / 256) (a + 1)

/-- Writes the n-byte little-endian number v at a, as put does, stopping at its last nonzero byte. -/
def Mem.putN (m : Mem) (a n v : Nat) : Mem := m.below a ++ Mem.natCells n v a ++ m.above (a + n)

/-- The canonical form: addresses strictly rising, no entry 0. -/
abbrev Mem.wf (m : Mem) : Prop := m.Pairwise (fun c d => c.1 < d.1) ∧ ∀ c ∈ m, c.2 ≠ 0

/-- The entry of a key. -/
def Tab.get {α : Type} (t : Tab α) (k : Nat) : Option α :=
  match t with
  | [] => none
  | c :: cs => if c.1 = k then some c.2 else Tab.get cs k

/-- Sets the entry of a key, in order. -/
def Tab.put {α : Type} (t : Tab α) (k : Nat) (v : α) : Tab α :=
  match t with
  | [] => [(k, v)]
  | c :: cs => if c.1 < k then c :: Tab.put cs k v else if c.1 = k then (k, v) :: cs else (k, v) :: c :: cs

/-- Removes a key. -/
def Tab.del {α : Type} (t : Tab α) (k : Nat) : Tab α := t.filter fun c => c.1 != k

/-- Adds a number to a set. -/
def NSet.add (s : NSet) (k : Nat) : NSet :=
  match s with
  | [] => [k]
  | c :: cs => if c < k then c :: NSet.add cs k else if c = k then c :: cs else k :: c :: cs

/-- Removes a number from a set. -/
def NSet.del (s : NSet) (k : Nat) : NSet := s.filter fun c => c != k

/-- Membership. -/
def NSet.has (s : NSet) (k : Nat) : Bool := s.contains k

/-- Removes a range of n numbers from a set. -/
def NSet.delRange (s : NSet) (k n : Nat) : NSet := s.filter fun c => c < k || k + n ≤ c

/-- Adds the n numbers from k on. -/
def NSet.addRange (s : NSet) (k n : Nat) : NSet :=
  s.filter (fun c => c < k) ++ (List.range n).map (· + k) ++ s.filter fun c => k + n ≤ c

/-- Adds the numbers of a list. -/
def NSet.addAll (s : NSet) (ks : List Nat) : NSet := ks.foldl NSet.add s

/-- Inserts into a list sorted by a key, behind entries with the same key. -/
def insertBy {α : Type} (key : α → Nat) (x : α) : List α → List α
  | [] => [x]
  | y :: ys => if key y ≤ key x then y :: insertBy key x ys else x :: y :: ys

/-- Sorts by a key; entries with the same key keep their order. -/
def sortBy {α : Type} (key : α → Nat) (l : List α) : List α := l.foldl (fun a x => insertBy key x a) []

/-- Changes the i-th entry of a vector, if there is one. -/
def vmod {α : Type} {n : Nat} (v : Vector α n) (i : Nat) (f : α → α) : Vector α n :=
  Vector.ofFn fun j => if j.val = i then f v[j] else v[j]

/-- Replaces the i-th entry of a list. -/
def setNth {α : Type} (l : List α) (i : Nat) (v : α) : List α := l.set i v

/-- Removes the i-th entry of a list. -/
def dropNth {α : Type} (l : List α) (i : Nat) : List α := l.take i ++ l.drop (i + 1)

/-- Element i of width w of a vector register (05 R114). -/
def elem (w : Nat) (v : VWord) (i : Nat) : Nat := v.toNat / 2 ^ (w * i) % 2 ^ w

/-- The w-bit digits of a number, lowest first. -/
def digits (w : Nat) : Nat → Nat → List Nat
  | 0, _ => []
  | n + 1, v => v % 2 ^ w :: digits w n (v / 2 ^ w)

/-- The number with these w-bit digits, lowest first. -/
def undigits (w : Nat) : List Nat → Nat
  | [] => 0
  | d :: ds => d % 2 ^ w + 2 ^ w * undigits w ds

/-- The elements of a vector register at width w (05 R114). -/
def elems (w : Nat) (v : VWord) : List Nat := digits w (4096 / w) v.toNat

/-- The vector register with these elements; missing ones are 0. -/
def ofElems (w : Nat) (es : List Nat) : VWord := BitVec.ofNat 4096 (undigits w es)

/-- The bits of a predicate, lane 0 first. -/
def pbits (p : PWord) (n : Nat) : List Bool := (List.range n).map fun i => p.getLsbD i

/-- The predicate with these lanes; missing ones are 0 (05 R119). -/
def ofPbits (bs : List Bool) : PWord := BitVec.ofNat 1024 (undigits 1 (bs.map fun b => if b then 1 else 0))

end Sys2Proof.Machine
end

