-- ==== Sys2Proof/WellFormed.lean ====
section
/-! DEFINITION. Well-formed instructions: the rules of the spec that one slot can break by itself once its fields
decode (03 R60, R77; 04 R95, R97, R102, R105; 05 R115, R122, R124, R126 to R130, R134 to R136 and the rules that the
owning chapters add). The rules that need the bundle or the state are in Machine/Issue.lean. -/

namespace Sys2Proof

/-- The element width of an integer type (R114). -/
def ITy.width : ITy → Nat
  | .i4 | .n4 => 4
  | .i8 | .n8 => 8
  | .i16 | .n16 => 16
  | .i32 | .n32 => 32

/-- The element width of a float type (R114). -/
def FTy.width : FTy → Nat
  | .e4m3 | .e5m2 => 8
  | .bf16 | .f16 => 16
  | .f32 => 32

/-- The element width of a conversion's type (R114). -/
def ElTy.width : ElTy → Nat
  | .i t => t.width
  | .f t => t.width

/-- The float types of vector arithmetic (R51, R124). -/
def FTy.arith : FTy → Bool
  | .bf16 | .f16 | .f32 => true
  | .e4m3 | .e5m2 => false

/-- The float types of the F-unit (R55, R136). -/
def FTy.special : FTy → Bool
  | .bf16 | .f32 => true
  | .e4m3 | .e5m2 | .f16 => false

/-- The number of a vector destination within its file is a multiple of k (R115); no group then runs past V47 or W7,
since 48 and 8 are multiples of 2, 4 and 8. -/
def VDst.aligned (k : Nat) : VDst → Bool
  | .v i => decide (i.val % k = 0)
  | .w i => decide (i.val % k = 0)

/-- A vector source may stand for a group of k registers (R115): aligned, and no latch unless k is 1. -/
def VSrc.group (k : Nat) : VSrc → Bool
  | .v i => decide (i.val % k = 0)
  | .w i => decide (i.val % k = 0)
  | .b2 | .b3 | .b4 | .b5 | .b6 | .b7 => decide (k = 1)

/-- VCVT's width relation and source group (R126). -/
def vcvtOk (dst src : ElTy) (a : VSrc) : Bool :=
  let k := src.width / dst.width
  decide (dst.width * k = src.width) && a.group k

/-- VCVTW's width relation and destination group (R126). -/
def vcvtwOk (dst src : ElTy) (d : VDst) : Bool :=
  let k := dst.width / src.width
  decide (k = 2 ∨ k = 4) && d.aligned k

/-- With predicate code 15, "always", the negate bit must be 0 (R64, R104). -/
def branchOk (p : PReg) (neg : Bool) : Bool := !(decide (p.val = 15) && neg)

/-- The control register numbers that name a register (07 R155). -/
def csrNumbers : List Nat :=
  [0x000, 0x001, 0x010, 0x011, 0x020, 0x021, 0x022, 0x023, 0x024, 0x025, 0x026, 0x027, 0x030, 0x031, 0x040, 0x050,
    0x051, 0x052, 0x060, 0x061, 0x070, 0x071]

/-- A csr number that names no register is illegal (R63). -/
def csrNamed (c : BitVec 12) : Bool := csrNumbers.contains c.toNat

/-- The well-formed instructions. -/
def Instr.wf (i : Instr) : Bool :=
  match i with
  | .add _ _ _ _ => true
  | .sub _ _ _ _ => true
  | .mul _ _ _ _ => true
  | .mulh _ _ _ _ => true
  | .mulhu _ _ _ _ => true
  | .div _ _ _ _ => true
  | .divu _ _ _ _ => true
  | .rem _ _ _ _ => true
  | .remu _ _ _ _ => true
  | .and _ _ _ _ => true
  | .or _ _ _ _ => true
  | .xor _ _ _ _ => true
  | .andn _ _ _ _ => true
  | .shl _ _ _ _ => true
  | .shr _ _ _ _ => true
  | .sra _ _ _ _ => true
  | .rotl _ _ _ _ => true
  | .min _ _ _ _ => true
  | .max _ _ _ _ => true
  | .minu _ _ _ _ => true
  | .maxu _ _ _ _ => true
  | .clz _ _ _ => true
  | .ctz _ _ _ => true
  | .popc _ _ _ => true
  | .sel _ _ _ _ => true
  | .exts _ _ _ _ => true
  | .extz _ _ _ _ => true
  | .bfx _ _ _ _ => true
  | .bfi _ _ _ _ => true
  | .mov _ _ _ => true
  | .adda _ _ _ _ => true
  | .widf _ _ k => decide (k.toNat < 8)
  | .addi _ _ _ _ => true
  | .andi _ _ _ _ => true
  | .ori _ _ _ _ => true
  | .xori _ _ _ _ => true
  | .shli _ _ _ imm => decide (imm.toNat < 64)
  | .shri _ _ _ imm => decide (imm.toNat < 64)
  | .srai _ _ _ imm => decide (imm.toNat < 64)
  | .cmpiEq _ _ _ _ => true
  | .cmpiNe _ _ _ _ => true
  | .cmpiLt _ _ _ _ => true
  | .cmpiLe _ _ _ _ => true
  | .cmpiLtn _ _ _ _ => true
  | .cmpiLen _ _ _ _ => true
  | .li _ _ _ => true
  | .lih _ _ _ => true
  | .cmpEq _ _ _ _ => true
  | .cmpNe _ _ _ _ => true
  | .cmpLt _ _ _ _ => true
  | .cmpLe _ _ _ _ => true
  | .cmpLtn _ _ _ _ => true
  | .cmpLen _ _ _ _ => true
  | .pand _ _ _ _ => true
  | .por _ _ _ _ => true
  | .pxor _ _ _ _ => true
  | .pnot _ _ _ => true
  | .pmov _ _ _ => true
  | .br p neg _ => branchOk p neg
  | .call _ p neg _ => branchOk p neg
  | .ret _ => true
  | .jmpx _ _ _ => true
  | .loop _ imm => imm != 0
  | .loopm _ imm => imm != 0
  | .brkl neg p => branchOk p neg
  | .sleep _ => true
  | .shf _ _ _ => true
  | .shfAdd _ _ _ => true
  | .shfi _ _ _ => true
  | .shfiAdd _ _ _ => true
  | .shcpD _ _ => true
  | .shcpSd _ _ => true
  | .shcpMem _ _ => true
  | .shrd _ _ _ _ => true
  | .shchk _ _ _ => true
  | .csrr _ _ c => csrNamed c
  | .csrw _ c => csrNamed c
  | .csrs _ c => csrNamed c
  | .csrc _ c => csrNamed c
  | .sys _ => true
  | .freeze _ _ _ => true
  | .pairset _ _ _ => true
  | .ctc _ _ => true
  | .budq _ _ _ => true
  | .boost _ _ _ => true
  | .jrd _ _ _ => true
  | .thq _ _ _ => true
  | .vadd _ _ _ _ _ => true
  | .vsub _ _ _ _ _ => true
  | .vadds _ _ _ _ _ => true
  | .vsubs _ _ _ _ _ => true
  | .vmul _ _ _ _ _ => true
  | .vmulh _ _ _ _ _ => true
  | .vmulw _ t d _ _ => decide (t.width ≠ 32) && d.aligned 2
  | .vmac _ _ _ _ _ => true
  | .vdot _ t _ _ _ => decide (t.width < 16)
  | .vand _ _ _ _ _ => true
  | .vor _ _ _ _ _ => true
  | .vxor _ _ _ _ _ => true
  | .vandn _ _ _ _ _ => true
  | .vshl _ _ _ _ _ => true
  | .vshr _ _ _ _ _ => true
  | .vsra _ _ _ _ _ => true
  | .vmin _ _ _ _ _ => true
  | .vmax _ _ _ _ _ => true
  | .vabs _ _ _ _ => true
  | .vneg _ _ _ _ => true
  | .vcmpEq _ _ _ _ _ => true
  | .vcmpNe _ _ _ _ _ => true
  | .vcmpLt _ _ _ _ _ => true
  | .vcmpLe _ _ _ _ _ => true
  | .vsel _ _ _ _ _ => true
  | .vclz _ _ _ _ => true
  | .vpopc _ _ _ _ => true
  | .vdotSat _ t _ _ _ => decide (t.width < 16)
  | .fadd _ t _ _ _ => t.arith
  | .fsub _ t _ _ _ => t.arith
  | .fmul _ t _ _ _ => t.arith
  | .fma _ t _ _ _ => t.arith
  | .fms _ t _ _ _ => t.arith
  | .fnma _ t _ _ _ => t.arith
  | .fmin _ t _ _ _ => t.arith
  | .fmax _ t _ _ _ => t.arith
  | .fabs _ t _ _ => t.arith
  | .fneg _ t _ _ => t.arith
  | .fcmpEq _ _ _ _ _ => true
  | .fcmpNe _ _ _ _ _ => true
  | .fcmpLt _ _ _ _ _ => true
  | .fcmpLe _ _ _ _ _ => true
  | .fcmpUn _ _ _ _ _ => true
  | .frint _ t _ _ => t.arith
  | .vcvt _ t _ a src => vcvtOk t src a
  | .vcvtw _ t d _ src => vcvtwOk t src d
  | .vpack _ t _ _ _ => decide (t.width ≠ 32)
  | .vqnt _ t _ a _ => a.group (32 / t.width)
  | .vmov _ _ _ _ => true
  | .vbcast _ _ _ _ _ => true
  | .vext _ _ _ _ _ => true
  | .vins _ _ _ _ _ => true
  | .vperm _ _ _ _ _ => true
  | .vzip _ _ d _ _ => d.aligned 2
  | .vunzip _ _ d _ _ => d.aligned 2
  | .vslide _ _ _ _ _ => true
  | .vcompr _ _ _ _ _ => true
  | .vexpnd _ _ _ _ _ => true
  | .viota _ _ _ _ => true
  | .vrsumInt _ t _ _ _ => decide (8 ≤ t.width)
  | .vrmaxInt _ t _ _ _ => decide (8 ≤ t.width)
  | .vrminInt _ t _ _ _ => decide (8 ≤ t.width)
  | .vargmaxInt _ t _ _ _ => decide (8 ≤ t.width)
  | .vscanInt _ t _ _ _ => decide (8 ≤ t.width)
  | .vscanExInt _ t _ _ _ => decide (8 ≤ t.width)
  | .vcmpxInt _ t _ _ _ _ j => decide (8 ≤ t.width) && decide (2 ^ (j.toNat + 1) * t.width ≤ 4096)
  | .pset _ _ k => decide (k.toNat ≤ 1024)
  | .pcnt _ _ _ => true
  | .pfirst _ _ _ => true
  | .vrsumFloat _ t _ _ _ => t.arith
  | .vrmaxFloat _ t _ _ _ => t.arith
  | .vrminFloat _ t _ _ _ => t.arith
  | .vargmaxFloat _ t _ _ _ => t.arith
  | .vscanFloat _ t _ _ _ => t.arith
  | .vscanExFloat _ t _ _ _ => t.arith
  | .vcmpxFloat _ t _ _ _ _ j => t.arith && decide (2 ^ (j.toNat + 1) * t.width ≤ 4096)
  | .exp2 _ t _ _ => t.special
  | .log2 _ t _ _ => t.special
  | .rcp _ t _ _ => t.special
  | .rsqrt _ t _ _ => t.special
  | .sqrt _ t _ _ => t.special
  | .sin _ t _ _ => t.special
  | .cos _ t _ _ => t.special
  | .tanh _ t _ _ => t.special
  | .erf _ t _ _ => t.special
  | .lds _ _ _ _ _ => true
  | .sts _ _ _ _ => true
  | .ldss _ z _ _ _ => z != 7
  | .stss z _ _ _ => z != 7
  | .ldsg _ t _ _ _ => decide (t.width ≠ 4)
  | .stsx t _ _ _ => decide (t.width ≠ 4)
  | .spalloc _ _ => true
  | .spfree _ => true
  | .renew _ _ => true
  | .splife _ _ _ => true
  | .spfill _ _ => true
  | .wld _ _ _ _ => true
  | .mma _ _ _ _ => true
  | .accrd _ _ _ => true
  | .accst _ _ _ _ => true
  | .accld _ _ _ _ => true
  | .accclr _ => true
  | .mgrp _ => true
  | .mwait d _ => decide (d.val ≠ 0)
  | .ld _ z _ _ _ => z != 7
  | .ldAcq _ z _ _ _ => z != 7
  | .st z _ _ _ => z != 7
  | .stRel z _ _ _ => z != 7
  | .vld _ _ _ _ _ => true
  | .vldAcq _ _ _ _ _ => true
  | .vst _ _ _ _ => true
  | .vstRel _ _ _ _ => true
  | .vldg _ t _ _ _ => decide (t.width ≠ 4)
  | .vstx t _ _ _ => decide (t.width ≠ 4)
  | .ldf _ _ _ => true
  | .ldfAcq _ _ _ _ => true
  | .stf _ _ => true
  | .stfRel _ _ _ => true
  | .pref _ _ _ => true
  | .fenceAcq _ => true
  | .fenceRel _ => true
  | .fenceAr _ => true
  | .fencex _ p q => decide (p.toNat ≤ 4) && decide (q.toNat ≤ 4) && p != q
  | .cas _ _ g _ _ _ => decide (g.val % 2 = 0)
  | .atomAdd _ _ _ _ _ _ => true
  | .atomAnd _ _ _ _ _ _ => true
  | .atomOr _ _ _ _ _ _ => true
  | .atomXor _ _ _ _ _ _ => true
  | .atomMin _ _ _ _ _ _ => true
  | .atomMax _ _ _ _ _ _ => true
  | .atomMinu _ _ _ _ _ _ => true
  | .atomMaxu _ _ _ _ _ _ => true
  | .atomSwap _ _ _ _ _ _ => true
  | .copyOut _ _ _ _ x => decide (x.val % 2 = 0)
  | .copyIn _ _ _ _ x => decide (x.val % 2 = 0)
  | .copym _ _ _ _ x => decide (x.val % 4 = 0)
  | .copys _ _ _ x => decide (x.val % 2 = 0)
  | .copyx _ _ _ x => decide (x.val % 2 = 0)
  | .gath _ _ _ _ x => decide (x.val % 4 = 0)
  | .redcAdd _ _ _ x => decide (x.val % 2 = 0)
  | .redcMax _ _ _ x => decide (x.val % 2 = 0)
  | .redcMin _ _ _ x => decide (x.val % 2 = 0)
  | .cpqSummary _ _ => true
  | .cpqEntry _ _ _ => true
  | .cpcan _ _ => true
  | .spawn _ _ => true
  | .pipw _ _ => true
  | .pipr _ _ _ => true
  | .pipq _ _ _ => true
  | .binit _ _ => true
  | .barv _ => true
  | .barvExp _ _ => true
  | .bexp _ _ => true
  | .bwait _ x => decide (x.val ≠ 0)
  | .btry _ _ _ => true
  | .ckpt => true
  | .stepend => true
  | .nop => true
  | .eret => true
  | .iflush => true
  | .yield => true
  | .statfl => true
  | .resultLanding _ => true
  | .variableResultLanding _ _ => true
  | .commitBufferDrain _ => true
  | .writeAcknowledge _ _ => true
  | .wrfailReport _ _ _ => true
  | .stepRetire _ => true
  | .syscallEntry _ => true
  | .eretReturn _ => true
  | .sleepWake _ => true
  | .asyncTrapDelivery _ => true
  | .preemption _ => true
  | .trapHandlerAbandon _ => true
  | .stepDispatch _ => true
  | .proofingAreaBuild _ _ _ => true
  | .proofingLoafRenew _ _ => true
  | .stepKill _ _ => true
  | .contextDestroy _ => true
  | .walkerGenerate _ => true
  | .completionWordWrite _ => true
  | .notifyWrite _ _ _ => true
  | .packetProcess _ _ => true
  | .packetAdmit _ _ => true
  | .markerComplete _ _ => true
  | .fabricMessageReceive _ _ => true
  | .fabricAcknowledge _ _ => true
  | .replayResend _ => true
  | .forwardingEntryExpire _ _ => true
  | .ldfRequestResolve _ _ => true
  | .cacheSectorFill _ _ => true
  | .tlbMissWalk _ _ => true
  | .atsTranslationCompletion _ _ _ _ _ _ => true
  | .hostAtsInvalidate _ _ _ => true
  | .xltInvalidateRange _ _ _ => true
  | .xltInvalidateContext _ _ => true
  | .xltReloadDescriptor _ _ => true
  | .xltCmdReservedKind _ => true
  | .xltCmdComplete _ => true
  | .copyStart _ => true
  | .copyElementTransfer _ _ => true
  | .copyComplete _ _ => true
  | .matrixCmdStart _ => true
  | .matrixCmdComplete _ => true
  | .accrdBusyLand _ => true
  | .statDrain _ => true
  | .linkReductionUpdate _ _ => true
  | .barrierUpdateApply _ _ _ _ => true
  | .loafExpire _ _ => true
  | .bankGuardGrant _ => true
  | .logicalCoreAbsent _ _ => true
  | .mergeOnResume _ _ _ => true
  | .contextSuspend _ => true
  | .contextFreezeReflection _ => true
  | .contextResume _ => true
  | .migrationRequest _ _ _ => true
  | .rotation _ => true
  | .budgetIntervalBoundary _ _ => true
  | .boostLeaseExpire _ => true
  | .sensorSample _ _ _ => true
  | .clusterGate _ => true
  | .vitLoad _ => true
  | .islMatrixWrite _ => true
  | .govLimitWrite _ => true
  | .fabBackoffWrite _ => true
  | .bridgeTrainGo _ => true
  | .mailboxRequestPost _ _ => true
  | .mailboxReplyConsume _ _ => true
  | .attestationReport _ _ => true
  | .deviceRegisterWrite _ _ _ => true
  | .bridgeMarginReport _ => true
  | .bridgeRetrainDone => true
  | .flitRetry _ _ => true
  | .patrolScrub _ => true
  | .coolantControlUpdate _ _ => true
  | .coolingFault _ _ => true
  | .mgmtSmbusWrite _ => true
  | .gracefulPowerDown => true
  | .bringUp _ _ => true
  | .hostWrite _ _ => true
  | .hostRead _ _ => true
  | .hostAtomicop _ _ _ => true
  | .fgbLoad _ _ _ _ => true
  | .contextCreate _ _ => true
  | .priPageResponse _ => true
  | .graphInstanceUnload _ _ => true
  | .pairQuarantineClear _ => true

end Sys2Proof
end

