-- ==== Sys2Proof/Machine/Float.lean ====
section
/-! DEFINITION. Floating point: formats, exact values, one rounding, and the operations of 02 R34 to R36, R49 to R53
and R56. Every finite value is an exact dyadic number, so that a result is the exact result rounded once. -/

namespace Sys2Proof.Machine

/-- A float format (02 R34). -/
structure Fmt where
  ebits : Nat
  fbits : Nat
  bias : Nat
  /-- Encodings of the exponent of all ones: infinities and NaNs, or e4m3's one NaN per sign. -/
  ieee : Bool
  deriving DecidableEq, Repr

end Sys2Proof.Machine

namespace Sys2Proof

/-- The formats of R34. -/
def FTy.fmt : FTy → Machine.Fmt
  | .e4m3 => (Machine.Fmt.mk 4 3 7 false)
  | .e5m2 => (Machine.Fmt.mk 5 2 15 true)
  | .bf16 => (Machine.Fmt.mk 8 7 127 true)
  | .f16 => (Machine.Fmt.mk 5 10 15 true)
  | .f32 => (Machine.Fmt.mk 8 23 127 true)

/-- Whether an integer type is signed (R32). -/
def ITy.signed : ITy → Bool
  | .i4 | .i8 | .i16 | .i32 => true
  | .n4 | .n8 | .n16 | .n32 => false

/-- An integer element's value (R32). -/
def ITy.val (t : ITy) (x : Nat) : Int := if t.signed then Machine.sval x t.width else (x % 2 ^ t.width : Nat)

/-- sat(x, t) (00 R10). -/
def ITy.sat (t : ITy) (x : Int) : Int := Machine.satInt t.signed t.width x

end Sys2Proof

namespace Sys2Proof.Machine

/-- The width of a format. -/
def Fmt.width (f : Fmt) : Nat := 1 + f.ebits + f.fbits

/-- The largest finite encoding without its sign (R34, R35). -/
def Fmt.maxFin (f : Fmt) : Nat := if f.ieee then (2 ^ f.ebits - 1) * 2 ^ f.fbits - 1 else 2 ^ (f.ebits + f.fbits) - 2

/-- The encoding of infinity without its sign, for the formats that have one. -/
def Fmt.infEnc (f : Fmt) : Nat := (2 ^ f.ebits - 1) * 2 ^ f.fbits

/-- The canonical NaN (R35). -/
def Fmt.nanEnc (f : Fmt) : Nat :=
  if f.ieee then f.infEnc + 2 ^ (f.fbits - 1) else 2 ^ (f.ebits + f.fbits) - 1

/-- The sign bit's weight. -/
def Fmt.signBit (f : Fmt) : Nat := 2 ^ (f.ebits + f.fbits)

/-- The exponent of the least normal's leading bit. -/
def Fmt.emin (f : Fmt) : Int := 1 - (f.bias : Int)

/-- An exact value: a NaN (signalling or not), an infinity, or (-1)^neg × m × 2^e. -/
inductive FVal where
  | nan (signalling : Bool)
  | inf (neg : Bool)
  | fin (neg : Bool) (m : Nat) (e : Int)
  deriving DecidableEq, Repr

/-- The flags of R56 at their bit positions in fpflags (07 R156). -/
abbrev Flags := BitVec 5
/-- nv. -/
def fNV : Flags := 1
/-- dz. -/
def fDZ : Flags := 2
/-- of. -/
def fOF : Flags := 4
/-- uf. -/
def fUF : Flags := 8
/-- nx. -/
def fNX : Flags := 16

/-- The value of an encoding (R34, R35). -/
def FVal.dec (f : Fmt) (x : Nat) : FVal :=
  let y := x % 2 ^ f.width
  let neg := f.signBit ≤ y
  let z := y % f.signBit
  let ex := z / 2 ^ f.fbits
  let fr := z % 2 ^ f.fbits
  if f.ieee && ex = 2 ^ f.ebits - 1 then
    if fr = 0 then .inf neg else .nan (fr < 2 ^ (f.fbits - 1))
  else if !f.ieee && z = f.nanEnc then .nan false
  else if ex = 0 then .fin neg fr (f.emin - f.fbits)
  else .fin neg (2 ^ f.fbits + fr) (f.emin - f.fbits + ex - 1)

/-- Whether an encoding is subnormal and not zero. -/
def Fmt.sub (f : Fmt) (x : Nat) : Bool :=
  let z := x % f.signBit
  decide (0 < z) && decide (z < 2 ^ f.fbits)

/-- Whether fpctl.ftz touches a format (R50). -/
def Fmt.ftzable (f : Fmt) : Bool := decide (16 ≤ f.width)

/-- An operand as read under ftz (R50). -/
def FVal.read (f : Fmt) (ftz : Bool) (x : Nat) : FVal :=
  if ftz && f.ftzable && f.sub x then .fin (decide (f.signBit ≤ x % 2 ^ f.width)) 0 0 else FVal.dec f x

/-- An encoding with a sign. -/
def Fmt.signed (f : Fmt) (neg : Bool) (z : Nat) : Nat := if neg then f.signBit + z else z

/-- Whether a discarded part rounds the kept part q up (R49); r of 2^k is discarded. -/
def roundUp (rm : Nat) (neg : Bool) (q r k : Nat) : Bool :=
  if rm = 0 then decide (2 ^ k < 2 * r) || (decide (2 ^ k = 2 * r) && decide (q % 2 = 1))
  else if rm = 1 then false
  else if rm = 2 then !neg && decide (r ≠ 0)
  else neg && decide (r ≠ 0)

/-- m × 2^e as a multiple of 2^qe, rounded; and whether it is inexact. -/
def quantise (rm : Nat) (neg : Bool) (m : Nat) (e qe : Int) : Nat × Bool :=
  if qe ≤ e then (m * 2 ^ (e - qe).toNat, false)
  else
    let k := (qe - e).toNat
    let q := m / 2 ^ k
    let r := m % 2 ^ k
    (if roundUp rm neg q r k then q + 1 else q, decide (r ≠ 0))

/-- The exact value m × 2^e (m > 0) rounded once to a format, with its flags (R49, R50, R52, R56). -/
def Fmt.round (f : Fmt) (rm : Nat) (ftz : Bool) (neg : Bool) (m : Nat) (e : Int) : Nat × Flags :=
  let top : Int := Nat.log2 m + e
  let qmin : Int := f.emin - f.fbits
  let qe : Int := max (top - f.fbits) qmin
  let r := quantise rm neg m e qe
  let z := (qe - qmin).toNat * 2 ^ f.fbits + r.1
  if f.maxFin < z then
    let big := if f.ieee && (rm = 0 || (rm = 2 && !neg) || (rm = 3 && neg)) then f.infEnc else f.maxFin
    (f.signed neg big, fOF ||| fNX)
  else
    let u := quantise rm neg m e (top - f.fbits)
    let tiny := decide (top < f.emin) && !(decide (top + 1 = f.emin) && decide (u.1 = 2 ^ (f.fbits + 1)))
    if ftz && f.ftzable && decide (0 < z) && decide (z < 2 ^ f.fbits) then (f.signed neg 0, fUF ||| fNX)
    else (f.signed neg z, (if r.2 then fNX else 0) ||| (if r.2 && tiny then fUF else 0))

/-- A value in a format, rounded; a NaN gives the canonical NaN (R36). -/
def Fmt.enc (f : Fmt) (rm : Nat) (ftz : Bool) : FVal → Nat × Flags
  | .nan _ => (f.nanEnc, 0)
  | .inf neg => if f.ieee then (f.signed neg f.infEnc, 0) else (f.signed neg f.maxFin, fOF ||| fNX)
  | .fin neg m e => if m = 0 then (f.signed neg 0, 0) else f.round rm ftz neg m e

/-- Whether a value is a NaN. -/
def FVal.isNan : FVal → Bool
  | .nan _ => true
  | _ => false

/-- nv for a signalling NaN (R36). -/
def FVal.snv : FVal → Flags
  | .nan true => fNV
  | _ => 0

/-- A value with its sign inverted. -/
def FVal.neg : FVal → FVal
  | .nan s => .nan s
  | .inf n => .inf (!n)
  | .fin n m e => .fin (!n) m e

/-- The exact signed numerator of a finite value over 2^e0, e0 ≤ its exponent. -/
def scaled (neg : Bool) (m : Nat) (e e0 : Int) : Int :=
  let x : Int := (m * 2 ^ (e - e0).toNat : Nat)
  if neg then -x else x

/-- The exact sum of two values, with nv (R49, R125): rm decides the sign of an exact zero. -/
def FVal.add (rm : Nat) (a b : FVal) : FVal × Flags :=
  match a, b with
  | .nan s, y => (.nan false, (if s then fNV else 0) ||| y.snv)
  | x, .nan s => (.nan false, (if s then fNV else 0) ||| x.snv)
  | .inf n, .inf k => if n = k then (.inf n, 0) else (.nan false, fNV)
  | .inf n, .fin _ _ _ => (.inf n, 0)
  | .fin _ _ _, .inf n => (.inf n, 0)
  | .fin n m e, .fin k l g =>
    let e0 := min e g
    let s := scaled n m e e0 + scaled k l g e0
    if s = 0 then
      if m = 0 && l = 0 && n = k then (.fin n 0 0, 0) else (.fin (decide (rm = 3)) 0 0, 0)
    else (.fin (decide (s < 0)) s.natAbs e0, 0)

/-- The exact product (R43, R49). -/
def FVal.mul (a b : FVal) : FVal × Flags :=
  match a, b with
  | .nan s, y => (.nan false, (if s then fNV else 0) ||| y.snv)
  | x, .nan s => (.nan false, (if s then fNV else 0) ||| x.snv)
  | .inf n, .inf k => (.inf (xor n k), 0)
  | .inf n, .fin k l _ => if l = 0 then (.nan false, fNV) else (.inf (xor n k), 0)
  | .fin k l _, .inf n => if l = 0 then (.nan false, fNV) else (.inf (xor n k), 0)
  | .fin n m e, .fin k l g => (.fin (xor n k) (m * l) (e + g), 0)

/-- How a vector float operation rounds: fpctl.rm and fpctl.ftz (07 R156). -/
structure FCtl where
  rm : Nat
  ftz : Bool
  deriving DecidableEq, Repr

/-- The rounding control of fpctl (07 R156). -/
def FCtl.ofWord (w : Word) : FCtl := (FCtl.mk (wbits w 1 0) (w.getLsbD 2))

/-- Round to nearest, subnormals kept: the control of engines (R42, 13 R305). -/
def FCtl.rne : FCtl := (FCtl.mk 0 false)

/-- A result with the flags of its computation and of its rounding. -/
def Fmt.finish (f : Fmt) (c : FCtl) (v : FVal × Flags) : Nat × Flags :=
  let r := f.enc c.rm c.ftz v.1
  (r.1, r.2 ||| v.2)

/-- a + b (R124). -/
def Fmt.addF (f : Fmt) (c : FCtl) (a b : Nat) : Nat × Flags :=
  f.finish c (FVal.add c.rm (.read f c.ftz a) (.read f c.ftz b))

/-- a − b (R124). -/
def Fmt.subF (f : Fmt) (c : FCtl) (a b : Nat) : Nat × Flags :=
  f.finish c (FVal.add c.rm (.read f c.ftz a) (FVal.read f c.ftz b).neg)

/-- a × b (R124). -/
def Fmt.mulF (f : Fmt) (c : FCtl) (a b : Nat) : Nat × Flags :=
  f.finish c (FVal.mul (.read f c.ftz a) (.read f c.ftz b))

/-- ±(a × b) ± d with one rounding (R124, R125). -/
def Fmt.fmaF (f : Fmt) (c : FCtl) (negP negD : Bool) (a b d : Nat) : Nat × Flags :=
  let p := FVal.mul (.read f c.ftz a) (.read f c.ftz b)
  let x := FVal.read f c.ftz d
  let s := FVal.add c.rm (if negP then p.1.neg else p.1) (if negD then x.neg else x)
  f.finish c (s.1, s.2 ||| p.2)

/-- The order of two values that are no NaN, −0 below +0 when zeros is set: −1, 0 or 1 as Int. -/
def FVal.ord (zeros : Bool) (a b : FVal) : Int :=
  match a, b with
  | .inf n, .inf k => if n = k then 0 else if n then -1 else 1
  | .inf n, _ => if n then -1 else 1
  | _, .inf k => if k then 1 else -1
  | .fin n m e, .fin k l g =>
    let e0 := min e g
    let d := scaled n m e e0 - scaled k l g e0
    if d < 0 then -1 else if 0 < d then 1
    else if zeros && m = 0 then (if n = k then 0 else if n then -1 else 1) else 0
  | _, _ => 0

/-- minimumNumber or maximumNumber, −0 < +0 (R124, R125). -/
def Fmt.minmaxF (f : Fmt) (c : FCtl) (isMax : Bool) (a b : Nat) : Nat × Flags :=
  let x := FVal.read f c.ftz a
  let y := FVal.read f c.ftz b
  let nv := x.snv ||| y.snv
  let v :=
    if x.isNan && y.isNan then FVal.nan false
    else if x.isNan then y
    else if y.isNan then x
    else
      let o := FVal.ord true x y
      if isMax then (if o < 0 then y else x) else (if 0 < o then y else x)
  f.finish c (v, nv)

/-- The comparisons of FCMP (R125). -/
inductive FCC where
  | eq | ne | lt | le | un
  deriving DecidableEq, Repr

/-- FCMP on one element (R125). -/
def Fmt.cmpF (f : Fmt) (c : FCtl) (cc : FCC) (a b : Nat) : Bool × Flags :=
  let x := FVal.read f c.ftz a
  let y := FVal.read f c.ftz b
  let un := x.isNan || y.isNan
  let o := FVal.ord false x y
  let nv := if (cc = .lt || cc = .le) && un then fNV else x.snv ||| y.snv
  match cc with
  | .eq => (!un && decide (o = 0), nv)
  | .ne => (un || decide (o ≠ 0), nv)
  | .lt => (!un && decide (o < 0), nv)
  | .le => (!un && decide (o ≤ 0), nv)
  | .un => (un, nv)

/-- A finite value rounded to an integer, and whether it changed (R53). -/
def roundInt (rm : Nat) (neg : Bool) (m : Nat) (e : Int) : Int × Bool :=
  let q := quantise rm neg m e 0
  (if neg then -(q.1 : Int) else q.1, q.2)

/-- FABS and FNEG (R125): a NaN gives the canonical NaN. -/
def Fmt.signF (f : Fmt) (c : FCtl) (flip : Bool) (a : Nat) : Nat × Flags :=
  match FVal.read f c.ftz a with
  | .nan s => (f.nanEnc, if s then fNV else 0)
  | .inf n => (f.signed (flip && !n) f.infEnc, 0)
  | .fin n m e => (f.enc 0 false (.fin (flip && !n) m e)).1 |> fun r => (r, 0)

/-- FRINT (R125). -/
def Fmt.rintF (f : Fmt) (c : FCtl) (a : Nat) : Nat × Flags :=
  match FVal.read f c.ftz a with
  | .nan s => (f.nanEnc, if s then fNV else 0)
  | .inf n => (f.signed n f.infEnc, 0)
  | .fin n m e =>
    let q := quantise c.rm n m e 0
    ((f.enc 0 false (.fin n q.1 0)).1, if q.2 then fNX else 0)

/-- Float to float (R52). -/
def cvtFF (src dst : Fmt) (c : FCtl) (a : Nat) : Nat × Flags :=
  let x := FVal.read src c.ftz a
  dst.finish c (x, x.snv)

/-- Float to integer (R53). -/
def cvtFI (src : Fmt) (t : ITy) (c : FCtl) (a : Nat) : Nat × Flags :=
  match FVal.read src c.ftz a with
  | .nan _ => (0, fNV)
  | .inf n => (lowBits t.width (t.sat (if n then -(2 ^ 64) else 2 ^ 64)), fNV)
  | .fin n m e =>
    let r := roundInt c.rm n m e
    let s := t.sat r.1
    (lowBits t.width s, if s ≠ r.1 then fNV else if r.2 then fNX else 0)

/-- Integer to float (R53). -/
def cvtIF (t : ITy) (dst : Fmt) (c : FCtl) (a : Nat) : Nat × Flags :=
  let x := t.val a
  dst.finish c (.fin (decide (x < 0)) x.natAbs 0, 0)

/-- Integer to integer (R126): saturating, no flags. -/
def cvtII (s d : ITy) (a : Nat) : Nat × Flags := (lowBits d.width (d.sat (s.val a)), 0)

/-- The conversions of VCVT and VCVTW (R126). -/
def cvt (src dst : ElTy) (c : FCtl) (a : Nat) : Nat × Flags :=
  match src, dst with
  | .f s, .f d => cvtFF s.fmt d.fmt c a
  | .f s, .i d => cvtFI s.fmt d c a
  | .i s, .f d => cvtIF s d.fmt c a
  | .i s, .i d => cvtII s d a

/-- VQNT on one element (R128): x × s rounded, plus z, saturated to t. -/
def quantF (t : ITy) (c : FCtl) (x s : Nat) (z : Int) : Nat × Flags :=
  let f := FTy.f32.fmt
  match (FVal.mul (.read f c.ftz x) (.read f c.ftz s)).1 with
  | .nan _ => (lowBits t.width (t.sat z), fNV)
  | .inf n => (lowBits t.width (t.sat (if n then -(2 ^ 64) else 2 ^ 64)), fNV)
  | .fin n m e =>
    let y := roundInt c.rm n m e
    let r := y.1 + z
    (lowBits t.width (t.sat r), (if y.2 then fNX else 0) ||| (if t.sat r ≠ r then fNV else 0))

/-- The position of an encoding in VCMPX's total order, NaN above all (R134). -/
def Fmt.key (f : Fmt) (x : Nat) : Int :=
  match FVal.dec f x with
  | .nan _ => 2 * (f.signBit : Int)
  | _ =>
    let y := x % 2 ^ f.width
    if f.signBit ≤ y then -1 - (y - f.signBit : Nat) else y

/-- rne32 of an exact value (00 R10): f32, subnormals kept, and whether it overflowed to infinity. -/
def rne32 (v : FVal) : Nat := (FTy.f32.fmt.enc 0 false v).1

end Sys2Proof.Machine
end

