-- ==== Sys2Proof/Machine/Operands.lean ====
section
/-! DEFINITION. Operand forms: scalar and vector sources, register groups, destinations and the parts of the type field
(03 R67, R68; 05 R114 to R119; 06 R142). -/

namespace Sys2Proof.Machine

/-- An M-unit or vector latch read as a vector (03 R68); each latch is held as 512 bytes. -/
def Core.latch (c : Core) (i : Fin 8) : VWord := c.lat[i]

/-- A scalar source (03 R68): X0 reads zero, a latch yields its bits 63:0. -/
def Core.sx (c : Core) : SSrc → Word
  | .x i => if i = 0 then 0 else c.arch.x[i]
  | .b0 => (c.latch 0).setWidth 64
  | .b1 => (c.latch 1).setWidth 64
  | .b6 => (c.latch 6).setWidth 64
  | .b7 => (c.latch 7).setWidth 64

/-- A scalar register by number, for old destination values and operand groups. -/
def Core.xr (c : Core) (i : Fin 56) : Word := if i = 0 then 0 else c.arch.x[i]

/-- A scalar register by a number that may run past X55, which reads zero. -/
def Core.xn (c : Core) (i : Nat) : Word := if h : i < 56 then c.xr ⟨i, h⟩ else 0

/-- A vector source (03 R68). -/
def Core.vx (c : Core) : VSrc → VWord
  | .v i => c.arch.v[i]
  | .w i => c.arch.w[i]
  | .b2 => c.latch 2
  | .b3 => c.latch 3
  | .b4 => c.latch 4
  | .b5 => c.latch 5
  | .b6 => c.latch 6
  | .b7 => c.latch 7

/-- A vector destination's old value. -/
def Core.vd (c : Core) : VDst → VWord
  | .v i => c.arch.v[i]
  | .w i => c.arch.w[i]

/-- A predicate register. -/
def Core.px (c : Core) (p : PReg) : PWord := c.arch.p[p]

/-- The j-th register of a source group (05 R115). -/
def VSrc.nth (s : VSrc) (j : Nat) : VSrc :=
  match s with
  | .v i => .v (Fin.ofNat 48 (i.val + j))
  | .w i => .w (Fin.ofNat 8 (i.val + j))
  | s => s

/-- The j-th register of a destination group (05 R115). -/
def VDst.nth (d : VDst) (j : Nat) : VDst :=
  match d with
  | .v i => .v (Fin.ofNat 48 (i.val + j))
  | .w i => .w (Fin.ofNat 8 (i.val + j))

/-- Group element i of width w from a group of k registers (05 R115). -/
def Core.groupElem (c : Core) (a : VSrc) (k w i : Nat) : Nat := elem w (c.vx (VSrc.nth a (i % k))) (i / k)

/-- The registers of a group of k at d with these interleaved elements of width w (05 R115). -/
def groupDst (d : VDst) (k w : Nat) (f : Nat → Nat) : List (VDst × VWord) :=
  (List.range k).map fun j =>
    (VDst.nth d j, ofElems w ((List.range (4096 / w)).map fun i => f (k * i + j)))

/-- The number of elements at a width (05 R114). -/
def lanes (w : Nat) : Nat := 4096 / w

/-- Byte size of a scalar size code (03 R67). -/
def sizeBytes (z : Nat) : Nat := 2 ^ (z % 4)

/-- A scalar as loaded under its size code: zero- or sign-extended (03 R67). -/
def loadExt (z v : Nat) : Word :=
  if 4 ≤ z ∧ z ≠ 7 then sextW v (8 * sizeBytes z) else BitVec.ofNat 64 (v % 2 ^ (8 * sizeBytes z))

/-- The addressing granule of a size code (03 R67): the access size. -/
def granule (z : Nat) : Nat := sizeBytes z

/-- Byte offset and byte size of each record field (06 R142). -/
def recField (i : Fin 25) : Nat × Nat :=
  match i.val with
  | 0 => (0, 8)
  | 1 => (8, 4)
  | 2 => (12, 4) | 3 => (16, 4) | 4 => (20, 4) | 5 => (24, 4) | 6 => (28, 4)
  | 7 => (32, 8) | 8 => (40, 8) | 9 => (48, 8) | 10 => (56, 8)
  | 11 => (64, 2) | 12 => (66, 2) | 13 => (68, 2) | 14 => (70, 2) | 15 => (72, 2)
  | 16 => (76, 4) | 17 => (80, 4) | 18 => (84, 4) | 19 => (88, 4) | 20 => (92, 4)
  | 21 => (96, 8)
  | 22 => (104, 4)
  | 23 => (108, 4)
  | _ => (112, 2)

/-- A field of a record, unsigned (06 R142). -/
def recGet (r : Rec) (i : Fin 25) : Nat := r.toNat / 2 ^ (8 * (recField i).1) % 2 ^ (8 * (recField i).2)

/-- A record with a field replaced by the low bits of a value (06 R150). -/
def recSet (r : Rec) (i : Fin 25) (v : Nat) : Rec :=
  BitVec.ofNat 1024
    (setBits r.toNat (8 * ((recField i).1 + (recField i).2) - 1) (8 * (recField i).1) v)

/-- Bytes of a record as an unsigned number. -/
def recBytes (r : Rec) (o n : Nat) : Nat := r.toNat / 2 ^ (8 * o) % 2 ^ (8 * n)

end Sys2Proof.Machine
end

