-- ==== Sys2Proof/Machine/Flags.lean ====
section
/-! DEFINITION. The sticky flags of fpflags (02 R56, 07 R156) and their union over the elements of a result. -/

namespace Sys2Proof.Machine

/-- fpflags with flags ORed in (02 R56, R57). -/
def orFlags (w : Word) (f : Flags) : Word := w ||| f.setWidth 64

/-- The union of the flags of elements. -/
def unionFlags (l : List (Nat × Flags)) : Flags := l.foldl (fun a x => a ||| x.2) 0

/-- The elements of results that carry flags. -/
def valuesOf (l : List (Nat × Flags)) : List Nat := l.map (·.1)

/-- The union of the flags of compare results. -/
def unionCmp (l : List (Bool × Flags)) : Flags := l.foldl (fun a x => a ||| x.2) 0

/-- The writable bits of fpctl: ftz and rm (07 R156). -/
def fpctlMask : Word := 7

/-- The writable bits of fpflags (07 R156). -/
def fpflagsMask : Word := 0x1F

end Sys2Proof.Machine
end

