-- ==== Sys2Proof/Machine/Chip.lean ====
section
/-! DEFINITION. Operations on the chip: cores, accounts, device memory with its metadata and the system cache above it,
translation, the steward event rings and the trap record areas (11 R241 to R252; 15 R343 to R361; 08 R185; 14 R340). -/

namespace Sys2Proof.Machine

/-- The answer of an instruction or event. -/
abbrev Res := Host.Outcome State Fault Refusal

/-- A physical core; one listed nowhere is as at reset. -/
def State.getCore (s : State) (p : Nat) : Core :=
  if s.core.pcore = p then s.core else (s.others.find? fun c => c.pcore == p).getD (.reset p)

/-- Puts a core among the others, in order of number. -/
def insertCore (c : Core) : List Core → List Core
  | [] => [c]
  | d :: ds => if d.pcore < c.pcore then d :: insertCore c ds else if d.pcore = c.pcore then c :: ds else c :: d :: ds

/-- Replaces a core. -/
def State.setCore (s : State) (c : Core) : State :=
  if s.core.pcore = c.pcore then { s with core := c } else { s with others := insertCore c s.others }

/-- Makes core p the current one (log 1). -/
def State.switch (s : State) (p : Nat) : State :=
  if s.core.pcore = p then s
  else { s with core := s.getCore p, others := insertCore s.core (s.others.filter fun c => c.pcore != p) }

/-- Changes the current core. -/
def State.upd (s : State) (f : Core → Core) : State := { s with core := f s.core }

/-- The 128 physical cores (01 R12). -/
def State.allCores (s : State) : List Core := insertCore s.core s.others

/-- The cluster of a physical core (01 R12). -/
def clusterOf (p : Nat) : Nat := p / 16

/-- The island of a cluster, from the switch matrix (15 R365). -/
def State.islandOf (s : State) (cl : Nat) : Nat := s.ten.rail.toNat / 4 ^ cl % 4

/-- A free choice below n, and the state with the count of choices advanced (log 2). -/
def State.choose (s : State) (n : Nat) : Nat × State :=
  (if n ≤ 1 then 0 else Config.choice s.free % n, { s with free := s.free + 1 })

/-- The counter of chip time starts over at a tick (16 R366, R367), and with it the times that cores keep. -/
def State.wrapTo (s : State) (t : Nat) : State :=
  let lap := 2 ^ 64 * 4845
  let back := fun (c : Core) => { c with
    ltime := c.ltime - lap, pend := c.pend.map fun q => { q with time := q.time - lap } }
  { s with tick := t, core := back s.core, others := s.others.map back }

/-- Chip time comes to a tick, where that lies ahead: a count of 64 bits, which starts over after 2^64 - 1 (16 R366, R367;
log 113). -/
def State.reach (s : State) (t : Nat) : State :=
  if t < 2 ^ 64 then { s with tick := max s.tick t } else s.wrapTo (t % 2 ^ 64)

/-- A value that the spec leaves open (log 2). -/
def State.freeWord (s : State) : Word × State := (BitVec.ofNat 64 (Config.choice s.free), { s with free := s.free + 1 })

/-- An interface in force, by number. -/
def State.viOf (s : State) (v : Nat) : Option Vi := if h : v < 64 then s.vit[v] else none

/-- The account that charges an interface on an island (16 R376): the island's own, or the interface's sub-account. -/
def Acct.charges (a : Acct) (isl vi : Nat) : Bool := a.island == isl && (a.vi == none || a.vi == some vi)

/-- Applies a change to the account that charges an interface on an island. -/
def State.onAcct (s : State) (isl vi : Nat) (f : Acct → Acct) : State :=
  { s with accts := s.accts.map fun a => if a.charges isl vi then f a else a }

/-- The account that charges an interface on an island. -/
def State.acctOf (s : State) (isl vi : Nat) : Option Acct := s.accts.find? fun a => a.charges isl vi

/-- Applies a change to a generated step. -/
def State.onStep (s : State) (task wid : Nat) (f : Step → Step) : State :=
  { s with steps := s.steps.map fun t => if t.task == task && t.wid == wid then f t else t }

/-- A generated step. -/
def State.stepOf (s : State) (task wid : Nat) : Option Step := s.steps.find? fun t => t.task == task && t.wid == wid

/-- A task. -/
def State.taskOf (s : State) (id : Nat) : Option Task := s.tasks.find? fun t => t.id == id

/-- Changes a task. -/
def State.onTask (s : State) (id : Nat) (f : Task → Task) : State :=
  { s with tasks := s.tasks.map fun t => if t.id == id then f t else t }

/-- Changes a context. -/
def State.onCtx (s : State) (c : Nat) (f : Ctx → Ctx) : State :=
  match Tab.get s.ctxs c with
  | some x => { s with ctxs := Tab.put s.ctxs c (f x) }
  | none => s

/-- Changes the memory system. -/
def State.updMem (s : State) (f : Memory → Memory) : State := { s with mem := f s.mem }

/-- Who pays for traffic: the account of an interface on an island, and the step (11 R249, 16 R377). -/
structure Payer where
  island : Nat
  vi : Nat
  task : Nat
  wid : Nat
  deriving DecidableEq, Repr

/-- Who pays for the traffic of the step on a core. -/
def State.payer (s : State) (p : Nat) : Option Payer :=
  (s.getCore p).seat.map fun z => (Payer.mk (s.islandOf (clusterOf p)) z.vi z.task z.wid)

/-- Who pays for an engine command that runs on core p (13 R290, 16 R377): the step that issued it. -/
def State.payerOf (s : State) (p ctx : Nat) (o : Owner) : Option Payer :=
  (Tab.get s.ctxs ctx).map fun x => (Payer.mk (s.islandOf (clusterOf p)) x.vi o.task o.wid)

/-- Counts n device-memory sectors moved against a step and its account (11 R249, 16 R377); host-path and walker
traffic charges nobody. -/
def State.meter (s : State) (who : Option Payer) (n : Nat) : State :=
  match who with
  | none => s
  | some z =>
    (s.onStep z.task z.wid fun t => { t with sectors := t.sectors + n }).onAcct z.island z.vi
      fun a => { a with sectors := a.sectors + n }

/-! ## Energy -/

/-- The ticks of a budget interval (16 R368). -/
def intervalTicks : Nat := 10000

/-- Adds to a counter that saturates (16 R383). -/
def satAdd (a b : Nat) : Nat := min (2 ^ 64 - 1) (a + b)

/-- Sectors that cost one budget unit (11 R249, 16 R377). -/
def sectorsPerBu : Nat := 12288

/-- The microjoules of a budget unit (16 R378). -/
def ujPerBu : Nat := 25

/-! ## Physical memory -/

/-- The base of host addresses among resolved physical addresses: node 2 after ATS (15 R353). -/
def hostBase : Nat := 2 ^ 64

/-- The node of a resolved physical address (11 R242). -/
def nodeOf (pa : Nat) : Nat := if hostBase ≤ pa then 2 else bits pa 46 45

/-- The device memory of a card (01 R12): 256 GiB. -/
def deviceBytes : Nat := 2 ^ 38

/-- The home slice of an address (11 R246). -/
def sliceOf (pa : Nat) : Nat :=
  bits pa 11 7 ^^^ bits pa 16 12 ^^^ bits pa 21 17 ^^^ bits pa 26 22 ^^^ bits pa 31 27 ^^^ bits pa 36 32 ^^^
    bits pa 41 37 ^^^ bits pa 44 42

/-- The set of a line: 2048 sets a slice (11 R241: 4 MiB, 16 ways of 128 bytes); the mapping is not architectural. -/
def setOf (line : Nat) : Nat := sliceOf (line * 128) * 2048 + line / 32 % 2048

/-- The lines of the system cache that share a set with a line. -/
def Memory.linesOf (m : Memory) (line : Nat) : List Nat :=
  ((m.sys.map fun e => e.1 / 2).filter fun l => setOf l == setOf line).dedup

/-- Drops a sector from the system cache; a dirty one is written back with its poison bit (11 R247, R248). -/
def evictSector (who : Option Payer) (sec : Nat) (s : State) : State :=
  match Tab.get s.mem.sys sec with
  | none => s
  | some e =>
    let s := s.updMem fun m => { m with sys := Tab.del m.sys sec }
    if e.dirty then
      (s.updMem fun m => { m with poison := if e.poison then NSet.add m.poison sec else NSet.del m.poison sec }).meter
        who 1
    else s

/-- Makes room for a line in its set; false when every way is pinned by a deferral (11 R247). -/
def makeRoom (who : Option Payer) (line : Nat) (s : State) : Bool × State :=
  let ls := s.mem.linesOf line
  if ls.contains line || ls.length < 16 then (true, s)
  else
    let free := ls.filter fun l => !(s.mem.defer.any fun d => d.pa / 128 == l)
    match free with
    | [] => (false, s)
    | l :: _ =>
      let c := s.choose free.length
      let v := free.getD c.1 l
      (true, evictSector who (2 * v + 1) (evictSector who (2 * v) c.2))

/-- A read of a sector of device memory meets a correctable error: the sector is corrected, and the report is noted (11
R250). -/
def correctSector (sec : Nat) (s : State) : State :=
  if NSet.has s.mem.weak sec then
    s.updMem fun m => { m with weak := NSet.del m.weak sec, corrected := m.corrected + 1 }
  else s

/-- One access to a sector of node 0 at its home slice (11 R247): a miss fills it, unless the whole sector is written, and
the read corrects what it can (R250). A whole write clears the sector's poison (R248). -/
def touchSector (who : Option Payer) (sec : Nat) (write whole : Bool) (s : State) : State :=
  match Tab.get s.mem.sys sec with
  | some e =>
    if write then s.updMem fun m => { m with sys := Tab.put m.sys sec (Sector.mk true (e.poison && !whole)) } else s
  | none =>
    let s := if write && whole then s else correctSector sec (s.meter who 1)
    let bad := NSet.has s.mem.poison sec && !(write && whole)
    let r := makeRoom who (sec / 2) s
    if r.1 then r.2.updMem fun m => { m with sys := Tab.put m.sys sec (Sector.mk write bad) }
    else if write then (r.2.updMem fun m =>
      { m with poison := if bad then NSet.add m.poison sec else NSet.del m.poison sec }).meter who 1
    else r.2

/-- The sectors of a range. -/
def sectorsOf (pa n : Nat) : List Nat :=
  if n = 0 then [] else (List.range ((pa + n - 1) / 64 - pa / 64 + 1)).map (· + pa / 64)

/-- Accesses every sector of a range of node 0. -/
def touch (who : Option Payer) (pa n : Nat) (write : Bool) (s : State) : State :=
  if pa < 2 ^ 45 then
    (sectorsOf pa n).foldl
      (fun s sec => touchSector who sec write (write && decide (pa ≤ sec * 64) && decide (sec * 64 + 64 ≤ pa + n)) s) s
  else s

/-- The poison a read of a range would consume: the source of 08 R188; what a bridge that is down returns is poisoned too
(18 R415). Device and host sectors stand in one set, by number. -/
def poisonOf (s : State) (pa n : Nat) : Option Nat :=
  if pa < 2 ^ 45 then
    (sectorsOf pa n).findSome? fun sec =>
      match Tab.get s.mem.sys sec with
      | some e => if e.poison then some (if e.dirty then 3 else 2) else none
      | none => if NSet.has s.mem.poison sec then some 4 else none
  else if nodeOf pa = 1 ∧ (s.bridge.tx.up = false ∨ s.bridge.rx.up = false) then some 8
  else if (sectorsOf pa n).any fun sec => NSet.has s.mem.poison sec then some 8 else none

/-- An access to read a range of node 0, and the poison that it consumes where its sectors stand afterwards (11 R243,
R248). -/
def fetchPoison (who : Option Payer) (pa n : Nat) (s : State) : Option Nat × State :=
  let s := touch who pa n false s
  (poisonOf s pa n, s)

/-- The sectors of a set that a write does not cover whole (11 R248). -/
def uncovered (pa n : Nat) (l : NSet) : NSet :=
  l.filter fun sec => !(decide (pa ≤ sec * 64) && decide (sec * 64 + 64 ≤ pa + n))

/-- The bytes of a resolved address. -/
def State.pbytes (s : State) (pa n : Nat) : List Byte :=
  if hostBase ≤ pa then s.mem.host.bytes (pa - hostBase) n else s.mem.bytes.bytes pa n

/-- A little-endian number at a resolved address. -/
def State.pnat (s : State) (pa n : Nat) : Nat := ofBytes (s.pbytes pa n)

/-- Writes bytes at a resolved address. The full bits of the words touched become `full` where given, and dirty_track
is set (11 R250, R256). -/
def State.pwrite (s : State) (who : Option Payer) (pa : Nat) (bs : List Byte) (full : Option Bool) : State :=
  let n := bs.length
  if hostBase ≤ pa then
    s.updMem fun m => { m with host := m.host.write (pa - hostBase) bs, poison := uncovered pa n m.poison }
  else
    let words := if n = 0 then [] else (List.range ((pa + n - 1) / 8 - pa / 8 + 1)).map (· + pa / 8)
    let s := touch who pa n true s
    s.updMem fun m =>
      { m with
        bytes := m.bytes.write pa bs
        full := match full with
          | none => m.full
          | some true => NSet.addAll m.full words
          | some false => m.full.filter fun w => !words.contains w
        dirtyTrack := NSet.addAll m.dirtyTrack (sectorsOf pa n)
        poison := if pa < 2 ^ 45 then m.poison else uncovered pa n m.poison }

/-- A device write of an n-byte number to node-0 memory on the device's own account. -/
def State.dput (s : State) (pa n v : Nat) : State := s.pwrite none pa (toBytes n v) (some false)

/-- Marks the sectors of a range poisoned (11 R248). -/
def State.poisonRange (s : State) (pa n : Nat) : State :=
  (sectorsOf pa n).foldl
    (fun s sec => s.updMem fun m =>
      match Tab.get m.sys sec with
      | some e => { m with sys := Tab.put m.sys sec (Sector.mk e.dirty true) }
      | none => { m with poison := NSet.add m.poison sec }) s

/-- A stream of the device (spill, save areas, headers): numbers by offset and size, written at a device address. Streams
move data and leave the full bits of words alone; they set dirty_track and clear the poison of whole sectors (11 R248,
R250, R256). -/
def State.stream (s : State) (pa : Nat) (items : List (Nat × Nat × Nat)) : State :=
  s.updMem fun m =>
    items.foldl
      (fun m i =>
        let a := pa + i.1
        let lo := (a + 63) / 64
        let hi := (a + i.2.1) / 64
        { m with
          bytes := m.bytes.putN a i.2.1 i.2.2
          dirtyTrack := if i.2.1 = 0 then m.dirtyTrack else
            NSet.addRange m.dirtyTrack (a / 64) ((a + i.2.1 - 1) / 64 - a / 64 + 1)
          poison := m.poison.filter fun x => x < lo || hi ≤ x
          weak := m.weak.filter fun x => x < lo || hi ≤ x
          sys := m.sys.map fun e => if lo ≤ e.1 ∧ e.1 < hi then (e.1, { e.2 with poison := false }) else e }) m

/-! ## Records of events -/

/-- The 64 bytes of a trap or steward event record (08 R185). -/
def eventRec (code detail handle overflow tick : Nat) (bundle : Word) (va : Nat) (crd : List Nat) (pos : Nat) :
    List Byte :=
  toBytes 1 code ++ toBytes 1 detail ++ toBytes 2 handle ++ toBytes 4 overflow ++ toBytes 8 tick ++
    toBytes 8 bundle.toNat ++ toBytes 8 va ++
    ((List.range 5).flatMap fun i => toBytes 4 (crd.getD i 0)) ++ toBytes 4 pos ++ toBytes 8 0

/-- Appends a record to the steward event ring of an interface (14 R340), and signals its event vector; a full ring
counts the loss in its newest record. -/
def State.event (s : State) (vi : Nat) (rec : List Byte) : State :=
  match s.viOf vi with
  | none => s
  | some v =>
    let wr := s.pnat v.ring 8
    let rd := s.pnat (v.ring + 8) 8
    let slot := fun i => v.ring + 64 + 64 * (i % 2 ^ v.ringSize)
    if (wr + 2 ^ 64 - rd) % 2 ^ 64 = 2 ^ v.ringSize then
      let a := slot (wr + 2 ^ 64 - 1) + 4
      s.dput a 4 (min (2 ^ 32 - 1) (s.pnat a 4 + 1))
    else
      let s := s.pwrite none (slot wr) rec (some false)
      let s := s.dput v.ring 8 (wr + 1)
      { s with msi := s.msi ++ [(vi, v.vector)] }

/-- An H event to which the spec gives no code: a corrected error, a link event, a fault of the cooling system (08 R188;
18 R412, R414, R418). Its code and detail are open values (log 2). -/
def State.hEvent (s : State) : State :=
  let f := s.freeWord
  f.2.event 0 (eventRec (f.1.toNat % 256) (f.1.toNat / 256 % 256) 0 0 s.tick 0 0 [] 0xFFFFFFFF)

/-- Reports the reads that have been corrected to H firmware (11 R250), n at most. -/
def State.reportCorrected : Nat → State → State
  | 0, s => s
  | n + 1, s =>
    if s.mem.corrected = 0 then s
    else State.reportCorrected n (s.updMem fun m => { m with corrected := m.corrected - 1 }).hEvent

/-- The context header of a context: 32 KiB above its diversion table (17 R388, R400). -/
def Ctx.header (x : Ctx) : Nat := x.div + 32768

/-- The shadow image of a logical core (17 R388). -/
def State.imageOf (s : State) (x : Ctx) (l : Nat) : Nat := s.pnat x.header 8 + 4194304 * l

/-- The shadow barrier store of a logical core (17 R388). -/
def State.sbsOf (s : State) (x : Ctx) (l : Nat) : Nat := s.pnat (x.header + 8) 8 + 4096 * l

/-- The trap record area of a logical core (08 R185). -/
def State.trapArea (s : State) (x : Ctx) (l : Nat) : Nat := s.imageOf x l + 0x311000

/-- The records of a trap record area that are not free, oldest first: age by the tick at the event, then by place. -/
def State.trapRecs (s : State) (x : Ctx) (l : Nat) : List Nat :=
  let a := s.trapArea x l
  let all := ((List.range 64).map fun i => a + 64 * i).filter fun r => s.pnat r 1 != 0
  sortBy (fun r => s.pnat (r + 8) 8) all

/-- The free records of a logical core's trap record area, by address. -/
def State.freeRecs (s : State) (x : Ctx) (l : Nat) : List Nat :=
  ((List.range 64).map fun i => s.trapArea x l + 64 * i).filter fun r => s.pnat r 1 == 0

/-- Writes an asynchronous event into the trap record area of a logical core; a full area counts it in the newest
record's overflow (08 R184, R185). Of several free records it takes the one at the lowest address: the model's choice
(log 132). -/
def State.trapRec (s : State) (ctx l : Nat) (rec : List Byte) : State :=
  match Tab.get s.ctxs ctx with
  | none => s
  | some x =>
    match s.freeRecs x l with
    | r :: _ => s.pwrite none r rec (some false)
    | [] =>
      match (s.trapRecs x l).getLast? with
      | some r => s.dput (r + 4) 4 (min (2 ^ 32 - 1) (s.pnat (r + 4) 4 + 1))
      | none => s

/-- COPYFAULT (08 R179). -/
def cCOPYFAULT : Nat := 0x20
/-- DESYNC (08 R179). -/
def cDESYNC : Nat := 0x21
/-- THROTWARN (08 R179). -/
def cTHROTWARN : Nat := 0x22
/-- WRFAIL (08 R179). -/
def cWRFAIL : Nat := 0x23
/-- DATALOSS (08 R179). -/
def cDATALOSS : Nat := 0x30
/-- PAIRQ (08 R179). -/
def cPAIRQ : Nat := 0x31
/-- DBLFAULT (08 R179). -/
def cDBLFAULT : Nat := 0x32

/-- The position of a record that names no command-buffer entry (08 R185). -/
def noPos : Nat := 0xFFFFFFFF

/-! ## Translation -/

/-- What an access wants of a page (15 R347). -/
inductive Want where
  | read | write | atomic | fetch
  deriving DecidableEq, Repr

/-- How a translation failed: not present on the device (with a malformed entry's address for the steward), not
present on the host, or against the rights (08 R179, 15 R343 to R347, R353). -/
inductive TFail where
  | absent | host | rights
  deriving DecidableEq, Repr

/-- A virtual address is canonical when bits 63:56 are all equal (15 R343). -/
def canonical (va : Nat) : Bool := bits va 63 56 = 0 || bits va 63 56 = 255

/-- The bytes of a page size code (03 R88, 15 R345). -/
def pageSize (code : Nat) : Nat :=
  match code with
  | 0 => 2 ^ 12 | 1 => 2 ^ 14 | 2 => 2 ^ 16 | 3 => 2 ^ 18 | 4 => 2 ^ 20
  | 5 => 2 ^ 21 | 6 => 2 ^ 22 | 7 => 2 ^ 24 | 8 => 2 ^ 26 | 9 => 2 ^ 28
  | 10 => 2 ^ 30 | _ => 2 ^ 32

/-- Whether a size code belongs to a level (15 R345). -/
def sizeAt (level code : Nat) : Bool :=
  match level with
  | 0 => decide (code ≤ 4)
  | 1 => decide (5 ≤ code) && decide (code ≤ 9)
  | 2 => decide (10 ≤ code) && decide (code ≤ 11)
  | _ => false

/-- Whether a valid entry read at a level is malformed (15 R346); a leaf of node 3 must not be mapped for U (R363). -/
def pteBad (level e : Nat) : Bool :=
  if bits e 1 1 = 0 then
    decide (level = 0) || decide (bits e 63 48 ≠ 0) || decide (bits e 11 2 ≠ 0) || decide (bits e 46 45 ≠ 0) ||
      decide (bits e 47 47 ≠ 0)
  else
    decide (bits e 63 51 ≠ 0) || !(sizeAt level (bits e 11 8)) ||
      (if bits e 46 45 = 2 then decide (bits e 44 12 ≠ 0)
        else decide (bits e 47 12 * 4096 % pageSize (bits e 11 8) ≠ 0)) ||
      (decide (bits e 46 45 = 3) && decide (bits e 5 5 = 1))

/-- The physical address of a leaf: its node in bits 46:45 and its offset in bits 44:0 (11 R242); no cache or slice sees
bit 47. -/
def leafPa (e : Nat) : Nat := bits e 46 12 * 4096

/-- The answer of a walk (15 R343): absent, malformed at an entry, or a leaf with its address. -/
inductive Walk where
  | absent
  | bad (entry : Nat)
  | leaf (e addr : Nat)
  deriving DecidableEq, Repr

/-- Walks the page tables from a table at a level down (15 R343). -/
def walkFrom (m : Mem) (va : Nat) : Nat → Nat → Walk
  | level, table =>
    let a := table + 8 * bits va (12 + 9 * level + 8) (12 + 9 * level)
    let e := m.nat a 8
    if bits e 0 0 = 0 then .absent
    else if pteBad level e then .bad a
    else if bits e 1 1 = 1 then .leaf e a
    else
      match level with
      | 0 => .bad a
      | l + 1 => walkFrom m va l (bits e 47 12 * 4096)

/-- A walk for a context (15 R343, R357): from its root, when valid and the address canonical. -/
def walk (s : State) (x : Ctx) (va : Nat) : Walk :=
  if bits x.root 0 0 = 1 ∧ canonical va = true then walkFrom s.mem.bytes va 4 (bits x.root 47 12 * 4096) else .absent

/-- Whether a translation covers an address of a context. -/
def Tlb.covers (t : Tlb) (ctx va : Nat) : Bool := t.ctx == ctx && decide (t.va ≤ va) && decide (va < t.va + t.size)

/-- Whether a leaf grants an access at a level with an ordering scope (15 R347). -/
def granted (e : Nat) (w : Want) (lv : Level) (sc : Option Nat) : Bool :=
  (match w with
    | .read => decide (bits e 2 2 = 1)
    | .write => decide (bits e 3 3 = 1)
    | .atomic => decide (bits e 2 2 = 1) && decide (bits e 3 3 = 1)
    | .fetch => decide (bits e 4 4 = 1)) &&
    (decide (lv ≠ .u) || decide (bits e 5 5 = 1)) &&
    (match sc with
      | none => true
      | some k => decide (k ≤ bits e 50 48))

/-- Inserts a translation into a list of at most n, the free choice deciding whose place it takes (15 R342). -/
def insertTlb (n : Nat) (l : List Tlb) (t : Tlb) (pick : Nat) : List Tlb :=
  if l.length < n then l ++ [t] else dropNth l (pick % n) ++ [t]

/-- The cluster TLBs without the k-th translation of one cluster (15 R342). -/
def dropCluster : List (Nat × Tlb) → Nat → Nat → List (Nat × Tlb)
  | [], _, _ => []
  | t :: ts, cl, k =>
    if t.1 ≠ cl then t :: dropCluster ts cl k
    else
      match k with
      | 0 => ts
      | k + 1 => t :: dropCluster ts cl k

/-- Sets bits of a page-table entry by an atomic OR at its home slice (15 R348). -/
def orEntry (s : State) (a m : Nat) : State := s.pwrite none a (toBytes 8 (s.pnat a 8 ||| m)) none

/-- The translation of an address for core p's caches: L1 TLB, cluster TLB, walker, which installs it and sets a
(15 R348 to R350). The walker reports a malformed entry to the steward (R346). -/
def lookup (s : State) (p ctx va : Nat) : Option Tlb × State :=
  let c := s.getCore p
  match c.port.tlb.find? fun t => t.covers ctx va with
  | some t => (some t, s)
  | none =>
    match s.ctlb.find? fun t => t.1 == clusterOf p && t.2.covers ctx va with
    | some t =>
      let k := s.choose 64
      (some t.2, k.2.setCore { c with port.tlb := insertTlb 64 c.port.tlb t.2 k.1 })
    | none =>
      match Tab.get s.ctxs ctx with
      | none => (none, s)
      | some x =>
        match walk s x va with
        | .absent => (none, s)
        | .bad a => (none, s.event x.vi (eventRec 0x04 0 0 0 s.tick 0 a [] noPos))
        | .leaf e a =>
          let sz := pageSize (bits e 11 8)
          let e := e ||| 64
          let t := (Tlb.mk ctx (va / sz * sz) sz (leafPa e) (BitVec.ofNat 64 e) a)
          let s := orEntry s a 64
          let k := if c.port.tlb.length < 64 then (0, s) else s.choose 64
          let s := k.2.setCore { c with port.tlb := insertTlb 64 c.port.tlb t k.1 }
          let n := (s.ctlb.filter fun t => t.1 == clusterOf p).length
          if n < 2048 then (some t, { s with ctlb := s.ctlb ++ [(clusterOf p, t)] })
          else
            let k := s.choose n
            (some t, { k.2 with ctlb := dropCluster k.2.ctlb (clusterOf p) k.1 ++ [(clusterOf p, t)] })

/-- The host page of an address under a PASID, as the host's own map answers an ATS request now (15 R353; log 11). -/
def State.hostPage (s : State) (pasid va : Nat) : Option HostPage :=
  s.hostMap.find? fun h => h.pasid == pasid && decide (h.va ≤ va) && decide (va < h.va + h.size)

/-- The page requests that a function may have outstanding at the host (18 R410). -/
def priSlots : Nat := 512

/-- The page requests of an interface that stand at the host: the oldest ones; the others wait in the device until a
response frees a place (15 R353). -/
def State.priOut (s : State) (vi : Nat) : List (Nat × Nat × Nat) := (s.pri.filter fun q => q.1 == vi).take priSlots

/-- Completes a node-2 leaf by the ATC or an ATS request (15 R353): the host address, or a PRI request. The ATC holds
the host's rights in bits 2:0 of its leaf. -/
def ats (s : State) (x : Ctx) (ctx va : Nat) (w : Want) : Except TFail Nat × State :=
  let give := fun (t : Tlb) (s : State) =>
    let ok := match w with
      | .read => t.leaf.getLsbD 0
      | .write => t.leaf.getLsbD 1
      | .atomic => t.leaf.getLsbD 0 && t.leaf.getLsbD 1
      | .fetch => t.leaf.getLsbD 2
    (if ok then .ok (hostBase + t.pa + (va - t.va)) else .error .rights, s)
  match s.atc.find? fun t => t.covers ctx va with
  | some t => give t s
  | none =>
    match s.hostPage x.pasid va with
    | some h =>
      let t := (Tlb.mk ctx h.va h.size h.hpa (h.rights.setWidth 64) 0)
      let k := if s.atc.length < 4096 then (0, s) else s.choose 4096
      give t { k.2 with atc := insertTlb 4096 k.2.atc t k.1 }
    | none =>
      let req := (x.vi, x.pasid, va / 4096)
      (.error .host, if s.pri.contains req then s else { s with pri := s.pri ++ [req] })

/-- Notes a write in the leaf of a translation, before it is performed (15 R348). -/
def State.setDirty (s : State) (p : Nat) (t : Tlb) : State :=
  if bits t.leaf.toNat 7 7 = 1 then s
  else
    let s := orEntry s t.leafAddr 128
    let c := s.getCore p
    let fix := fun (u : Tlb) => if u == t then { u with leaf := u.leaf ||| 128 } else u
    { s.setCore { c with port.tlb := c.port.tlb.map fix } with ctlb := s.ctlb.map fun u => (u.1, fix u.2) }

/-- Translates an access of core p in a context (15 R343 to R353): the resolved physical address or the failure, and
the state after the walk. A host page that is absent comes before the rights (11 R254). A write sets d before it is
performed (R348). -/
def translate (s : State) (p ctx va : Nat) (w : Want) (lv : Level) (sc : Option Nat) : Except TFail Nat × State :=
  if !canonical va then (.error .absent, s)
  else
    match lookup s p ctx va, Tab.get s.ctxs ctx with
    | (some t, s), some x =>
      let e := t.leaf.toNat
      let r := if bits e 46 45 = 2 then ats s x ctx va w else (.ok (t.pa + (va - t.va)), s)
      match r with
      | (.error .host, s) => (.error .host, s)
      | (a, s) =>
        if !(granted e w lv sc) then (.error .rights, s)
        else
          match a with
          | .error f => (.error f, s)
          | .ok pa => (.ok pa, if w = .write || w = .atomic then s.setDirty p t else s)
    | (_, s), _ => (.error .absent, s)

/-- What the node of an address refuses (11 R242): atomics other than add, swap and CAS on the host, futures there,
vector accesses and fetches of device registers, a device offset at or above 256 GiB, and the peer while the bridge is
down (18 R415). -/
inductive NodeUse where
  | scalar | vector | atomic (hostOk : Bool) | future | fetch
  deriving DecidableEq, Repr

/-- Whether a node accepts an access of n bytes (11 R242, 18 R415). -/
def nodeOk (s : State) (pa n : Nat) (u : NodeUse) : Bool :=
  match nodeOf pa with
  | 0 => decide (pa % 2 ^ 45 < deviceBytes)
  | 1 => decide (pa % 2 ^ 45 < deviceBytes) && s.bridge.opened && s.bridge.tx.up && s.bridge.rx.up
  | 2 =>
    match u with
    | .atomic ok => ok
    | .future => false
    | _ => true
  | _ =>
    match u with
    | .scalar => decide (n = 4 ∨ n = 8)
    | _ => false

/-- ORs the dirty-log bit of every 64 KiB block a write of a context to node 0 touches (15 R355). -/
def dirtyLog (s : State) (ctx va n : Nat) : State :=
  match Tab.get s.ctxs ctx with
  | none => s
  | some x =>
    if x.logBase = 0 ∨ n = 0 then s
    else
      ((List.range ((va + n - 1) / 65536 - va / 65536 + 1)).map (· + va / 65536)).foldl
        (fun s blk =>
          let a := blk * 65536
          if x.logWin ≤ a ∧ a < x.logWin + 2 ^ x.logSize then
            let b := (a - x.logWin) / 65536
            let w := x.logBase + 8 * (b / 64)
            s.pwrite none w (toBytes 8 (s.pnat w 8 ||| 2 ^ (b % 64))) none
          else s) s

/-- The blocks of the log window of a context in which its tables map a physical range of node 0 (15 R355). -/
def State.blocksOf (s : State) (x : Ctx) (pa n : Nat) : List Nat :=
  (List.range (2 ^ x.logSize / 65536)).filter fun b =>
    (List.range 16).any fun k =>
      let va := x.logWin + 65536 * b + 4096 * k
      match walk s x va with
      | .leaf e _ =>
        let q := leafPa e + va % pageSize (bits e 11 8)
        decide (q < pa + n) && decide (pa < q + 4096)
      | _ => false

/-- ORs the dirty-log bits for a write that is diverted into a shadow image or a shadow barrier store: those of the blocks
in which the context's tables map it (15 R355; log 55). -/
def dirtyImage (s : State) (ctx pa n : Nat) : State :=
  match Tab.get s.ctxs ctx with
  | none => s
  | some x =>
    if x.logBase = 0 ∨ n = 0 then s
    else (s.blocksOf x pa n).foldl (fun s b => dirtyLog s ctx (x.logWin + 65536 * b) 1) s

/-- A write that is diverted into a shadow image or a shadow barrier store, by offset, size and value, with its dirty-log
bits (15 R355; 17 R394). -/
def State.divert (s : State) (ctx pa : Nat) (items : List (Nat × Nat × Nat)) : State :=
  (items.foldl (fun s i => dirtyImage s ctx (pa + i.1) i.2.1) s).stream pa items

/-! ## Naming -/

/-- A logical core map entry (15 R358). -/
def State.mapEntry (s : State) (x : Ctx) (l : Nat) : Nat := s.pnat (x.map + 4 * l) 4

/-- The state of a diversion entry (15 R360). -/
def State.divState (s : State) (x : Ctx) (l : Nat) : Nat := s.pnat (x.div + 32 * l) 1

/-- The naming caches without the entries of a logical core whose tables are given: a change of its map or diversion entry
invalidates them first (15 R361). -/
def State.dropName (s : State) (x : Ctx) (l : Nat) : State :=
  { s with naming := s.naming.filter fun e => !(e.lcore == l && (Tab.get s.ctxs e.ctx).map (·.div) == some x.div) }

/-- Sets the state of a diversion entry. -/
def State.setDiv (s : State) (x : Ctx) (l v : Nat) : State := (s.dropName x l).dput (x.div + 32 * l) 1 v

/-- The entries of a cluster's naming cache (15 R342). -/
def namingSize : Nat := 256

/-- A port of a cluster looks up a logical core: the cluster's naming cache takes the entry, a free choice naming the one
that gives way when it is full (15 R342, R361). -/
def State.lookName (s : State) (cl ctx l : Nat) : State :=
  match Tab.get s.ctxs ctx with
  | none => s
  | some x =>
    if s.naming.any fun e => e.cluster == cl && e.ctx == ctx && e.lcore == l then s
    else
      let e := Naming.mk cl ctx l (s.mapEntry x l) (s.divState x l)
      let mine := s.naming.filter fun e => e.cluster == cl
      if mine.length < namingSize then { s with naming := s.naming ++ [e] }
      else
        let k := s.choose namingSize
        { k.2 with naming := (k.2.naming.filter fun e => e.cluster != cl) ++ dropNth mine k.1 ++ [e] }

/-- The messages sent to a logical core that have not landed (15 R360). -/
def State.divPending (s : State) (x : Ctx) (l : Nat) : Nat := s.pnat (x.div + 32 * l + 4) 4

/-- Raises or lowers the pending count, saturating (15 R360). -/
def State.addPending (s : State) (x : Ctx) (l : Nat) (d : Int) : State :=
  s.dput (x.div + 32 * l + 4) 4 (max 0 (min (2 ^ 32 - 1) ((s.divPending x l : Int) + d))).toNat

/-- The core on which a logical core of a context is resident: the device keeps it, whatever is stored to a bound map
entry (15 R358, R361). -/
def State.residentCore (s : State) (ctx l : Nat) : Option Core :=
  s.allCores.find? fun c => (c.seat.map fun z => z.ctx == ctx && z.lcore == l).getD false

/-- The logical cores of a gang member list: those of the step that runs on a core. -/
def State.gangOf (s : State) (c : Core) : List Nat :=
  match c.seat with
  | none => []
  | some z => ((s.stepOf z.task z.wid).map (·.lcores)).getD [z.lcore]

end Sys2Proof.Machine
end

