-- ==== Sys2Proof/Machine/Ops.lean ====
section
/-! DEFINITION. Named operations of a core: results and their landing (03 R69 to R74), the commit buffer (08 R172,
R173), checkpoints and rollback (08 R169 to R178), the save area (17 R391), taking a trap and reloading after one
(08 R180 to R183; 07 R163, R164). -/

namespace Sys2Proof.Machine

/-! ## Registers -/

/-- Writes a scalar register; writes to X0 are discarded (03 R68). -/
def Arch.setX (a : Arch) (d : Fin 56) (v : Word) : Arch := if d = 0 then a else { a with x := a.x.set d v }

/-- Writes a predicate register. -/
def Arch.setP (a : Arch) (d : Fin 16) (v : PWord) : Arch := { a with p := a.p.set d v }

/-- Writes a vector register. -/
def Arch.setV (a : Arch) (d : VDst) (v : VWord) : Arch :=
  match d with
  | .v i => { a with v := a.v.set i v }
  | .w i => { a with w := a.w.set i v }

/-- Writes a shadow record. -/
def Arch.setSd (a : Arch) (i : Fin 8) (r : Rec) : Arch := { a with sd := a.sd.set i r }

/-- Exchanges a shape register with its shadow (06 R147). -/
def Arch.swap (a : Arch) (i : Fin 8) : Arch := { a with d := a.d.set i a.sd[i], sd := a.sd.set i a.d[i] }

/-- The part of a landing that is checkpoint state: the destination, then the flags (03 R72; 02 R57; 07 R160). -/
def Arch.land (a : Arch) (f : Flight) : Arch :=
  let a := match f.dst with
    | .none => a
    | .x d v => a.setX d v
    | .p d v => a.setP d v
    | .v ds => ds.foldl (fun (a : Arch) (x : VDst × VWord) => a.setV x.1 x.2) a
    | .csr n v => if n = 0 then { a with fpctl := v } else if n = 1 then { a with fpflags := v } else a
    | .shf i fld v => a.setSd i (recSet a.sd[i] fld v.toNat)
    | .sd i r => a.setSd i r
  { a with fpflags := orFlags a.fpflags f.flags }

/-- A T-class control register takes a landing value (07 R160). -/
def Csrs.setT (c : Csrs) (n : Nat) (v : Word) : Csrs :=
  match n with
  | 0x020 => { c with cause := v }
  | 0x021 => { c with baddr := v }
  | 0x022 => { c with info := v }
  | 0x023 => { c with ret := v }
  | 0x024 => { c with status := v }
  | 0x027 => { c with scratch := v }
  | _ => c

/-- The rest of a landing: T-class registers, and the latch unless a checkpoint has passed since issue (08 R170). -/
def Core.land (c : Core) (f : Flight) : Core :=
  { c with
    arch := c.arch.land f
    csr := match f.dst with
      | .csr n v => c.csr.setT n v
      | _ => c.csr
    lat := match f.latch with
      | some (u, v) => if f.fresh then c.lat.set (Fin.ofNat 8 u) v else c.lat
      | none => c.lat }

/-- Whether a result is a control-register write: of the results of one beat these apply first (07 R160). -/
def Flight.isCsr (f : Flight) : Bool :=
  match f.dst with
  | .csr _ _ => true
  | _ => false

/-- The order in which results land: by beat, register writes of CSRW first, then issue order (03 R74; 07 R160). -/
def Flight.key (f : Flight) : Nat := 2 * f.due + if f.isCsr then 0 else 1

/-- The code of a vector register in a commit signature. -/
def VDst.code : VDst → Nat
  | .v i => 128 + i.val
  | .w i => 176 + i.val

/-- What a commit signature folds in of a result that lands (08 R191). -/
def Dst.observed (d : Dst) : List Nat :=
  match d with
  | .none => []
  | .x d a => [d.val, a.toNat]
  | .p d a => [64 + d.val, a.toNat]
  | .v ds => ds.flatMap fun x => [VDst.code x.1, x.2.toNat]
  | .csr n a => [4096 + n, a.toNat]
  | .shf d f a => [192 + d.val, f.val, a.toNat]
  | .sd d a => [192 + d.val, a.toNat]

/-- Folds what is observed into the commit signature of a core that runs paired (08 R191). -/
def Core.signs (c : Core) (l : List Nat) : Core := if c.paired then { c with sig := l.foldl Config.sigFold c.sig } else c

/-- Lands every result due by the current beat (03 R72, R74), and signs it (08 R191): the results and flag changes. -/
def Core.landDue (c : Core) : Core :=
  let now := sortBy Flight.key (c.flight.filter fun f => decide (f.due ≤ c.beat))
  let rest := c.flight.filter fun f => !decide (f.due ≤ c.beat)
  (now.foldl Core.land { c with flight := rest }).signs (now.flatMap fun f => f.dst.observed ++ [f.flags.toNat])

/-- Checkpoint state with every result in flight folded in (08 R170). -/
def Core.folded (c : Core) : Arch := (sortBy Flight.key c.flight).foldl Arch.land c.arch

/-! ## Results -/

/-- Adds a result of latency L: it reads as landed from the L-th later bundle on (03 R72). -/
def Core.result (c : Core) (lat : Nat) (dst : Dst) (latch : Option (Nat × VWord)) (fl : Flags) : Core :=
  { c with flight := c.flight ++ [(Flight.mk (c.beat + lat) dst latch fl true c.beat c.iss.pos)] }

/-- The destination of an instruction whose n bit may suppress it (03 R70). -/
def dstOf (n : Bool) (d : Dst) : Dst := if n then .none else d

/-- A scalar result of an S-unit, into B0 or B1 (03 R69). -/
def State.retS (s : State) (lat : Nat) (n : Bool) (d : Fin 56) (v : Word) : State :=
  s.upd fun c => c.result lat (dstOf n (.x d v)) (some (c.iss.unit % 2, v.setWidth 4096)) 0

/-- A predicate result of an S-unit; the latch holds its bits 63:0 (04 R99). -/
def State.retP (s : State) (lat : Nat) (n : Bool) (d : Fin 16) (v : PWord) : State :=
  s.upd fun c => c.result lat (dstOf n (.p d v)) (some (c.iss.unit % 2, (v.setWidth 64).setWidth 4096)) 0

/-- The latch of a V-unit: B2 to B4 (03 R69). -/
def Core.vLatch (c : Core) : Nat := 2 + c.iss.unit % 3

/-- The latch of an M-unit: B6 or B7 (03 R69). -/
def Core.mLatch (c : Core) : Nat := 6 + c.iss.unit % 2

/-- A scalar result of an M-unit. -/
def State.retMx (s : State) (lat : Nat) (n : Bool) (d : Fin 56) (v : Word) : State :=
  s.upd fun c => c.result lat (dstOf n (.x d v)) (some (c.mLatch, v.setWidth 4096)) 0

/-- A vector result of an M-unit. -/
def State.retMv (s : State) (lat : Nat) (n : Bool) (d : VDst) (v : VWord) : State :=
  s.upd fun c => c.result lat (dstOf n (.v [(d, v)])) (some (c.mLatch, v)) 0

/-- A record field or shadow write: it fills no latch, since it is no register of R68. -/
def State.retSd (s : State) (lat : Nat) (d : Dst) : State := s.upd fun c => c.result lat d none 0

/-- Whether a fixed-latency result is aimed at a register. -/
def Flight.aims (f : Flight) (p : PDst) : Bool :=
  match p, f.dst with
  | .x d, .x e _ => d == e
  | .v d, .v ds => ds.any fun x => x.1 == d
  | .sd i, .sd j _ => i == j
  | .sd i, .shf j _ _ => i == j
  | _, _ => false

/-- A fixed-latency write of a bundle before a beat without effect on a register, since a variable-latency result that is
due there supersedes it before anyone can read it (03 R73); its latch stays. -/
def Flight.drop (p : PDst) (beat : Nat) (f : Flight) : Flight :=
  if f.aims p = false ∨ beat ≤ f.issued then f
  else
    match p, f.dst with
    | .v d, .v ds => { f with dst := .v (ds.filter fun x => x.1 ≠ d) }
    | _, _ => { f with dst := .none }

/-- Whether a result in flight from an earlier bundle is aimed at the register of a pending result and lands only after the
present beat: the pending one waits for it (03 R73). -/
def Core.laterFixed (c : Core) (q : Pend) : Bool :=
  c.flight.any fun f => f.aims q.dst && decide (f.issued < q.beat) && decide (c.beat < f.due)

/-- A result in flight that counts as landed before a pending one (03 R73; log 33): it writes the register no more, and the
latch neither where the pending one fills the same latch after it. -/
def Flight.settle (q : Pend) (f : Flight) : Flight :=
  let same := f.aims q.dst && decide (f.issued < q.beat) && q.fresh && (f.latch.map fun u => u.1 == q.latch).getD false
  { f.drop q.dst q.beat with latch := if same then none else f.latch }

/-- Whether what lands a result looks at earlier results first: the global loads, in order (log 9), and whatever waits for
an acquire (11 R255, R263). -/
def Wait.inOrder (w : Wait) : Bool :=
  match w with
  | .load _ _ _ _ _ | .future _ _ _ _ _ _ | .futureFwd _ _ | .pref _ _ _ | .barrier _ _ => true
  | _ => false

/-- Whether a bundle that waits for the results which a test names needs pending result k: it is one of them, or one of
them waits for it. -/
def Core.needs (c : Core) (f : Pend → Bool) (k : Nat) : Bool :=
  match c.pend[k]? with
  | none => false
  | some q => f q || (q.wait.inOrder && (c.pend.drop (k + 1)).any fun r => f r && r.wait.inOrder)

/-- A core whose beats stop until the results land that a test names (03 R73; log 33): of the registers that it needs, the
older results in flight count as landed, since nobody reads these registers before. -/
def Core.settleFixed (c : Core) (f : Pend → Bool) : Core :=
  let qs := (List.range c.pend.length).filterMap fun k => if c.needs f k then c.pend[k]? else none
  { c with flight := qs.foldl (fun fs q => fs.map (Flight.settle q)) c.flight }

/-- Lands every result in flight: the beats that a waiting core lets pass (03 R72). -/
def Core.landAll (c : Core) : Core :=
  let last := c.flight.foldl (fun m f => max m f.due) c.beat
  { c with beat := last }.landDue

/-- The same of a result of variable latency. -/
def PDst.observed (d : PDst) (v : VWord) : List Nat :=
  match d with
  | .none => []
  | .x d => [d.val, v.toNat]
  | .v d => [VDst.code d, v.toNat]
  | .sd i => [192 + i.val, v.toNat]

/-- A variable-latency result of number k lands with a value, ending its pending mark (03 R73), after the fixed results
that are due; the latch takes it. The register does not take it where a higher slot of its own bundle has a result in
flight for it that is due too (R74); a shadow record takes all but the fields that such a result writes (06 R148). -/
def Core.landPend (c : Core) (k : Nat) (v : VWord) : Core :=
  match c.pend[k]? with
  | none => c
  | some q =>
    let later := c.flight.filter fun f =>
      f.aims q.dst && decide (f.issued = q.beat) && decide (q.slot < f.pos) && decide (f.due ≤ c.beat)
    let c := c.landDue.signs (q.dst.observed v)
    { c with
      pend := dropNth c.pend k
      arch := match q.dst with
        | .none => c.arch
        | .x d => if later = [] then c.arch.setX d (v.setWidth 64) else c.arch
        | .v d => if later = [] then c.arch.setV d v else c.arch
        | .sd i => (sortBy Flight.key later).foldl Arch.land (c.arch.setSd i (v.setWidth 1024))
      lat := match q.dst with
        | .sd _ => c.lat
        | _ => if q.fresh then c.lat.set (Fin.ofNat 8 q.latch) v else c.lat }

/-- Marks a register pending (03 R73). -/
def State.addPend (s : State) (dst : PDst) (w : Wait) (latch : Nat) (block : Bool) : State :=
  s.upd fun c =>
    { c with pend := c.pend ++ [(Pend.mk dst w latch c.beat c.ltime true c.pc c.iss.pos block)] }

/-- The pending destination of an instruction with an n bit (03 R70). -/
def pendX (n : Bool) (d : Fin 56) : PDst := if n || decide (d = 0) then .none else .x d

/-- The pending destination of a vector load. -/
def pendV (n : Bool) (d : VDst) : PDst := if n then .none else .v d

/-! ## The save area (17 R391) -/

/-- A predicate number as a byte. -/
def b2n (b : Bool) : Nat := if b then 1 else 0

/-- The 64 bytes of the saved modulo sequencer. -/
def Modulo.image (q : Modulo) : Nat :=
  undigits 8 [b2n q.active, q.ii, q.stages, q.k] + q.n % 2 ^ 32 * 2 ^ 32 + q.start.toNat * 2 ^ 64 +
    q.pass % 2 ^ 64 * 2 ^ 128 + undigits 3 q.map % 2 ^ 192 * 2 ^ 192

/-- The saved loop stack: start, end and count of each entry. -/
def loopsImage (l : List LoopEntry) : Nat :=
  undigits 64 (l.flatMap fun e => [e.start.toNat, e.stop.toNat, e.count.toNat])

/-- The checkpoint state as the save area holds it: offset, size and content of each item. -/
def Arch.saveItems (a : Arch) (addr : Word) : List (Nat × Nat × Nat) :=
  [(0x0000, 8, addr.toNat), (0x0008, 8, a.fpctl.toNat), (0x0010, 8, a.fpflags.toNat), (0x0018, 8, a.wid.toNat),
    (0x0020, 1, a.depth), (0x0021, 6, undigits 8 ((List.range 6).map fun i => a.widths.getD i 0)),
    (0x0028, 2, a.ckptmax), (0x0030, 8, undigits 8 (a.rd.toList.map (· % 16))), (0x0038, 4, 1), (0x003C, 4, 1),
    (0x0080, 448, undigits 64 (0 :: a.x.toList.tail.map (·.toNat))), (0x0240, 144, loopsImage a.loops),
    (0x02D0, 8, a.loops.length), (0x0300, 64, a.modq.image),
    (0x0400, 2048, undigits 1024 (a.p.toList.map (·.toNat))),
    (0x0C00, 1024, undigits 1024 (a.d.toList.map (·.toNat))),
    (0x1000, 1024, undigits 1024 (a.sd.toList.map (·.toNat))),
    (0x2000, 24576, undigits 4096 (a.v.toList.map (·.toNat))),
    (0x8000, 4096, undigits 4096 (a.w.toList.map (·.toNat)))]

/-- n registers of width w from consecutive bytes. -/
def regsAt (w n : Nat) (v : Nat) : Vector (BitVec w) n := Vector.ofFn fun i => BitVec.ofNat w (v / 2 ^ (w * i.val))

/-- The modulo sequencer as saved; the body end and the address after the map are re-derived from code (17 R391). -/
def Modulo.ofImage (v : Nat) : Modulo :=
  let d := fun (hi lo : Nat) => bits v hi lo
  let ii := d 15 8
  (Modulo.mk (v % 2 == 1) (BitVec.ofNat 64 (d 127 64)) ii (d 63 32) (d 23 16) (d 31 24) (d 191 128)
    (digits 3 64 (d 383 192)) 0 0)

/-- The checkpoint state reloaded from a save area; the pipe read pointers are taken as the nearest counts from the
endpoints' bases on (17 R391). What a patched area holds beyond the fields' ranges: the loop depth is taken modulo 7, the
identity depth, the widths, `.ckptmax` and the modulo pass as they stand, the model's choice (log 64). -/
def archAt (s : State) (pa : Nat) (pipes : Vector Pipe 8) : Arch :=
  let g := fun (o n : Nat) => s.pnat (pa + o) n
  let n := g 0x02D0 8 % 7
  { x := (regsAt 64 56 (g 0x0080 448)).set 0 0
    p := regsAt 1024 16 (g 0x0400 2048)
    d := regsAt 1024 8 (g 0x0C00 1024)
    sd := regsAt 1024 8 (g 0x1000 1024)
    v := regsAt 4096 48 (g 0x2000 24576)
    w := regsAt 4096 8 (g 0x8000 4096)
    fpctl := BitVec.ofNat 64 (g 0x0008 8) &&& fpctlMask
    fpflags := BitVec.ofNat 64 (g 0x0010 8) &&& fpflagsMask
    loops := (List.range n).map fun i =>
      (LoopEntry.mk (BitVec.ofNat 64 (g (0x0240 + 24 * i) 8)) (BitVec.ofNat 64 (g (0x0248 + 24 * i) 8))
        (BitVec.ofNat 64 (g (0x0250 + 24 * i) 8)))
    modq := Modulo.ofImage (g 0x0300 64)
    wid := BitVec.ofNat 64 (g 0x0018 8)
    depth := g 0x0020 1
    widths := (List.range 6).map fun i => g (0x0021 + i) 1
    rd := Vector.ofFn fun i => pipes[i].base + (g (0x0030 + i.val) 1 + 16 - pipes[i].base % 16) % 16
    ckptmax := g 0x0028 2 }

/-! ## The commit buffer -/

/-- The entries of the current segment (08 R168). -/
def Core.segEntries (c : Core) : Nat := c.cbuf.length

/-- The entry limit of a segment (08 R173). -/
def bufferSize : Nat := 64

/-- The context and the logical core of the kernel on the current core. -/
def Core.self (c : Core) : Nat × Nat := ((c.seat.map (·.ctx)).getD 0, (c.seat.map (·.lcore)).getD 0)

/-- The step on the current core. -/
def Core.owner (c : Core) : Owner := (Owner.mk ((c.seat.map (·.task)).getD 0) ((c.seat.map (·.wid)).getD 0))

/-- An entry as the issuing slot makes it (08 R172). -/
def Core.entry (c : Core) (k : EKind) : Entry := (Entry.mk k c.level c.pc c.self.1 c.self.2 c.owner 0)

/-! ## Rollback and traps -/

/-- Drops the deferred requests of a core, wherever they wait (11 R259). -/
def State.cancelLdf (s : State) (p : Nat) : State :=
  s.updMem fun m => { m with defer := m.defer.filter fun d => d.core != p }

/-- Rollback (08 R178). -/
def Core.rollback (c : Core) : Core :=
  { c with
    arch := c.ck
    pc := c.ckAddr
    phase := .run
    delay := .none
    lat := .replicate 8 0
    fspace := 3
    flight := []
    pend := []
    sleep := none
    segBundles := 0
    cbuf := [] }

/-- Rolls the current core back (08 R178, 11 R259). -/
def State.rollbackCore (s : State) : State := (s.upd Core.rollback).cancelLdf s.core.pcore

/-- The word of trap.cause (07 R156). -/
def causeWord (async : Bool) (detail slot code : Nat) : Word :=
  BitVec.ofNat 64 (b2n async * 2 ^ 31 + detail % 256 * 2 ^ 16 + slot % 8 * 2 ^ 8 + code % 256)

/-- trap.status (07 R156). -/
def statusWord (inTrap : Bool) (lv : Level) : Word :=
  BitVec.ofNat 64 (4 * b2n inTrap + match lv with | .u => 0 | .s => 1 | .h => 2)

/-- Whether a trap is being handled (07 R156). -/
def Core.inTrap (c : Core) : Bool := c.csr.status.getLsbD 2

/-- An identity that no checkpoint has had (07 R166). -/
def Core.freshId (c : Core) : Nat := (c.ckNext + 1) * 128 + c.pcore

/-- The steward's first checkpoint: the loop stack empty, the modulo sequencer inactive, latches clear, the F-unit
idle, at trap.vec; no result of the kernel is in flight (08 R180, R183). The count of disagreements stays as it stands, the
model's choice (log 128). -/
def Core.enterSteward (c : Core) : Core :=
  let a := { c.ck with loops := [], modq := .reset }
  { c with
    arch := a
    ck := a
    ckAddr := c.csr.vec
    pc := c.csr.vec
    level := .s
    phase := .run
    delay := .none
    lat := .replicate 8 0
    fspace := 3
    flight := []
    pend := []
    segBundles := 0
    ckId := c.freshId
    ckKernel := if c.level = .u then c.ckId else c.ckKernel
    ckNext := c.ckNext + 1
    sleep := none
    cleanRerun := []
    iss := { c.iss with stopped := true } }

/-- Trap entry after the rollback or the commit (08 R180; 07 R163): the trap registers, the save area, the steward. -/
def State.enterTrap (s : State) (cause baddr info ret : Word) : State :=
  let c := s.core
  let s := s.upd fun c =>
    { c with csr := { c.csr with
        cause := cause, baddr := baddr, info := info, ret := ret, status := statusWord true c.level } }
  let s := s.stream (c.csr.save.toNat % 2 ^ 45) (c.ck.saveItems c.ckAddr)
  (s.upd Core.enterSteward).cancelLdf s.core.pcore

/-- A double fault (08 R182): the core stops issuing and H firmware, interface 0's steward, gets a DBLFAULT record; the
kernel of the core is parked by the dispatcher afterwards. The record's bundle is the core's: the model's choice (log 141). -/
def State.doubleFault (s : State) (code : Nat) : State :=
  let a := s.core.pc
  let s := s.event 0 (eventRec cDBLFAULT code 0 0 s.tick a 0 [] noPos)
  (s.upd fun c => { c.rollback with phase := .halted, iss := { c.iss with stopped := true } }).cancelLdf s.core.pcore

/-- A synchronous trap of the slot in issue (08 R180, R182): rollback, the trap registers, the save area, level S. A
pre-emption that waits for the boundary after the bundle discards the fault (01 R28). -/
def State.trapAt (s : State) (pos code detail : Nat) (info : Word) : State :=
  let c := s.core
  if c.level ≠ .u ∧ c.inTrap = true then s.doubleFault code
  else if c.level = .u ∧ c.preempt.isSome = true then
    s.rollbackCore.upd fun c => { c with iss := { c.iss with stopped := true } }
  else s.rollbackCore.enterTrap (causeWord false detail pos code) c.pc info c.ckAddr

/-- A synchronous trap recorded against the slot in issue. -/
def State.trap (s : State) (code detail : Nat) (info : Nat) : State :=
  s.trapAt s.core.iss.pos code detail (BitVec.ofNat 64 info)

/-- The fault codes of 08 R179. -/
def tILLEGAL : Nat := 0x01
/-- PRIV. -/
def tPRIV : Nat := 0x02
/-- FETCH. -/
def tFETCH : Nat := 0x03
/-- XLATE. -/
def tXLATE : Nat := 0x04
/-- ACCESS. -/
def tACCESS : Nat := 0x05
/-- ALIGN. -/
def tALIGN : Nat := 0x06
/-- SHAPE. -/
def tSHAPE : Nat := 0x07
/-- STALE. -/
def tSTALE : Nat := 0x08
/-- SPBOUND. -/
def tSPBOUND : Nat := 0x09
/-- UNCORR. -/
def tUNCORR : Nat := 0x0A
/-- SEGLONG. -/
def tSEGLONG : Nat := 0x0B
/-- SEGFULL. -/
def tSEGFULL : Nat := 0x0C
/-- WAITSELF. -/
def tWAITSELF : Nat := 0x0D
/-- LOOPSTK. -/
def tLOOPSTK : Nat := 0x0E
/-- SYSCALL. -/
def tSYSCALL : Nat := 0x10

/-- ILLEGAL of the slot in issue. -/
def State.illegal (s : State) : State := s.trap tILLEGAL 0 0

/-- Withholds one entry (08 R172, R173): the 65th of a segment raises SEGFULL. -/
def State.withhold (s : State) (k : EKind) : State :=
  if bufferSize ≤ s.core.segEntries then s.trap tSEGFULL 0 0
  else s.upd fun c => { c with cbuf := c.cbuf ++ [c.entry k] }

/-- A failed translation as a data fault (11 R254): XLATE with its detail, or ACCESS with the access's detail. -/
def State.dataTrap (s : State) (f : TFail) (accDetail va : Nat) : State :=
  match f with
  | .absent => s.trap tXLATE 0 va
  | .host => s.trap tXLATE 1 va
  | .rights => s.trap tACCESS accDetail va

/-! ## Checkpoints -/

/-- The units of a size that byte ranges together write whole (09 R198 for loaves, R215 for bank words). -/
def wholeUnits (size : Nat) (ranges : List (Nat × Nat)) : List Nat :=
  let units := (ranges.flatMap fun r => [r.1 / size, (r.1 + r.2 - 1) / size]).dedup
  units.filter fun l =>
    let m : Nat := ranges.foldl
      (fun m r =>
        let a := max r.1 (l * size)
        let b := min (r.1 + r.2) (l * size + size)
        if a < b then m ||| ((2 ^ (b - a) - 1) <<< (a - l * size)) else m) 0
    m == 2 ^ size - 1

/-- The byte ranges of an entry's scratchpad stores. -/
def EKind.spRanges : EKind → List (Nat × Nat)
  | .spStore cs => (cs.filter fun c => 0 < c.bytes.length).map fun c => (c.va, c.bytes.length)
  | _ => []

/-- Whether an entry stores into a loaf. -/
def Entry.storesIn (e : Entry) (l : Nat) : Bool :=
  e.kind.spRanges.any fun r => decide (r.1 / 4096 ≤ l) && decide (l ≤ (r.1 + r.2 - 1) / 4096)

/-- The entries of a segment with, after the last one that stores into it, the coverage of each loaf of a list. -/
def withCoverage (whole : List Nat) : List Entry → List Entry
  | [] => []
  | e :: es =>
    let ls := whole.filter fun l => e.storesIn l && !(es.any fun d => d.storesIn l)
    e :: (if ls = [] then [] else [{ e with kind := .covered ls }]) ++ withCoverage whole es

/-- The entries of a segment as they are released at commit (08 R177), each loaf that its stores cover whole noted where
its last word is written (09 R198). -/
def Core.released (c : Core) : List Entry :=
  withCoverage (wholeUnits 4096 (c.cbuf.flatMap fun e => e.kind.spRanges)) c.cbuf

/-- Frees the pipe entries that the segment has read, and tells each writer how many (08 R176, 14 R332); an entry that a
PIPR with n = 1 reads is freed by a commit after it has come. -/
def Core.freePipes (c : Core) : Core × List (Nat × Nat) :=
  let ns := (List.finRange 8).map fun i => (i, min (c.arch.rd[i] - c.eng.pipes[i].base) c.eng.pipes[i].entries.length)
  let c' := { c with eng := { c.eng with pipes := Vector.ofFn fun i =>
    let q := c.eng.pipes[i]
    let n := min (c.arch.rd[i] - q.base) q.entries.length
    { q with base := q.base + n, entries := q.entries.drop n } } }
  (c', (ns.filter fun x => decide (0 < x.2)).map fun x => (x.1.val, x.2))

/-- Queues a fabric message of the current core for a logical core of a context (14 R335). -/
def State.send (s : State) (ctx l : Nat) (b : Body) (handle : Nat) (bundle : Word) (task src : Nat) : State :=
  let s := match Tab.get s.ctxs ctx with
    | some x => s.addPending x l 1
    | none => s
  s.upd fun c => { c with port := { c.port with
    window := c.port.window ++ [(Msg.mk c.port.seq ctx l b .sent handle bundle task src false none)]
    seq := c.port.seq + 1 } }

/-- Sends the free notices of a commit to the writers' endpoints (14 R332). -/
def State.sendFree (s : State) (ns : List (Nat × Nat)) : State :=
  match s.core.seat with
  | none => s
  | some z =>
    ns.foldl
      (fun s n =>
        let q := s.core.eng.pipes[Fin.ofNat 8 n.1]
        let l := (s.gangOf s.core).getD q.peerMember z.lcore
        s.send z.ctx l (.freeNotice q.peerEnd n.2) 0 s.core.pc z.task z.lcore) s

/-- Gives an engine command its number (10 R225, 13 R290). -/
def EKind.number (k : EKind) (n : Nat) : EKind :=
  match k with
  | .copy c => .copy { c with seq := n }
  | .matrix c => .matrix { c with id := n }
  | k => k

/-- Numbers entries from a count on; the numbers of one core are distinct from every other core's. -/
def numberFrom (p : Nat) : Nat → List Entry → List Entry
  | _, [] => []
  | n, e :: es => { e with kind := e.kind.number (n * 128 + p) } :: numberFrom p (n + 1) es

/-- Commit: the entries of the ending segment are released in program order (08 R177), pipe slots are freed. The commit of a
checkpoint bundle that issues again, where nothing has issued since, ends no segment (08 R188, R192). -/
def State.commit (s : State) : State :=
  let s := s.upd fun c =>
    let es := c.released.map fun e => { e with tick := s.tick }
    { c with
      drain := c.drain ++ numberFrom c.pcore c.eng.seq es
      eng := { c.eng with seq := c.eng.seq + es.length }
      cbuf := []
      mismatches := if c.segBundles = 0 then c.mismatches else 0
      cleanRerun := if c.segBundles = 0 then c.cleanRerun else [] }
  let r := s.core.freePipes
  { s with core := r.1 }.sendFree r.2

/-- The new checkpoint at an address (08 R170): state with results in flight folded in, latches clear, and no result
issued before it fills a latch. One taken again where nothing has issued since keeps its identity (07 R166). -/
def Core.takeCkpt (c : Core) (addr : Word) : Core :=
  { c with
    ck := c.folded
    ckAddr := addr
    lat := .replicate 8 0
    flight := c.flight.map fun f => { f with fresh := false }
    pend := c.pend.map fun q => { q with fresh := false }
    ckId := if c.segBundles = 0 ∧ c.ckAddr = addr then c.ckId else c.freshId
    ckNext := c.ckNext + 1
    segBundles := 0 }

/-- The old value of an atomic issued at a beat lands in its register and in the checkpoint state that its commit begins
(08 R175), and is signed (R191), where no result of its own bundle lands after it (03 R74); the latches are clear by then
(R170). -/
def Core.landAtomic (c : Core) (d : Option (Fin 56)) (beat : Nat) (v : Word) : Core :=
  match d with
  | none => c
  | some d =>
    let later := c.flight.any fun f => f.aims (.x d) && decide (beat ≤ f.issued)
    let c := c.signs (PDst.observed (.x d) (v.setWidth 4096))
    { c with
      arch := c.arch.setX d v
      ck := if later then c.ck else c.ck.setX d v
      flight := c.flight.map (Flight.drop (.x d) beat) }

end Sys2Proof.Machine
end

