-- ==== Sys2Proof/Machine/Shape.lean ====
section
/-! DEFINITION. Tensor layout records: fields, addressing, layout checks, and the shadow instructions that touch no
memory (06 R142 to R153). -/

namespace Sys2Proof.Machine

/-- The control word (R143). -/
def ctlOf (r : Rec) : Nat := recGet r 1
/-- Its handle. -/
def handleOf (r : Rec) : Nat := bits (ctlOf r) 31 16
/-- A scale stream accompanies the operand. -/
def scaleEn (r : Rec) : Bool := bits (ctlOf r) 11 11 = 1
/-- The scale group code. -/
def groupCode (r : Rec) : Nat := bits (ctlOf r) 10 9
/-- 2:4 sparse storage. -/
def sparseOf (r : Rec) : Bool := bits (ctlOf r) 8 8 = 1
/-- The element format (R144). -/
def elemOf (r : Rec) : Nat := bits (ctlOf r) 7 4
/-- Scratchpad space. -/
def spaceSp (r : Rec) : Bool := bits (ctlOf r) 3 3 = 1
/-- The rank. -/
def rankOf (r : Rec) : Nat := bits (ctlOf r) 2 0
/-- The extent of dimension k. -/
def dimOf (r : Rec) (k : Nat) : Nat := recBytes r (12 + 4 * k) 4
/-- The stride of dimension k, 1 to 4, all 64 bits of it. -/
def strOf (r : Rec) (k : Nat) : Nat := if k = 0 then 0 else recBytes r (24 + 8 * k) 8
/-- The box extent of dimension k. -/
def boxOf (r : Rec) (k : Nat) : Nat := recBytes r (64 + 2 * k) 2
/-- The box origin of dimension k. -/
def crdOf (r : Rec) (k : Nat) : Int := sval (recBytes r (76 + 4 * k) 4) 32
/-- The base. -/
def baseOf (r : Rec) : Nat := recGet r 0
/-- The scale stream's address and column stride. -/
def sbaseOf (r : Rec) : Nat := recGet r 21
/-- The scale stream's column stride. -/
def sstrOf (r : Rec) : Nat := recGet r 22
/-- The fill pattern. -/
def fillOf (r : Rec) : Nat := recGet r 23
/-- The multicast mask. -/
def mcastOf (r : Rec) : Nat := recGet r 24

/-- Whether a format addresses 32-element groups (R144). -/
def groupedFmt (elem : Nat) (sparse : Bool) : Bool :=
  decide (elem = 11 ∨ elem = 12 ∨ elem = 13) || (decide (elem = 6) && sparse)

/-- Whether a record is of a grouped format. -/
def grouped (r : Rec) : Bool := groupedFmt (elemOf r) (sparseOf r)

/-- The bytes of an addressing unit (R144): esize, or gbytes of a group. -/
def unitOf (elem : Nat) (sparse : Bool) : Nat :=
  match elem with
  | 0 | 1 | 7 => 1
  | 2 | 3 | 8 | 9 => 2
  | 4 | 5 | 10 => 4
  | 6 => if sparse then 20 else 1
  | 11 | 13 => if sparse then 12 else 16
  | 12 => 12
  | _ => 1

/-- The bytes of a record's addressing unit. -/
def unitBytes (r : Rec) : Nat := unitOf (elemOf r) (sparseOf r)

/-- The units along dimension 0 of the box. Of a grouped record whose box_0 is no multiple of 32, which code 8 reports, the
spec does not say whether the division is exact where code 5 measures the box: the model floors, by its choice (log 114). -/
def units0 (r : Rec) : Nat := if grouped r then boxOf r 0 / 32 else boxOf r 0

/-- The units of the box (R145). -/
def boxUnits (r : Rec) : Nat :=
  ((List.range (rankOf r)).map fun k => if k = 0 then units0 r else boxOf r k).foldl (· * ·) 1

/-- The box byte count (R145). -/
def boxBytes (r : Rec) : Nat := boxUnits r * unitBytes r

/-- The elements of the box, K elements counted singly for grouped formats. -/
def boxElems (r : Rec) : Nat := ((List.range (rankOf r)).map (boxOf r)).foldl (· * ·) 1

/-- The box indices of the unit at a linear position (R145): i_0 steps by 32 for grouped formats. -/
def boxIndex (r : Rec) (e : Nat) : List Nat :=
  let go := (List.range (rankOf r)).foldl
    (fun (a : Nat × List Nat) k =>
      let n := if k = 0 then units0 r else boxOf r k
      (a.1 / max n 1, a.2 ++ [a.1 % max n 1])) (e, [])
  match go.2 with
  | [] => []
  | i :: is => (if grouped r then 32 * i else i) :: is

/-- The coordinates of a unit (R145). -/
def coords (r : Rec) (e : Nat) : List Int := ((boxIndex r e).zip (List.range 5)).map fun x => crdOf r x.2 + (x.1 : Int)

/-- Whether coordinates lie inside the tensor (R145). -/
def insideAt (r : Rec) (xs : List Int) : Bool :=
  (xs.zip (List.range 5)).all fun x => decide (0 ≤ x.1) && decide (x.1 < (dimOf r x.2 : Int))

/-- The address of the unit at coordinates (R145), over 64 bits. -/
def addrAt (r : Rec) (xs : List Int) : Nat :=
  let off0 : Int := if grouped r then xs.headD 0 / 32 * unitBytes r else xs.headD 0 * unitBytes r
  let rest : Int := ((xs.zip (List.range 5)).drop 1).foldl (fun a x => a + x.1 * (strOf r x.2 : Int)) 0
  lowBits 64 ((baseOf r : Int) + off0 + rest)

/-- The fill pattern of one unit (R142): fill bits, or bits 7:0 over every byte of a group. -/
def fillBytes (r : Rec) : List Byte :=
  if grouped r then List.replicate (unitBytes r) (BitVec.ofNat 8 (fillOf r)) else toBytes (unitBytes r) (fillOf r)

/-- The dimensions below the rank. -/
def dimsOf (r : Rec) : List Nat := List.range (min (rankOf r) 5)

/-- The layout checks 1 to 12 of R149 for a gang of m members: the lowest failing code, 0 for none. -/
def recCheck (m : Nat) (r : Rec) : Nat :=
  let g := grouped r
  let a := if g then 4 else unitBytes r
  let el := elemOf r
  let checks : List (Nat × Bool) :=
    [(1, decide (rankOf r = 0) || decide (5 < rankOf r)),
      (2, decide (14 ≤ el) || decide (groupCode r = 3)),
      (3, (sparseOf r && !(decide (el = 6 ∨ el = 11 ∨ el = 13))) || (decide (el = 13) && decide (groupCode r ≠ 0))),
      (4, (dimsOf r).any fun k => dimOf r k == 0),
      (5, ((dimsOf r).any fun k => boxOf r k == 0 || decide (256 < boxOf r k)) || decide (2 ^ 20 < boxBytes r)),
      (6, decide (baseOf r % a ≠ 0)),
      (7, ((dimsOf r).drop 1).any fun k => decide (strOf r k % a ≠ 0) || decide (2 ^ 40 ≤ strOf r k)),
      (8, g && (decide (dimOf r 0 % 32 ≠ 0) || decide (boxOf r 0 % 32 ≠ 0) || decide (crdOf r 0 % 32 ≠ 0))),
      (9, scaleEn r && (!g || decide (sbaseOf r % 4 ≠ 0) || decide (sstrOf r % 4 ≠ 0))),
      (10, if spaceSp r then decide (3145728 ≤ baseOf r) else !canonical (baseOf r)),
      (11, decide (mcastOf r ≠ 0) && (!spaceSp r || decide (2 ^ m ≤ mcastOf r))),
      (12, decide (bits (ctlOf r) 15 12 ≠ 0) || decide (recBytes r 74 2 ≠ 0) || decide (recBytes r 114 14 ≠ 0))]
  ((checks.find? fun x => x.2).map (·.1)).getD 0

/-- The gang size of the step on the current core: 1 where none runs. -/
def State.gangSize (s : State) : Nat := max 1 (s.gangOf s.core).length

/-- A shape register (0 to 7) or shadow (8 to 15) (R152). -/
def Core.shapeReg (c : Core) (r : Fin 16) : Rec :=
  if r.val < 8 then c.arch.d[Fin.ofNat 8 r.val] else c.arch.sd[Fin.ofNat 8 r.val]

/-- The value of a field as SHRD reads it: crd0 to crd4 signed (R152). -/
def fieldRead (r : Rec) (f : Fin 25) : Word :=
  if 16 ≤ f.val ∧ f.val ≤ 20 then sextW (recGet r f) 32 else BitVec.ofNat 64 (recGet r f)

/-- SHF (R150). -/
def execShf (fld : Fin 25) (a : SSrc) (sd : Fin 8) (s : State) : Res :=
  .next (s.retSd 1 (.shf sd fld (s.core.sx a)))

/-- The sum of a shadow's field as it stands at issue and a value; the write keeps the field's width (R148, R150). -/
def addField (c : Core) (sd : Fin 8) (fld : Fin 25) (v : Word) : Word := BitVec.ofNat 64 (recGet c.arch.sd[sd] fld) + v

/-- SHF_ADD (R150). -/
def execShfAdd (fld : Fin 25) (a : SSrc) (sd : Fin 8) (s : State) : Res :=
  .next (s.retSd 1 (.shf sd fld (addField s.core sd fld (s.core.sx a))))

/-- SHFI (R150). -/
def execShfi (imm : BitVec 9) (fld : Fin 25) (sd : Fin 8) (s : State) : Res :=
  .next (s.retSd 1 (.shf sd fld (imm.signExtend 64)))

/-- SHFI_ADD (R150). -/
def execShfiAdd (imm : BitVec 9) (fld : Fin 25) (sd : Fin 8) (s : State) : Res :=
  .next (s.retSd 1 (.shf sd fld (addField s.core sd fld (imm.signExtend 64))))

/-- SHCP_D (R151). -/
def execShcpD (sd t : Fin 8) (s : State) : Res := .next (s.retSd 1 (.sd sd s.core.arch.d[t]))

/-- SHCP_SD (R151). -/
def execShcpSd (sd t : Fin 8) (s : State) : Res := .next (s.retSd 1 (.sd sd s.core.arch.sd[t]))

/-- SHRD (R152). -/
def execShrd (n : Bool) (d : SDst) (r : Fin 16) (fld : Fin 25) (s : State) : Res :=
  .next (s.retS 1 n d (fieldRead (s.core.shapeReg r) fld))

/-- SHCHK (R153). -/
def execShchk (n : Bool) (d : SDst) (r : Fin 16) (s : State) : Res :=
  .next (s.retS 1 n d (BitVec.ofNat 64 (recCheck s.gangSize (s.core.shapeReg r))))

end Sys2Proof.Machine
end

