-- ==== Sys2Proof/Machine/Gang.lean ====
section
/-! DEFINITION. Taking a kernel off its core: retirement, kill and restart after an uncorrectable error (01 R18 to R24;
08 R188, R189; 14 R323; 17 R409), and what happens when poisoned data is consumed. -/

namespace Sys2Proof.Machine

/-- Changes an island. -/
def State.onIsland (s : State) (i : Nat) (f : Island → Island) : State :=
  { s with islands := vmod s.islands i f }

/-- Changes a cluster. -/
def State.onCluster (s : State) (c : Nat) (f : Cluster → Cluster) : State :=
  { s with clusters := vmod s.clusters c f }

/-- A cluster by number. -/
def State.clusterAt (s : State) (c : Nat) : Cluster := s.clusters[Fin.ofNat 8 c]

/-- An island by number. -/
def State.islandAt (s : State) (i : Nat) : Island := s.islands[Fin.ofNat 4 i]

/-- Whether an island runs in half-width mode (16 R380, R384; 18 R418). -/
def State.narrow (s : State) (i : Nat) : Bool := (s.islandAt i).half || (s.islandAt i).hot || !s.coolant.faults.isEmpty

/-- The time of one core cycle (01 R13; 16 R380, R382), in 1/4845 tick: at 1.50, 1.70 and 1.90 GHz 3230, 2850 and 2550,
twice that in half-width mode. -/
def State.cycle (s : State) (p : Nat) : Nat :=
  let cl := clusterOf p
  let base := match (s.clusterAt cl).clock with
    | 0 => 3230
    | 1 => 2850
    | _ => 2550
  if s.narrow (s.islandOf cl) then 2 * base else base

/-- Returns the permits of a cluster's lease to its island's pool (16 R382). -/
def State.endLease (s : State) (cl : Nat) : State :=
  match (s.clusterAt cl).lease with
  | none => s
  | some l =>
    (s.onIsland (s.islandOf cl) fun i => { i with pool := min 64 (i.pool + l.remaining) }).onCluster cl
      fun c => { c with lease := none }

/-- Whether a cluster holds a resident kernel. -/
def State.clusterBusy (s : State) (cl : Nat) : Bool :=
  s.allCores.any fun c => clusterOf c.pcore == cl && c.seat.isSome

/-- The scratchpad when the resident step leaves: its loaves are free (09 R194). -/
def Scratch.release (p : Scratch) : Scratch :=
  { p with holder := p.holder.filter fun h => h.2 != .step, map := [] }

/-- A core without a kernel. -/
def Core.vacate (c : Core) : Core :=
  { c.rollback with
    phase := .idle
    level := .u
    csr := { c.csr with status := 0 }
    sp := c.sp.release
    mx := { c.mx with lastCtx := (c.seat.map (·.ctx)).or c.mx.lastCtx }
    seat := none
    paired := false
    frzCk := none
    yielded := false
    cleanRerun := []
    asyncDue := false
    dueBy := 0
    preempt := none
    mismatches := 0 }

/-! ## What a copy command names (13 R297, R299; 16 R372) -/

/-- The multicast mask of a copy command: the destination's, or of a weight copy (13 R297, R299). -/
def CCmd.mask (c : CCmd) : Nat :=
  match c.kind with
  | .copyIn _ => mcastOf (c.recs.headD 0)
  | .copyx => mcastOf (c.recs.getD 1 0)
  | .copym _ | .copys => wbits (c.ops.headD 0) 63 48
  | _ => 0

/-- The logical cores of a gang that a multicast mask of a logical core names: itself for 0 (06 R146, 13 R297, R299). -/
def named (gang : List Nat) (l mask : Nat) : List Nat :=
  if mask = 0 then [l] else (List.range gang.length).filterMap fun j => if mask.testBit j then gang[j]? else none

/-- The logical cores that a copy command lands at (13 R297, R299). -/
def CCmd.targets (c : CCmd) : List Nat := named c.gang c.lcore c.mask

/-- The barriers that a command names: its named barrier, or its index at each receiver (R299). -/
def CCmd.bars (k : CCmd) : List BarRef :=
  if k.bar.named then [k.bar] else k.targets.map fun l => (BarRef.mk false l k.bar.idx)

/-- Sets fault_pending of a barrier of a logical core, in its core or in its shadow barrier store. -/
def State.setFault (s : State) (ctx : Nat) (b : BarRef) (v : Bool) : State :=
  match Tab.get s.ctxs ctx with
  | none => s
  | some x =>
    let a := 16 * (b.idx % 256)
    match s.divState x b.lcore, s.residentCore ctx b.lcore with
    | 1, some c => s.setCore { c with bars := c.bars.putN a 16 (setBits (c.bars.nat a 16) 76 76 (b2n v)) }
    | 2, _ =>
      let a := s.sbsOf x b.lcore + a
      s.divert ctx a [(0, 16, setBits (s.pnat a 16) 76 76 (b2n v))]
    | _, _ => s

/-- Whether a command is halted and names a barrier of a context. -/
def CCmd.haltedOn (k : CCmd) (ctx : Nat) (b : BarRef) : Bool :=
  k.state = .halted && k.ctx == ctx && k.bars.any fun r => r.lcore == b.lcore && r.idx == b.idx

/-- The device forgets the copy commands whose records stand in an image, and their places at scale FIFOs (17 R390, R409);
fault_pending of the barriers that they named falls where no other halted command names them (16 R372). -/
def State.dropKept (s : State) (image : Nat) : State :=
  let here := fun (e : Nat × CCmd) => decide (image ≤ e.1) && decide (e.1 < image + 4194304)
  let gone := (s.kept.filter here).map (·.2)
  let dead := gone.map (·.seq)
  if gone = [] then s
  else
    let s := { s with
      kept := s.kept.filter fun e => !(here e)
      lines := (s.lines.map fun x => { x with queue := x.queue.filter fun n => !(dead.contains n) }).filter fun x => x.queue != [] }
    let left := (s.allCores.flatMap fun c => c.eng.bte) ++ s.kept.map (·.2)
    ((gone.filter fun k => k.state = .halted).flatMap fun k => k.bars.map fun b => (k.ctx, b)).foldl
      (fun s e => s.setFault e.1 e.2 (left.any fun k => k.haltedOn e.1 e.2)) s

/-- Empties the image of a logical core: nothing held, no save area, no records (17 R388). -/
def State.clearImage (s : State) (x : Ctx) (l : Nat) : State :=
  let a := s.imageOf x l
  (s.dropKept a).stream a [(0x300000, 12288, 0), (0x308038, 8, 0), (0x314000, 32768, 0), (0x330000, 512, 0), (0x331000, 4096, 0)]

/-- Stores the barriers of a core into the shadow barrier store of its logical core (17 R392). -/
def State.saveBars (s : State) (c : Core) : State :=
  match c.seat with
  | none => s
  | some z =>
    match Tab.get s.ctxs z.ctx with
    | none => s
    | some x => s.stream (s.sbsOf x z.lcore) [(0, 4096, c.bars.nat 0 4096)]

/-- A logical core map entry as the device writes it: bound, paired, pinned where a pin is in force, and the core (15
R358). -/
def Ctx.entry (x : Ctx) (l p : Nat) (bound : Bool) : Nat :=
  b2n bound * 2 ^ 31 + b2n x.paired * 2 ^ 30 + b2n (Tab.get x.pins l).isSome * 2 ^ 29 + p

/-- Unbinds a logical core from core p: the device writes the map entry anew, with its bound bit clear, whatever was stored
to it while it was bound, and the diversion entry becomes absent (15 R358, R360). -/
def State.unbind (s : State) (ctx l p : Nat) : State :=
  match Tab.get s.ctxs ctx with
  | none => s
  | some x => (s.dput (x.map + 4 * l) 4 (x.entry l p false)).setDiv x l 2

/-- The follower of a core that runs paired, f, as it stands (08 R190): it has issued the same bundles, each on its own
registers, scratchpad and matrix unit, so that it holds what its leader c holds. The bad words of its scratchpad stand with the
leader's: a read of one in either takes both back (R188; 09 R215). -/
def Core.follow (f c : Core) : Core :=
  { f with
    arch := c.arch, ck := c.ck, ckAddr := c.ckAddr, pc := c.pc, level := c.level, delay := c.delay, lat := c.lat
    fspace := c.fspace, beat := c.beat, flight := c.flight, pend := c.pend, cbuf := c.cbuf, csr := c.csr, sig := c.sig
    mismatches := c.mismatches, sp := { c.sp with
      holder := c.sp.holder.filter fun h => h.2 != .proofing, proof := none, poison := [] }
    mx := c.mx, phase := .follower, paired := true }

/-- Brings the follower of every pair to where its leader stands, and notes with the leader the words that have gone bad in the
follower's scratchpad (08 R190, R191; 09 R215; 10 R240). -/
def State.mirror (s : State) : State :=
  (s.allCores.filter fun c => c.paired && c.seat.isSome).foldl
    (fun s c =>
      let f := s.getCore (c.pcore + 1)
      (s.setCore { c with sp := { c.sp with poison := NSet.addAll c.sp.poison f.sp.poison } }).setCore (f.follow c)) s

/-- What every step ends with: the pairs (08 R190), and the reports of corrected reads (11 R250). -/
def State.settle (s : State) : State := s.mirror.reportCorrected s.mem.corrected

/-- Frees the follower of a paired core (08 R190): its matrix state is its leader's (10 R217). -/
def State.freeFollower (s : State) (c : Core) : State :=
  if c.paired then
    let f := (s.getCore (c.pcore + 1)).follow c
    s.setCore { f.rollback with
      phase := .idle, paired := false, level := .u, sp := f.sp.release
      mx := { f.mx with lastCtx := (c.seat.map (·.ctx)).or f.mx.lastCtx } }
  else s

/-- Adds joules to a step, its task and its context (16 R383). -/
def State.addJoules (s : State) (task wid n : Nat) : State :=
  let s := s.onStep task wid fun w => { w with joule := satAdd w.joule n }
  let s := s.onTask task fun t => { t with joule := satAdd t.joule n }
  match s.taskOf task with
  | some t => s.onCtx t.ctx fun x => { x with joule := satAdd x.joule n }
  | none => s

/-- The kernel that a core works for: its own, or that of its pair's leader (08 R190). -/
def State.seatOf (s : State) (p : Nat) : Option Seat :=
  let c := s.getCore p
  c.seat.or (if c.phase = .follower then (s.getCore (p - 1)).seat else none)

/-- Notes the stay of a kernel on core p, which it leaves (16 R383): its ticks of the interval at hand, and what has been
added for them. -/
def State.noteStay (s : State) (p : Nat) (z : Seat) (paid : Option Nat) : State :=
  let since := max (s.interval * intervalTicks) (((s.stepOf z.task z.wid).map (·.residentAt)).getD 0)
  { s with stays := s.stays ++ [Stay.mk p z (s.tick - since) paid] }

/-- The cores on which the kernel of core p runs: both of a pair (08 R190). -/
def Core.both (c : Core) : List Nat := if c.paired then [c.pcore, c.pcore + 1] else [c.pcore]

/-- The kernel of core p retires: the energy of its partial interval, a measurement and so an open value, is added at once
(16 R383; log 112), for each core of a pair. -/
def State.payStay (s : State) (p : Nat) : State :=
  match (s.getCore p).seat with
  | none => s
  | some z =>
    (s.getCore p).both.foldl
      (fun s q =>
        let w := s.freeWord
        (w.2.noteStay q z (some w.1.toNat)).addJoules z.task z.wid w.1.toNat) s

/-- Gives up the lease of a cluster if it is of a step (16 R382). -/
def State.dropLease (s : State) (cl task wid : Nat) : State :=
  match (s.clusterAt cl).lease with
  | some l => if l.owner = Owner.mk task wid then s.endLease cl else s
  | none => s

/-- Takes the kernel off a core for good: the barriers stay with the logical core, its image is empty, its loaves and
its cluster's idle count follow (01 R22, 09 R196, 16 R382, R386). -/
def State.leave (s : State) (p : Nat) : State :=
  let c := s.getCore p
  match c.seat with
  | none => s
  | some z =>
    let s := (s.saveBars c).cancelLdf p
    let s := (s.setCore c.vacate).freeFollower c
    let s := match Tab.get s.ctxs z.ctx with
      | some x => (s.clearImage x z.lcore).unbind z.ctx z.lcore p
      | none => s
    let cl := clusterOf p
    let s := s.dropLease cl z.task z.wid
    if s.clusterBusy cl then s else s.onCluster cl fun k => { k with idleSince := s.tick }

/-- Takes every kernel of a step that retires off its core. -/
def State.leaveAll (s : State) (cores : List Nat) : State := cores.foldl (fun s p => (s.payStay p).leave p) s

/-! ## Retirement (01 R18, R26; 14 R322) -/

/-- The number of a step by its indices. -/
def numberOf : List Nat → List Nat → Nat
  | t :: ts, i :: is => i + t * numberOf ts is
  | _, _ => 0

/-- Whether indices agree at the levels of a mask. -/
def agree (mask : BitVec 6) (a b : List Nat) : Bool :=
  (List.range 6).all fun k => !(mask.getLsbD k) || a.getD k 0 == b.getD k 0

/-- How often a step of a task is a predecessor of a generated step of another, or the same, task. -/
def Rule.waitsOn (r : Rule) (t : Task) (idx : List Nat) (p : Task) (done : List Nat) : Nat :=
  match r with
  | .chain k => if t.id = p.id ∧ idx.getD k 0 ≠ 0 ∧ idx.set k (idx.getD k 0 - 1) = done then 1 else 0
  | .tile mask (some u) => if u = p.id ∧ agree mask idx done = true then 1 else 0
  | .tile _ none => 0

/-- A retirement lowers the counters that wait on it, and releases steps whose counter becomes 0 (14 R322). -/
def State.release (s : State) (p : Task) (done : List Nat) : State :=
  { s with steps := s.steps.map fun u =>
    if u.state = .blocked then
      match s.taskOf u.task with
      | some t =>
        let n := u.counter - (t.rules.map fun r => r.waitsOn t u.idx p done).foldl (· + ·) 0
        { u with counter := n, state := if n = 0 then .ready else .blocked }
      | none => u
    else u }

/-- A step retires (01 R26; 14 R322): the memory joules of its partial interval are added (16 R383), its bit is set, its
dependants follow, and it is gone. -/
def State.retireStep (s : State) (task wid : Nat) : State :=
  match s.stepOf task wid, s.taskOf task with
  | some u, some t =>
    let s := s.addJoules task wid (ujPerBu * (u.sectors / sectorsPerBu - u.sectorsAt / sectorsPerBu))
    let s := s.onTask task fun t => { t with done := NSet.add t.done (numberOf t.tiles u.idx) }
    let s := { s with steps := s.steps.filter fun v => !(v.task == task && v.wid == wid) }
    s.release t u.idx
  | _, _ => s

/-- The leases of a step are given up (16 R382). -/
def State.thaw (s : State) (task wid : Nat) : State :=
  (List.range 8).foldl (fun s cl => s.dropLease cl task wid) s

/-- Kills a step (01 R18, R24): its cores are free, and a kill is its retirement. Of one that is absent the image is
discarded, copy records leave without posting, and its diversion entries are unused, so that what is sent to it is dropped
and reported (17 R409). -/
def State.killStep (s : State) (task wid : Nat) : State :=
  match s.stepOf task wid, s.taskOf task with
  | some t, some k =>
    let away := t.lcores.filter fun l => (s.residentCore k.ctx l).isNone
    let s := s.leaveAll t.cores
    let s := match Tab.get s.ctxs k.ctx with
      | some x => away.foldl (fun (s : State) l => (s.clearImage x l).setDiv x l 0) s
      | none => s
    (s.thaw task wid).retireStep task wid
  | _, _ => s

/-- Returns a step to its start (08 R189, 14 R323): its counter is recomputed as 0, so that it is Ready again, and none of
its members has ended. -/
def State.restartStep (s : State) (task wid : Nat) : State :=
  match s.stepOf task wid with
  | none => s
  | some t =>
    let s := t.cores.foldl (fun s p => (match (s.getCore p).seat with
      | some z => s.noteStay p z none
      | none => s).leave p) s
    let s := match (s.taskOf task).bind fun k => (Tab.get s.ctxs k.ctx).map fun x => (k, x) with
      | some k => t.lcores.foldl (fun (s : State) l => s.clearImage k.2 l) s
      | none => s
    s.onStep task wid fun t =>
      { t with state := .ready, cores := [], ended := [], ids := [], rotate := false, restarts := t.restarts + 1 }

/-- Data without a clean source was consumed by the kernel of the current core (08 R189): the gang restarts, or is
killed and DATALOSS reported. The record's bundle is the core's: the model's choice (log 141). -/
def State.loseData (s : State) (src addr : Nat) : State :=
  let c := s.core
  let s := (s.rollbackCore).upd fun c => { c with iss := { c.iss with stopped := true } }
  match c.seat with
  | none => s
  | some z =>
    match s.stepOf z.task z.wid, s.taskOf z.task with
    | some t, some k =>
      if k.restartable && decide (t.restarts < 2) then s.restartStep z.task z.wid
      else (s.killStep z.task z.wid).event z.vi (eventRec cDATALOSS src 0 0 s.tick c.pc addr [] noPos)
    | _, _ => s

/-- Drops the clean poisoned copy of an address (08 R188): an L1 line, a fetch block, a system-cache sector. -/
def State.dropCopy (s : State) (src pa : Nat) : State :=
  match src with
  | 0 => s.upd fun c => { c with port := { c.port with l1d := Tab.del c.port.l1d (pa / 64) } }
  | 1 => s.upd fun c => { c with port := { c.port with l1i := Tab.del c.port.l1i (pa / 64) } }
  | _ => s.updMem fun m => { m with sys := Tab.del m.sys (pa / 64) }

/-- The current core consumes poisoned data at an address (08 R188): a clean source is dropped and the segment runs
again; otherwise R189. -/
def State.consume (s : State) (src pa : Nat) (va : Nat) : State :=
  if src ≤ 2 ∧ s.core.cleanRerun.contains va = false then
    ((s.dropCopy src pa).rollbackCore.hEvent).upd fun c =>
      { c with cleanRerun := va :: c.cleanRerun, iss := { c.iss with stopped := true } }
  else if s.core.level = .u then s.loseData src va
  else s.trap tUNCORR src va

/-! ## Fetching code -/

/-- Why a fetch failed: the detail of FETCH (08 R179), or poison with its source. -/
inductive FetchFail where
  | trap (detail va : Nat)
  | poison (src pa va : Nat)
  deriving DecidableEq, Repr

/-- The L1 instruction cache after a fill; a full one gives up the block that a free choice names (11 R241). -/
def fillL1i (s : State) (k : Nat) (l : Line) : State :=
  if s.core.port.l1i.length < 1024 then s.upd fun c => { c with port := { c.port with l1i := Tab.put c.port.l1i k l } }
  else
    let r := s.choose 1024
    r.2.upd fun c => { c with port := { c.port with l1i := Tab.put (dropNth c.port.l1i r.1) k l } }

/-- Fetches a 64-byte block by virtual address (11 R245; 08 R179, R188): through the L1 instruction cache. -/
def fetchBlock (s : State) (va : Nat) : Except FetchFail (BitVec 512) × State :=
  let b := va / 64 * 64
  match s.core.seat with
  | none => (.error (.trap 0 b), s)
  | some z =>
    match translate s s.core.pcore z.ctx b .fetch s.core.level none with
    | (.error .absent, s) => (.error (.trap 0 b), s)
    | (.error .rights, s) => (.error (.trap 1 b), s)
    | (.error .host, s) => (.error (.trap 2 b), s)
    | (.ok pa, s) =>
      if !(nodeOk s pa 64 .fetch) then (.error (.trap 1 b), s)
      else
        match Tab.get s.core.port.l1i (pa / 64) with
        | some l => if l.poison then (.error (.poison 1 pa b), s) else (.ok l.data, s)
        | none =>
          let s := touch (s.payer s.core.pcore) pa 64 false s
          match poisonOf s pa 64 with
          | some src => (.error (.poison src pa b), s)
          | none =>
            let d := BitVec.ofNat 512 (s.pnat pa 64)
            (.ok d, fillL1i s (pa / 64) (Line.mk d false))

/-- Fetches a 32-bit word of code. -/
def fetchWord (s : State) (va : Nat) : Except FetchFail (BitVec 32) × State :=
  match fetchBlock s va with
  | (.ok d, s) => (.ok (BitVec.ofNat 32 (d.toNat / 2 ^ (8 * (va % 64)))), s)
  | (.error e, s) => (.error e, s)

/-- A failed fetch of code that an instruction reads: FETCH of its slot, or the consumption of poison, as that slot's. -/
def State.fetchTrap (s : State) (pos : Nat) : FetchFail → State
  | .trap d va => s.trapAt pos tFETCH d (BitVec.ofNat 64 va)
  | .poison src pa va => (s.upd fun c => { c with iss := { c.iss with pos := pos } }).consume src pa va

end Sys2Proof.Machine
end

