-- ==== Sys2Proof/Machine/Scalar.lean ====
section
/-! DEFINITION. Scalar arithmetic and logic, work identifiers, compares and predicate instructions (04 R93 to R99). -/

namespace Sys2Proof.Machine

/-- A shift count: bits 5:0 (R93). -/
def shiftOf (b : Word) : Nat := b.toNat % 64

/-- Signed quotient, truncated toward zero (R93). -/
def divS (a b : Word) : Word :=
  if b = 0 then -1 else BitVec.ofInt 64 (Int.tdiv a.toInt b.toInt)

/-- Unsigned quotient (R93). -/
def divN (a b : Word) : Word := if b = 0 then -1 else BitVec.ofNat 64 (a.toNat / b.toNat)

/-- Signed remainder with the dividend's sign (R93). -/
def remS (a b : Word) : Word := if b = 0 then a else BitVec.ofInt 64 (Int.tmod a.toInt b.toInt)

/-- Unsigned remainder (R93). -/
def remN (a b : Word) : Word := if b = 0 then a else BitVec.ofNat 64 (a.toNat % b.toNat)

/-- The leading zero bits of a w-bit number. -/
def leadingZeros (w x : Nat) : Nat := if x % 2 ^ w = 0 then w else w - 1 - Nat.log2 (x % 2 ^ w)

/-- The trailing zero bits of a w-bit number. -/
def trailingZeros (w x : Nat) : Nat := ((digits 1 w x).takeWhile fun b => b == 0).length

/-- The one bits of a w-bit number. -/
def onesOf (w x : Nat) : Nat := (digits 1 w x).foldl (· + ·) 0

/-- Position and effective width of the field that a descriptor names (R94). -/
def fieldOf (b : Word) : Nat × Nat :=
  let p := wbits b 5 0
  (p, min (min (wbits b 14 8) 64) (64 - p))

/-- The bit field of a that b describes (R94). -/
def bitField (a b : Word) : Word :=
  let f := fieldOf b
  BitVec.ofNat 64 (a.toNat / 2 ^ f.1 % 2 ^ f.2)

/-- old with the field that b describes replaced by the low bits of a (R94). -/
def bitInsert (old a b : Word) : Word :=
  let f := fieldOf b
  if f.2 = 0 then old else BitVec.ofNat 64 (setBits old.toNat (f.1 + f.2 - 1) f.1 a.toNat)

/-- The 9-bit signed immediate (03 R63). -/
def imm9 (i : BitVec 9) : Word := i.signExtend 64

/-- A predicate all of whose lanes hold one bit (R98). -/
def allLanes (b : Bool) : PWord := if b then -1 else 0

/-- A field of the step identity (R97). -/
def widField (a : Arch) (k : Nat) : Word :=
  if k = 6 then a.wid
  else if k = 7 then BitVec.ofNat 64 a.depth
  else if k < a.depth then
    BitVec.ofNat 64 (a.wid.toNat / 2 ^ (a.widths.take k).foldl (· + ·) 0 % 2 ^ a.widths.getD k 0)
  else 0

/-- ADD (R93). -/
def execAdd (n : Bool) (d : SDst) (ra rb : SSrc) (s : State) : Res :=
  let a := s.core.sx ra
  let b := s.core.sx rb
  .next (s.retS 1 n d (a + b))

/-- SUB (R93). -/
def execSub (n : Bool) (d : SDst) (ra rb : SSrc) (s : State) : Res :=
  let a := s.core.sx ra
  let b := s.core.sx rb
  .next (s.retS 1 n d (a - b))

/-- MUL (R93). -/
def execMul (n : Bool) (d : SDst) (ra rb : SSrc) (s : State) : Res :=
  let a := s.core.sx ra
  let b := s.core.sx rb
  .next (s.retS 3 n d (a * b))

/-- MULH (R93). -/
def execMulh (n : Bool) (d : SDst) (ra rb : SSrc) (s : State) : Res :=
  let a := s.core.sx ra
  let b := s.core.sx rb
  .next (s.retS 3 n d (BitVec.ofInt 64 (a.toInt * b.toInt / 2 ^ 64)))

/-- MULHU (R93). -/
def execMulhu (n : Bool) (d : SDst) (ra rb : SSrc) (s : State) : Res :=
  let a := s.core.sx ra
  let b := s.core.sx rb
  .next (s.retS 3 n d (BitVec.ofNat 64 (a.toNat * b.toNat / 2 ^ 64)))

/-- DIV (R93). -/
def execDiv (n : Bool) (d : SDst) (ra rb : SSrc) (s : State) : Res :=
  let a := s.core.sx ra
  let b := s.core.sx rb
  .next (s.retS 12 n d (divS a b))

/-- DIVU (R93). -/
def execDivu (n : Bool) (d : SDst) (ra rb : SSrc) (s : State) : Res :=
  let a := s.core.sx ra
  let b := s.core.sx rb
  .next (s.retS 12 n d (divN a b))

/-- REM (R93). -/
def execRem (n : Bool) (d : SDst) (ra rb : SSrc) (s : State) : Res :=
  let a := s.core.sx ra
  let b := s.core.sx rb
  .next (s.retS 12 n d (remS a b))

/-- REMU (R93). -/
def execRemu (n : Bool) (d : SDst) (ra rb : SSrc) (s : State) : Res :=
  let a := s.core.sx ra
  let b := s.core.sx rb
  .next (s.retS 12 n d (remN a b))

/-- AND (R93). -/
def execAnd (n : Bool) (d : SDst) (ra rb : SSrc) (s : State) : Res :=
  let a := s.core.sx ra
  let b := s.core.sx rb
  .next (s.retS 1 n d (a &&& b))

/-- OR (R93). -/
def execOr (n : Bool) (d : SDst) (ra rb : SSrc) (s : State) : Res :=
  let a := s.core.sx ra
  let b := s.core.sx rb
  .next (s.retS 1 n d (a ||| b))

/-- XOR (R93). -/
def execXor (n : Bool) (d : SDst) (ra rb : SSrc) (s : State) : Res :=
  let a := s.core.sx ra
  let b := s.core.sx rb
  .next (s.retS 1 n d (a ^^^ b))

/-- ANDN (R93). -/
def execAndn (n : Bool) (d : SDst) (ra rb : SSrc) (s : State) : Res :=
  let a := s.core.sx ra
  let b := s.core.sx rb
  .next (s.retS 1 n d (a &&& ~~~b))

/-- SHL (R93). -/
def execShl (n : Bool) (d : SDst) (ra rb : SSrc) (s : State) : Res :=
  let a := s.core.sx ra
  let b := s.core.sx rb
  .next (s.retS 1 n d (a <<< shiftOf b))

/-- SHR (R93). -/
def execShr (n : Bool) (d : SDst) (ra rb : SSrc) (s : State) : Res :=
  let a := s.core.sx ra
  let b := s.core.sx rb
  .next (s.retS 1 n d (a >>> shiftOf b))

/-- SRA (R93). -/
def execSra (n : Bool) (d : SDst) (ra rb : SSrc) (s : State) : Res :=
  let a := s.core.sx ra
  let b := s.core.sx rb
  .next (s.retS 1 n d (a.sshiftRight (shiftOf b)))

/-- ROTL (R93). -/
def execRotl (n : Bool) (d : SDst) (ra rb : SSrc) (s : State) : Res :=
  let a := s.core.sx ra
  let b := s.core.sx rb
  .next (s.retS 1 n d (a.rotateLeft (shiftOf b)))

/-- MIN (R93). -/
def execMin (n : Bool) (d : SDst) (ra rb : SSrc) (s : State) : Res :=
  let a := s.core.sx ra
  let b := s.core.sx rb
  .next (s.retS 1 n d (if a.slt b then a else b))

/-- MAX (R93). -/
def execMax (n : Bool) (d : SDst) (ra rb : SSrc) (s : State) : Res :=
  let a := s.core.sx ra
  let b := s.core.sx rb
  .next (s.retS 1 n d (if a.slt b then b else a))

/-- MINU (R93). -/
def execMinu (n : Bool) (d : SDst) (ra rb : SSrc) (s : State) : Res :=
  let a := s.core.sx ra
  let b := s.core.sx rb
  .next (s.retS 1 n d (if a.ult b then a else b))

/-- MAXU (R93). -/
def execMaxu (n : Bool) (d : SDst) (ra rb : SSrc) (s : State) : Res :=
  let a := s.core.sx ra
  let b := s.core.sx rb
  .next (s.retS 1 n d (if a.ult b then b else a))

/-- BFX (R94). -/
def execBfx (n : Bool) (d : SDst) (ra rb : SSrc) (s : State) : Res :=
  let a := s.core.sx ra
  let b := s.core.sx rb
  .next (s.retS 1 n d (bitField a b))

/-- ADDA (R93). -/
def execAdda (n : Bool) (d : SDst) (ra rb : SSrc) (s : State) : Res :=
  let a := s.core.sx ra
  let b := s.core.sx rb
  .next (s.retS 1 n d (sextW (a + b).toNat 57))

/-- CLZ (R93). -/
def execClz (n : Bool) (d : SDst) (ra : SSrc) (s : State) : Res :=
  let a := s.core.sx ra
  .next (s.retS 1 n d (BitVec.ofNat 64 (leadingZeros 64 a.toNat)))

/-- CTZ (R93). -/
def execCtz (n : Bool) (d : SDst) (ra : SSrc) (s : State) : Res :=
  let a := s.core.sx ra
  .next (s.retS 1 n d (BitVec.ofNat 64 (trailingZeros 64 a.toNat)))

/-- POPC (R93). -/
def execPopc (n : Bool) (d : SDst) (ra : SSrc) (s : State) : Res :=
  let a := s.core.sx ra
  .next (s.retS 1 n d (BitVec.ofNat 64 (onesOf 64 a.toNat)))

/-- MOV (R93). -/
def execMov (n : Bool) (d : SDst) (ra : SSrc) (s : State) : Res :=
  let a := s.core.sx ra
  .next (s.retS 1 n d (a))

/-- SEL (R93): a when b is nonzero, else the old destination. -/
def execSel (n : Bool) (d : SDst) (ra rb : SSrc) (s : State) : Res :=
  .next (s.retS 1 n d (if s.core.sx rb ≠ 0 then s.core.sx ra else s.core.xr d))

/-- EXTS (R93): the low w + 1 bits, sign-extended. -/
def execExts (n : Bool) (d : SDst) (ra : SSrc) (w : BitVec 6) (s : State) : Res :=
  .next (s.retS 1 n d (sextW (s.core.sx ra).toNat (w.toNat + 1)))

/-- EXTZ (R93): the low w + 1 bits, zero-extended. -/
def execExtz (n : Bool) (d : SDst) (ra : SSrc) (w : BitVec 6) (s : State) : Res :=
  .next (s.retS 1 n d (BitVec.ofNat 64 ((s.core.sx ra).toNat % 2 ^ (w.toNat + 1))))

/-- BFI (R94). -/
def execBfi (n : Bool) (d : SDst) (ra rb : SSrc) (s : State) : Res :=
  .next (s.retS 1 n d (bitInsert (s.core.xr d) (s.core.sx ra) (s.core.sx rb)))

/-- WIDF (R97): k of 8 to 63 is reserved and raises ILLEGAL. -/
def execWidf (n : Bool) (d : SDst) (k : BitVec 6) (s : State) : Res :=
  if k.toNat < 8 then .next (s.retS 1 n d (widField s.core.arch k.toNat)) else .next s.illegal

/-- ADDI (R95). -/
def execAddi (n : Bool) (d : SDst) (ra : SSrc) (imm : BitVec 9) (s : State) : Res :=
  let a := s.core.sx ra
  let i := imm9 imm
  .next (s.retS 1 n d (a + i))

/-- ANDI (R95). -/
def execAndi (n : Bool) (d : SDst) (ra : SSrc) (imm : BitVec 9) (s : State) : Res :=
  let a := s.core.sx ra
  let i := imm9 imm
  .next (s.retS 1 n d (a &&& i))

/-- ORI (R95). -/
def execOri (n : Bool) (d : SDst) (ra : SSrc) (imm : BitVec 9) (s : State) : Res :=
  let a := s.core.sx ra
  let i := imm9 imm
  .next (s.retS 1 n d (a ||| i))

/-- XORI (R95). -/
def execXori (n : Bool) (d : SDst) (ra : SSrc) (imm : BitVec 9) (s : State) : Res :=
  let a := s.core.sx ra
  let i := imm9 imm
  .next (s.retS 1 n d (a ^^^ i))

/-- SHLI (R95): counts outside 0 to 63 are reserved and raise ILLEGAL. -/
def execShli (n : Bool) (d : SDst) (ra : SSrc) (imm : BitVec 9) (s : State) : Res :=
  let x := s.core.sx ra
  let k := imm.toNat
  if k < 64 then .next (s.retS 1 n d (x <<< k)) else .next s.illegal

/-- SHRI (R95): counts outside 0 to 63 are reserved and raise ILLEGAL. -/
def execShri (n : Bool) (d : SDst) (ra : SSrc) (imm : BitVec 9) (s : State) : Res :=
  let x := s.core.sx ra
  let k := imm.toNat
  if k < 64 then .next (s.retS 1 n d (x >>> k)) else .next s.illegal

/-- SRAI (R95): counts outside 0 to 63 are reserved and raise ILLEGAL. -/
def execSrai (n : Bool) (d : SDst) (ra : SSrc) (imm : BitVec 9) (s : State) : Res :=
  let x := s.core.sx ra
  let k := imm.toNat
  if k < 64 then .next (s.retS 1 n d (x.sshiftRight k)) else .next s.illegal

/-- CMPI_EQ (R98): equal against the sign-extended immediate. -/
def execCmpiEq (n : Bool) (d : PReg) (ra : SSrc) (imm : BitVec 9) (s : State) : Res :=
  let x := s.core.sx ra
  let y := imm9 imm
  .next (s.retP 1 n d (allLanes (x == y)))

/-- CMPI_NE (R98): not equal against the sign-extended immediate. -/
def execCmpiNe (n : Bool) (d : PReg) (ra : SSrc) (imm : BitVec 9) (s : State) : Res :=
  let x := s.core.sx ra
  let y := imm9 imm
  .next (s.retP 1 n d (allLanes (x != y)))

/-- CMPI_LT (R98): signed less-than against the sign-extended immediate. -/
def execCmpiLt (n : Bool) (d : PReg) (ra : SSrc) (imm : BitVec 9) (s : State) : Res :=
  let x := s.core.sx ra
  let y := imm9 imm
  .next (s.retP 1 n d (allLanes (x.slt y)))

/-- CMPI_LE (R98): signed less-or-equal against the sign-extended immediate. -/
def execCmpiLe (n : Bool) (d : PReg) (ra : SSrc) (imm : BitVec 9) (s : State) : Res :=
  let x := s.core.sx ra
  let y := imm9 imm
  .next (s.retP 1 n d (allLanes (x.sle y)))

/-- CMPI_LTN (R98): unsigned less-than against the sign-extended immediate. -/
def execCmpiLtn (n : Bool) (d : PReg) (ra : SSrc) (imm : BitVec 9) (s : State) : Res :=
  let x := s.core.sx ra
  let y := imm9 imm
  .next (s.retP 1 n d (allLanes (x.ult y)))

/-- CMPI_LEN (R98): unsigned less-or-equal against the sign-extended immediate. -/
def execCmpiLen (n : Bool) (d : PReg) (ra : SSrc) (imm : BitVec 9) (s : State) : Res :=
  let x := s.core.sx ra
  let y := imm9 imm
  .next (s.retP 1 n d (allLanes (x.ule y)))

/-- LI (R96). -/
def execLi (n : Bool) (d : SDst) (imm : BitVec 15) (s : State) : Res := .next (s.retS 1 n d (imm.signExtend 64))

/-- LIH (R96): the old destination shifted left by 15, with the immediate below. -/
def execLih (n : Bool) (d : SDst) (imm : BitVec 15) (s : State) : Res :=
  .next (s.retS 1 n d (s.core.xr d <<< 15 ||| imm.setWidth 64))

/-- CMP_EQ (R98): equal. -/
def execCmpEq (n : Bool) (d : PReg) (ra rb : SSrc) (s : State) : Res :=
  let x := s.core.sx ra
  let y := s.core.sx rb
  .next (s.retP 1 n d (allLanes (x == y)))

/-- CMP_NE (R98): not equal. -/
def execCmpNe (n : Bool) (d : PReg) (ra rb : SSrc) (s : State) : Res :=
  let x := s.core.sx ra
  let y := s.core.sx rb
  .next (s.retP 1 n d (allLanes (x != y)))

/-- CMP_LT (R98): signed less-than. -/
def execCmpLt (n : Bool) (d : PReg) (ra rb : SSrc) (s : State) : Res :=
  let x := s.core.sx ra
  let y := s.core.sx rb
  .next (s.retP 1 n d (allLanes (x.slt y)))

/-- CMP_LE (R98): signed less-or-equal. -/
def execCmpLe (n : Bool) (d : PReg) (ra rb : SSrc) (s : State) : Res :=
  let x := s.core.sx ra
  let y := s.core.sx rb
  .next (s.retP 1 n d (allLanes (x.sle y)))

/-- CMP_LTN (R98): unsigned less-than. -/
def execCmpLtn (n : Bool) (d : PReg) (ra rb : SSrc) (s : State) : Res :=
  let x := s.core.sx ra
  let y := s.core.sx rb
  .next (s.retP 1 n d (allLanes (x.ult y)))

/-- CMP_LEN (R98): unsigned less-or-equal. -/
def execCmpLen (n : Bool) (d : PReg) (ra rb : SSrc) (s : State) : Res :=
  let x := s.core.sx ra
  let y := s.core.sx rb
  .next (s.retP 1 n d (allLanes (x.ule y)))

/-- PAND (R99). -/
def execPand (n : Bool) (d a b : PReg) (s : State) : Res := .next (s.retP 1 n d (s.core.px a &&& s.core.px b))

/-- POR (R99). -/
def execPor (n : Bool) (d a b : PReg) (s : State) : Res := .next (s.retP 1 n d (s.core.px a ||| s.core.px b))

/-- PXOR (R99). -/
def execPxor (n : Bool) (d a b : PReg) (s : State) : Res := .next (s.retP 1 n d (s.core.px a ^^^ s.core.px b))

/-- PNOT (R99). -/
def execPnot (n : Bool) (d a : PReg) (s : State) : Res := .next (s.retP 1 n d (~~~(s.core.px a)))

/-- PMOV (R99). -/
def execPmov (n : Bool) (d a : PReg) (s : State) : Res := .next (s.retP 1 n d (s.core.px a))

end Sys2Proof.Machine
end

