-- ==== Sys2Proof/Machine/Special.lean ====
section
/-! DEFINITION. The special functions of the F-unit (02 R55): the exact function value rounded to nearest even. RCP,
SQRT and RSQRT round an integer quotient or root with a sticky bit. The others enclose the exact value between two
dyadic numbers, of growing precision, and answer when both round alike (log 15). -/

namespace Sys2Proof.Machine

/-- The integer square root, bit by bit: the greatest r with r² ≤ n, for n below 4^(k+1), given the bits found. -/
def isqrtGo : Nat → Nat → Nat → Nat
  | 0, n, r => if (r + 1) * (r + 1) ≤ n then r + 1 else r
  | k + 1, n, r => let t := r + 2 ^ (k + 1); isqrtGo k n (if t * t ≤ n then t else r)

/-- The integer square root. -/
def isqrt (n : Nat) : Nat := isqrtGo (Nat.log2 n / 2 + 1) n 0

/-- Σ x^i / (c(i)) with c(i+1)/c(i) given as a divisor, alternating or not: t is the term, k its index, n more terms. -/
def series (alt : Bool) (div : Nat → Nat) (x2 N : Nat) : Nat → Nat → Nat → Int
  | 0, _, _ => 0
  | n + 1, k, t =>
    let t' := t * x2 / 2 ^ N / div k
    (t : Int) + (if alt then -(series alt div x2 N n (k + 1) t') else series alt div x2 N n (k + 1) t')

/-- Σ of t/(2k+1) with t shrinking by x2 each time: atanh(x)/x, or atan(x)/x when alternating. -/
def oddSeries (alt : Bool) (num den : Nat) : Nat → Nat → Nat → Int
  | 0, _, _ => 0
  | n + 1, k, t =>
    ((t / (2 * k + 1) : Nat) : Int) +
      (if alt then -(oddSeries alt num den n (k + 1) (t * num / den))
        else oddSeries alt num den n (k + 1) (t * num / den))

/-- ln 2 times 2^N. -/
def ln2 (N : Nat) : Nat := (oddSeries false 1 9 N 0 (2 ^ (N + 1) / 3)).toNat

/-- π times 2^N, by Machin's formula. -/
def piN (N : Nat) : Nat :=
  (16 * oddSeries true 1 25 N 0 (2 ^ N / 5) - 4 * oddSeries true 1 57121 N 0 (2 ^ N / 239)).toNat

/-- An enclosure: the value lies within err of a, in units of 2^e. -/
structure Approx where
  neg : Bool
  a : Nat
  err : Nat
  e : Int
  deriving DecidableEq, Repr

/-- m × 2^e in units of 2^-N, truncated. -/
def fixed (m : Nat) (e : Int) (N : Nat) : Nat :=
  if 0 ≤ e + N then m * 2 ^ (e + N).toNat else m / 2 ^ (-(e + N)).toNat

/-- 2^x for a value x that is no integer. -/
def exp2A (neg : Bool) (m : Nat) (e : Int) (N : Nat) : Approx :=
  let X := fixed m e N
  let k := X / 2 ^ N
  let fr := X % 2 ^ N
  -- x = k + fr, or −x = k + fr and x = −(k + 1) + (1 − fr)
  let f := if neg then 2 ^ N - fr else fr
  let ex : Int := if neg then -(k : Int) - 1 else k
  (Approx.mk false (series false (fun i => i + 1) (f * ln2 N / 2 ^ N) N N 0 (2 ^ N)).toNat (4 * N + 16) (ex - N))

/-- log2 of a positive value that is no power of two. -/
def log2A (m : Nat) (e : Int) (N : Nat) : Approx :=
  let L := Nat.log2 m
  let up := decide (4 * 2 ^ L < 3 * m)
  let b := if up then 2 ^ (L + 1) else 2 ^ L
  let k : Int := L + e + (if up then 1 else 0)
  let num := if up then b - m else m - b
  let den := m + b
  let S := (oddSeries false (num * num) (den * den) N 0 (2 ^ N)).toNat
  let part := 2 * num * S * 2 ^ (N + 64) / (den * ln2 N)
  let tot : Int := k * 2 ^ (N + 64) + (if up then -(part : Int) else part)
  (Approx.mk (decide (tot < 0)) tot.natAbs (part / 2 ^ (N - 12) + 2 ^ 16) (-(N : Int) - 64))

/-- sin(r)/r and cos(r) in units of 2^-N, from r² in those units. -/
def sinc (r2 N : Nat) : Nat := (series true (fun i => (2 * i + 2) * (2 * i + 3)) r2 N (N + 4) 0 (2 ^ N)).toNat
/-- cos(r) in units of 2^-N, from r². -/
def cosS (r2 N : Nat) : Nat := (series true (fun i => (2 * i + 1) * (2 * i + 2)) r2 N (N + 4) 0 (2 ^ N)).toNat

/-- sin or cos of ±m × 2^e, m > 0: reduced by π/2 with as many bits of π as the argument needs. -/
def sincosA (cos neg : Bool) (m : Nat) (e : Int) (N : Nat) : Approx :=
  let top := (Nat.log2 m + e + 1).toNat
  let P := N + top + 8
  let X := fixed m e P
  let half := piN P / 2
  let q := X / half
  if q = 0 then
    let r2 := fixed (m * m) (2 * e) N
    if cos then (Approx.mk false (cosS r2 N) (4 * N + 16) (-(N : Int)))
    else let S := sinc r2 N; (Approx.mk neg (m * S) (m * (4 * N + 16)) (e - N))
  else
    let r := (X - q * half) / 2 ^ (P - N)
    let r2 := r * r / 2 ^ N
    let j := (if cos then q + 1 else q) % 4
    let v := if j % 2 = 1 then cosS r2 N else r * sinc r2 N / 2 ^ N
    (Approx.mk (xor (decide (2 ≤ j)) (neg && !cos)) v (8 * N + 64) (-(N : Int)))

/-- tanh of ±m × 2^e, m > 0. -/
def tanhA (neg : Bool) (m : Nat) (e : Int) (N : Nat) : Approx :=
  if 16 ≤ fixed m e 0 then (Approx.mk neg (2 ^ 64 - 2) 1 (-64))
  else
    let r2 := fixed (m * m) (2 * e) N
    let sh := (series false (fun i => (2 * i + 2) * (2 * i + 3)) r2 N (N + 64) 0 (2 ^ N)).toNat
    let ch := (series false (fun i => (2 * i + 1) * (2 * i + 2)) r2 N (N + 64) 0 (2 ^ N)).toNat
    let q := sh * 2 ^ N / ch
    (Approx.mk neg (m * q) (m * (64 * N)) (e - N))

/-- erf of ±m × 2^e, m > 0. -/
def erfA (neg : Bool) (m : Nat) (e : Int) (N : Nat) : Approx :=
  if 5 ≤ fixed m e 0 then (Approx.mk neg (2 ^ 64 - 2) 1 (-64))
  else
    let M := N + 96
    let r2 := fixed (m * m) (2 * e) M
    let S := (erfGo r2 M (M + 64) 0 (2 ^ M)).toNat
    let c := 2 ^ (2 * M + 1) / isqrt (piN M * 2 ^ M)
    (Approx.mk neg (m * (S * c / 2 ^ (M + 96))) (m * 16) (e - N))
where
  /-- Σ (−1)^n x^(2n) / (n! (2n + 1)). -/
  erfGo (r2 M : Nat) : Nat → Nat → Nat → Int
    | 0, _, _ => 0
    | n + 1, k, t => ((t / (2 * k + 1) : Nat) : Int) - erfGo r2 M n (k + 1) (t * r2 / 2 ^ M / (k + 1))

/-- Rounds the ends of enclosures of growing precision until they agree. -/
def ziv (f : Fmt) (ftz : Bool) (g : Nat → Approx) : Nat → Nat → Nat × Flags
  | 0, N =>
    let x := g N
    f.round 0 ftz x.neg (4 * x.a + 1) (x.e - 2)
  | n + 1, N =>
    let x := g N
    let lo := f.round 0 ftz x.neg (4 * (x.a - x.err) - 1) (x.e - 2)
    let hi := f.round 0 ftz x.neg (4 * (x.a + x.err) + 1) (x.e - 2)
    if x.err < x.a ∧ lo = hi then lo else ziv f ftz g n (2 * N)

/-- The functions of the F-unit (R55). -/
inductive SFun where
  | exp2 | log2 | rcp | rsqrt | sqrt | sin | cos | tanh | erf
  deriving DecidableEq, Repr

/-- A dyadic quotient or root with its sticky bit, rounded to nearest. -/
def roundSticky (f : Fmt) (ftz neg : Bool) (q : Nat) (sticky : Bool) (e : Int) : Nat × Flags :=
  f.round 0 ftz neg (2 * q + (if sticky then 1 else 0)) (e - 1)

/-- The least k ≥ 0 such that e - k is even. -/
def oddPart (e : Int) : Nat := if e % 2 = 0 then 0 else 1

/-- The exact function value of a finite nonzero argument in the function's domain, rounded. -/
def SFun.fin (s : SFun) (f : Fmt) (ftz neg : Bool) (m : Nat) (e : Int) : Nat × Flags :=
  match s with
  | .rcp =>
    let K := Nat.log2 m + 80
    roundSticky f ftz neg (2 ^ K / m) (decide (2 ^ K % m ≠ 0)) (-(K : Int) - e)
  | .sqrt =>
    let o := oddPart e
    let y := m * 2 ^ (160 + o)
    let q := isqrt y
    roundSticky f ftz false q (decide (q * q ≠ y)) ((e - o) / 2 - 80)
  | .rsqrt =>
    let o := oddPart e
    let y := m * 2 ^ o
    let K := Nat.log2 y + 160
    let q := isqrt (2 ^ (2 * K) / y)
    roundSticky f ftz false q (decide (q * q * y ≠ 2 ^ (2 * K))) (-(K : Int) - (e - o) / 2)
  | .exp2 =>
    if 11 ≤ Nat.log2 m + e then f.round 0 ftz false 1 (if neg then -3000 else 3000)
    else
      let r := quantise 1 neg m e 0
      if r.2 then ziv f ftz (exp2A neg m e) 4 96 else f.round 0 ftz false 1 (if neg then -(r.1 : Int) else r.1)
  | .log2 =>
    if m = 2 ^ Nat.log2 m then
      let k : Int := Nat.log2 m + e
      f.enc 0 ftz (.fin (decide (k < 0)) k.natAbs 0)
    else ziv f ftz (log2A m e) 4 96
  | .sin => ziv f ftz (sincosA false neg m e) 4 96
  | .cos => ziv f ftz (sincosA true neg m e) 4 96
  | .tanh => ziv f ftz (tanhA neg m e) 4 96
  | .erf => ziv f ftz (erfA neg m e) 4 96

/-- A special function of one element (R55): the special inputs, then the exact value rounded. -/
def SFun.eval (s : SFun) (f : Fmt) (ftz : Bool) (x : Nat) : Nat × Flags :=
  match FVal.read f ftz x with
  | .nan sg => (f.nanEnc, if sg then fNV else 0)
  | .inf n =>
    match s with
    | .exp2 => (if n then 0 else f.infEnc, 0)
    | .log2 => if n then (f.nanEnc, fNV) else (f.infEnc, 0)
    | .rcp => (f.signed n 0, 0)
    | .rsqrt => if n then (f.nanEnc, fNV) else (0, 0)
    | .sqrt => if n then (f.nanEnc, fNV) else (f.infEnc, 0)
    | .sin | .cos => (f.nanEnc, fNV)
    | .tanh | .erf => ((f.enc 0 false (.fin n 1 0)).1, 0)
  | .fin n m e =>
    if m = 0 then
      match s with
      | .exp2 | .cos => ((f.enc 0 false (.fin false 1 0)).1, 0)
      | .log2 => (f.signed true f.infEnc, fDZ)
      | .rcp | .rsqrt => (f.signed n f.infEnc, fDZ)
      | .sqrt | .sin | .tanh | .erf => (f.signed n 0, 0)
    else if n && (s = .log2 || s = .rsqrt || s = .sqrt) then (f.nanEnc, fNV)
    else s.fin f ftz n m e

end Sys2Proof.Machine
end

