-- ==== Sys2Proof/Machine/VectorOps.lean ====
section
/-! DEFINITION. Operations that the vector families share: elements as lists, groups of registers, results of V-units and
of the F-unit (05 R113 to R120). -/

namespace Sys2Proof.Machine

/-- A vector result of a V-unit: registers with their values, and the flags; the latch takes the first (05 R117). -/
def State.retV (s : State) (lat : Nat) (n : Bool) (ds : List (VDst × VWord)) (fl : Flags) : State :=
  s.upd fun c => c.result lat (dstOf n (.v ds)) (some (c.vLatch, ((ds.map (·.2)).head?).getD 0)) fl

/-- A predicate result of a V-unit; the latch holds its 1024 bits (05 R117). -/
def State.retVP (s : State) (lat : Nat) (n : Bool) (d : Fin 16) (v : PWord) (fl : Flags) : State :=
  s.upd fun c => c.result lat (dstOf n (.p d v)) (some (c.vLatch, v.setWidth 4096)) fl

/-- A result of the F-unit, into B5 (03 R69). -/
def State.retF (s : State) (lat : Nat) (n : Bool) (d : VDst) (v : VWord) (fl : Flags) : State :=
  s.upd fun c => c.result lat (dstOf n (.v [(d, v)])) (some (5, v)) fl

/-- ILLEGAL for a form that the instruction does not accept (03 R60, R77); the decoder refuses such a slot before its
bundle issues. -/
def State.whenOk (s : State) (ok : Bool) (t : State) : Res := .next (if ok then t else s.illegal)

/-- The rounding control at issue (07 R160). -/
def State.fctl (s : State) : FCtl := FCtl.ofWord s.core.arch.fpctl

/-- Sums of consecutive runs of k numbers. -/
def chunkSums (k : Nat) : Nat → List Int → List Int
  | 0, _ => []
  | n + 1, l => (l.take k).foldl (· + ·) 0 :: chunkSums k n (l.drop k)

/-- The elements of a group from those of its registers: element i stands in register i mod k (05 R115). -/
def interleave {α : Type} : Nat → List (List α) → List α
  | 0, _ => []
  | n + 1, ls => ls.filterMap List.head? ++ interleave n (ls.map List.tail)

/-- Every k-th entry of a list, from the first on. -/
def pick {α : Type} (k : Nat) : Nat → List α → List α
  | 0, _ => []
  | _, [] => []
  | n + 1, x :: xs => x :: pick k n ((x :: xs).drop k)

/-- The first m elements of the group of k registers at a, of width w (05 R115). -/
def Core.groupElems (c : Core) (a : VSrc) (k w m : Nat) : List Nat :=
  (interleave (4096 / w) ((List.range k).map fun j => elems w (c.vx (VSrc.nth a j)))).take m

/-- The registers of the group of k at d that hold interleaved elements of width w (05 R115). -/
def groupOf (d : VDst) (k w : Nat) (l : List Nat) : List (VDst × VWord) :=
  (List.range k).map fun j => (VDst.nth d j, ofElems w (pick k (4096 / w) (l.drop j)))

/-- The elements of a source as integers (05 R121). -/
def Core.ivals (c : Core) (t : ITy) (a : VSrc) : List Int := (elems t.width (c.vx a)).map t.val

/-- An element-by-element result of exact integers, low bits kept (02 R33). -/
def ofInts (w : Nat) (l : List Int) : VWord := ofElems w (l.map (lowBits w))

/-- The predicate bits of the elements of width w (05 R118). -/
def Core.sel (c : Core) (p : PReg) (w : Nat) : List Bool := pbits (c.px p) (4096 / w)

/-- Lane 0 of a register read as n32 (05 R114). -/
def Core.lane0 (c : Core) (b : VSrc) : Nat := (c.vx b).toNat % 2 ^ 32

end Sys2Proof.Machine
end

