-- ==== Sys2Proof/Machine/Scratch.lean ====
section
/-! DEFINITION. The scratchpad: loaves, shelf life, core accesses with forwarding, the effects of committed entries, and
the access and management instructions (09 R194 to R215). -/

namespace Sys2Proof.Machine

/-- The loaves of a scratchpad (09 R194). -/
def loafCount : Nat := 768

/-- The greatest life of a loaf (09 R194, R213). -/
def maxLife : Nat := 200000

/-- The record of a physical loaf; one never granted has life 200,000 and expiry 0 (09 R194). -/
def Scratch.loafAt (p : Scratch) (f : Nat) : Loaf := (Tab.get p.loaf f).getD (Loaf.mk maxLife 0)

/-- The footprint of the resident step: 0 where none runs (09 R196). -/
def Core.footprint (c : Core) : Nat := (c.seat.map (·.footprint)).getD 0

/-- The physical loaf of a step loaf, when the resident step holds it (09 R195, R196). -/
def Core.heldLoaf (c : Core) (l : Nat) : Option Nat :=
  if l < c.footprint then
    match Tab.get c.sp.map l with
    | some f => if Tab.get c.sp.holder f = some .step then some f else none
    | none => none
  else none

/-- Whether a physical loaf is live at a tick (09 R197). -/
def Scratch.live (p : Scratch) (f tick : Nat) : Bool := decide (tick ≤ (p.loafAt f).expiry)

/-- Committed state of a step loaf: held, live (09 R196, R197). -/
def Core.loafState (c : Core) (tick l : Nat) : Bool × Bool :=
  match c.heldLoaf l with
  | some f => (true, c.sp.live f tick)
  | none => (false, false)

/-- A life as recorded (R213): 0 and values above 200,000 are taken as 200,000. -/
def lifeOf (v : Word) : Nat := if v = 0 ∨ maxLife < v.toNat then maxLife else v.toNat

/-- The state of a loaf at a tick as an entry of the core leaves it (09 R202): a committed SPALLOC has its expiry from its
commit on (R213), and the stores of a committed segment that cover a loaf make it live. -/
def Entry.onLoaf (e : Entry) (committed : Bool) (tick l : Nat) (x : Bool × Bool) : Bool × Bool :=
  match e.kind with
  | .spMgmt op f n v =>
    if f ≤ l ∧ l < f + n then
      match op with
      | .alloc => (true, !committed || decide (tick ≤ e.tick + lifeOf v))
      | .free => (false, false)
      | .fill => (x.1, x.1)
      | .renew => x
    else x
  | .covered ls => if ls.contains l then (x.1, x.1) else x
  | _ => x

/-- The entries of the kernel on a core that have not been performed: committed ones, then the segment's (08 R174;
12 R270). -/
def Core.unperformed (c : Core) : List Entry :=
  (c.drain.filter fun e => e.ctx == c.self.1 && e.lcore == c.self.2) ++ c.cbuf

/-- The state of a loaf that a core access sees (09 R202). -/
def Core.loafView (c : Core) (tick l : Nat) : Bool × Bool :=
  c.cbuf.foldl (fun x e => e.onLoaf false tick l x)
    ((c.drain.filter fun e => e.ctx == c.self.1 && e.lcore == c.self.2).foldl (fun x e => e.onLoaf true tick l x)
      (c.loafState tick l))

/-- The bytes of a list placed over others from an offset on. -/
def overlay (off : Nat) (under : List (Option Byte)) (o : Nat) (bs : List Byte) : List (Option Byte) :=
  (under.zip (List.range under.length)).map fun x =>
    let a := off + x.2
    if o ≤ a ∧ a < o + bs.length then some (bs.getD (a - o) 0) else x.1

/-- What an unperformed entry puts over a scratchpad range (08 R174, 09 R202): stores, zeros of SPALLOC, patterns of
SPFILL. -/
def EKind.overSp (k : EKind) (off : Nat) (under : List (Option Byte)) : List (Option Byte) :=
  match k with
  | .spStore cs => cs.foldl (fun o c => overlay off o c.va c.bytes) under
  | .spMgmt op f n v =>
    match op with
    | .alloc | .fill =>
      (under.zip (List.range under.length)).map fun x =>
        let a := off + x.2
        if f ≤ a / 4096 ∧ a / 4096 < f + n then
          some (if op = .alloc then 0 else BitVec.ofNat 8 (v.toNat / 2 ^ (8 * (a % 8))))
        else x.1
    | _ => under
  | _ => under

/-- The forwarded bytes of a scratchpad range. -/
def Core.spForward (c : Core) (off n : Nat) : List (Option Byte) :=
  c.unperformed.foldl (fun o e => e.kind.overSp off o) (List.replicate n none)

/-- The physical byte of a scratchpad offset, for a held loaf. -/
def Core.spPhys (c : Core) (a : Nat) : Nat := ((c.heldLoaf (a / 4096)).getD 0) * 4096 + a % 4096

/-- The committed bytes of a scratchpad range. -/
def Core.spCells (c : Core) (off n : Nat) : List Byte :=
  let k := min n (4096 - off % 4096)
  c.sp.cells.bytes (c.spPhys off) k ++ (if k < n then c.sp.cells.bytes (c.spPhys (off + k)) (n - k) else [])

/-- The bytes that a core load of a range returns (08 R174). -/
def Core.spLoad (c : Core) (off n : Nat) : List Byte :=
  List.zipWith (fun (o : Option Byte) b => o.getD b) (c.spForward off n) (c.spCells off n)

/-- Whether a committed entry leaves the bank word of an offset without poison: it writes all of it (09 R215). -/
def EKind.cleans (k : EKind) (a : Nat) : Bool :=
  match k with
  | .spStore _ => (wholeUnits 64 k.spRanges).contains (a / 64)
  | .spMgmt op f n _ => (op == .alloc || op == .fill) && decide (f ≤ a / 4096) && decide (a / 4096 < f + n)
  | .covered ls => ls.contains (a / 4096)
  | _ => false

/-- Whether a core load of a range uses a poisoned bank word (09 R215): one that the core's committed entries leave poisoned,
for they are written before it is read (R209), under no byte that the segment forwards. -/
def Core.spPoisoned (c : Core) (off n : Nat) : Bool :=
  if c.sp.poison = [] then false
  else
    let own := c.drain.filter fun e => e.ctx == c.self.1 && e.lcore == c.self.2
    ((c.cbuf.foldl (fun o e => e.kind.overSp off o) (List.replicate n none)).zip (List.range n)).any fun x =>
      x.1.isNone && NSet.has c.sp.poison (c.spPhys (off + x.2) / 64) && !(own.any fun e => e.kind.cleans (off + x.2))

/-- The lowest offset of a range in a loaf that fails a test. -/
def firstBad (off n : Nat) (bad : Nat → Bool) : Option Nat :=
  let ls := (List.range ((off + n - 1) / 4096 - off / 4096 + 1)).map (· + off / 4096)
  (ls.find? bad).map fun l => max off (l * 4096)

/-- The checks of one scratchpad access (09 R210): alignment, holding, life; the fault code and trap.info. -/
def spFault (s : State) (off n align : Nat) (load : Bool) : Option (Nat × Nat) :=
  if off % align ≠ 0 then some (tALIGN, off)
  else
    match firstBad off n fun l => !(s.core.loafView s.tick l).1 with
    | some a => some (tSPBOUND, a)
    | none =>
      if load then
        match firstBad off n fun l => !(s.core.loafView s.tick l).2 with
        | some a => some (tSTALE, a)
        | none => none
      else none

/-- An address X(b) + off × granule over 64 bits (09 R210, 11 R253). -/
def Core.address (c : Core) (b : SSrc) (off granule : Nat) : Nat := ((c.sx b).toNat + off * granule) % 2 ^ 64

/-- The 64 offsets of a gather or scatter: X(b) + lane j of the index register (09 R212, 11 R253). -/
def Core.laneAddrs (c : Core) (b : SSrc) (i : VSrc) : List Nat :=
  (digits 32 64 (c.vx i).toNat).map fun o => ((c.sx b).toNat + o) % 2 ^ 64

/-- A core load of one range, or its fault (09 R210, R215). Of an access whose words are poisoned in part, the consumption
names the start: the model's choice (log 130). -/
def spRead (s : State) (off n align : Nat) (k : List Byte → State) : State :=
  match spFault s off n align true with
  | some f => s.trap f.1 0 f.2
  | none => if s.core.spPoisoned off n then s.consume 5 off off else k (s.core.spLoad off n)

/-- LDS (R211). -/
def execLds (n : Bool) (_t : ITy) (g : VDst) (b : SSrc) (off : BitVec 6) (s : State) : Res :=
  .next (spRead s (s.core.address b off.toNat 64) 512 64 fun bs => s.retMv 6 n g (BitVec.ofNat 4096 (ofBytes bs)))

/-- STS (R211). -/
def execSts (_t : ITy) (g : VSrc) (b : SSrc) (off : BitVec 6) (s : State) : Res :=
  let a := s.core.address b off.toNat 64
  .next (match spFault s a 512 64 false with
    | some f => s.trap f.1 0 f.2
    | none => s.withhold (.spStore [(Chunk.mk a 0 (toBytes 512 (s.core.vx g).toNat))]))

/-- LDSS (R211): size code 7 is reserved. -/
def execLdss (n : Bool) (z : BitVec 3) (g : SDst) (b : SSrc) (off : BitVec 6) (s : State) : Res :=
  let k := sizeBytes z.toNat
  s.whenOk (z != 7) (spRead s (s.core.address b off.toNat k) k k fun bs => s.retMx 4 n g (loadExt z.toNat (ofBytes bs)))

/-- STSS (R211). -/
def execStss (z : BitVec 3) (g : SSrc) (b : SSrc) (off : BitVec 6) (s : State) : Res :=
  let k := sizeBytes z.toNat
  let a := s.core.address b off.toNat k
  s.whenOk (z != 7) (match spFault s a k k false with
    | some f => s.trap f.1 0 f.2
    | none => s.withhold (.spStore [(Chunk.mk a 0 (toBytes k (s.core.sx g).toNat))]))

/-- The first failing lane of a gather or scatter (R212), in ascending order. -/
def spLaneFault (s : State) (os : List Nat) (k : Nat) (load : Bool) : Option (Nat × Nat) :=
  os.findSome? fun o => spFault s o k k load

/-- LDSG (R212): 64 elements; 4-bit widths are ILLEGAL. -/
def execLdsg (n : Bool) (t : ITy) (g : VDst) (b : SSrc) (i : VSrc) (s : State) : Res :=
  let k := t.width / 8
  let os := s.core.laneAddrs b i
  s.whenOk (decide (t.width ≠ 4))
    (match spLaneFault s os k true with
      | some f => s.trap f.1 0 f.2
      | none =>
        match os.find? fun o => s.core.spPoisoned o k with
        | some o => s.consume 5 o o
        | none => s.retMv 6 n g (ofElems t.width (os.map fun o => ofBytes (s.core.spLoad o k))))

/-- STSX (R212): one entry; a later lane wins. -/
def execStsx (t : ITy) (g : VSrc) (b : SSrc) (i : VSrc) (s : State) : Res :=
  let k := t.width / 8
  let os := s.core.laneAddrs b i
  s.whenOk (decide (t.width ≠ 4))
    (match spLaneFault s os k false with
      | some f => s.trap f.1 0 f.2
      | none => s.withhold (.spStore (List.zipWith (fun o v => (Chunk.mk o 0 (toBytes k v))) os
          (elems t.width (s.core.vx g)))))

/-- The loaf range of a management instruction (R213): first and count. -/
def loafRange (v : Word) : Nat × Nat := (wbits v 9 0, wbits v 25 16)

/-- The first loaf of a range that fails a test. -/
def badLoaf (r : Nat × Nat) (bad : Nat → Bool) : Option Nat := ((List.range r.2).map (· + r.1)).find? bad

/-- A management instruction (R213): the footprint, then where asked holding and life; then one entry. -/
def manage (s : State) (op : SpOp) (r : Nat × Nat) (v : Word) (held live : Bool) : State :=
  if s.core.footprint < r.1 + r.2 then s.trap tSPBOUND 0 (4096 * max r.1 s.core.footprint)
  else
    match if held then badLoaf r fun l => !(s.core.loafView s.tick l).1 else none with
    | some l => s.trap tSPBOUND 0 (4096 * l)
    | none =>
      match if live then badLoaf r fun l => !(s.core.loafView s.tick l).2 else none with
      | some l => s.trap tSTALE 0 (4096 * l)
      | none => s.withhold (.spMgmt op r.1 r.2 v)

/-- SPALLOC (R213). -/
def execSpalloc (a b : SSrc) (s : State) : Res :=
  .next (manage s .alloc (loafRange (s.core.sx a)) (BitVec.ofNat 64 (lifeOf (s.core.sx b))) false false)

/-- SPFREE (R213). -/
def execSpfree (a : SSrc) (s : State) : Res := .next (manage s .free (loafRange (s.core.sx a)) 0 false false)

/-- RENEW (R213). -/
def execRenew (a b : SSrc) (s : State) : Res :=
  .next (manage s .renew (loafRange (s.core.sx a)) (BitVec.ofNat 64 (lifeOf (s.core.sx b))) true true)

/-- SPFILL (R213). -/
def execSpfill (a b : SSrc) (s : State) : Res :=
  .next (manage s .fill (loafRange (s.core.sx a)) (s.core.sx b) true false)

/-! ## The effects of committed entries and of engines -/

/-- Writes bytes at a physical scratchpad address; whole bank words lose their poison (09 R215). -/
def Scratch.writePhys (p : Scratch) (a : Nat) (bs : List Byte) : Scratch :=
  { p with
    cells := p.cells.write a bs
    poison := if p.poison = [] then [] else
      p.poison.filter fun w => !(decide (a ≤ w * 64) && decide (w * 64 + 64 ≤ a + bs.length)) }

/-- Writes bytes at a step offset into the loaves that the resident step holds; bytes elsewhere are discarded. -/
def Core.spStore (c : Core) (off : Nat) (bs : List Byte) : Core :=
  let put := fun (c : Core) (o : Nat) (b : List Byte) =>
    match c.heldLoaf (o / 4096) with
    | some f => { c with sp := c.sp.writePhys (f * 4096 + o % 4096) b }
    | none => c
  let k := min bs.length (4096 - off % 4096)
  let c := put c off (bs.take k)
  if k < bs.length then put c (off + k) (bs.drop k) else c

/-- Sets the expiry of a held loaf to now plus its recorded life (09 R198). -/
def Core.renewLoaf (c : Core) (tick l : Nat) : Core :=
  match c.heldLoaf l with
  | none => c
  | some f =>
    let r := c.sp.loafAt f
    { c with sp := { c.sp with loaf := Tab.put c.sp.loaf f { r with expiry := tick + r.life } } }

/-- Clears the poison of a physical loaf. -/
def Scratch.cleanLoaf (p : Scratch) (f : Nat) : Scratch := { p with poison := NSet.delRange p.poison (f * 64) 64 }

/-- The commit effect of a management entry on one loaf (09 R213). -/
def Core.manageLoaf (c : Core) (tick commit : Nat) (op : SpOp) (v : Word) (l : Nat) : Core :=
  match op with
  | .alloc =>
    match Tab.get c.sp.map l with
    | none => c
    | some f =>
      { c with sp := { (c.sp.cleanLoaf f) with
          cells := c.sp.cells.clear (f * 4096) 4096
          holder := Tab.put c.sp.holder f .step
          loaf := Tab.put c.sp.loaf f (Loaf.mk v.toNat (commit + v.toNat)) } }
  | .free =>
    match c.heldLoaf l with
    | none => c
    | some f => { c with sp := { c.sp with
        holder := Tab.del c.sp.holder f, cells := c.sp.cells.clear (f * 4096) 4096 } }
  | .renew =>
    match c.heldLoaf l with
    | none => c
    | some f =>
      if c.sp.live f tick then { c with sp := { c.sp with loaf := Tab.put c.sp.loaf f (Loaf.mk v.toNat (tick + v.toNat)) } }
      else c
  | .fill =>
    match c.heldLoaf l with
    | none => c
    | some f =>
      ({ c with sp := (c.sp.cleanLoaf f).writePhys (f * 4096) (toBytes 4096 (undigits 64 (List.replicate 512 v.toNat))) }
        ).renewLoaf tick l

/-- The commit effect of a management entry, loaf by loaf in ascending order (09 R213). -/
def Core.manageRange (c : Core) (tick commit : Nat) (op : SpOp) (f n : Nat) (v : Word) : Core :=
  ((List.range n).map (· + f)).foldl (fun c l => c.manageLoaf tick commit op v l) c

/-- A core with the loaves that its kernel's committed entries have granted and freed, performed or not: SPALLOC and
SPFREE act at commit (R213). -/
def Core.committedLoaves (c : Core) : Core :=
  (c.drain.filter fun e => e.ctx == c.self.1 && e.lcore == c.self.2).foldl
    (fun c e =>
      match e.kind with
      | .spMgmt op f n v => if op = .alloc ∨ op = .free then c.manageRange e.tick e.tick op f n v else c
      | _ => c) c

/-- What SPLIFE reads of a loaf (R214), from committed state. -/
def splifeWord (c : Core) (tick l : Nat) : Word :=
  let c := c.committedLoaves
  match c.heldLoaf l with
  | none => 0
  | some f =>
    let r := c.sp.loafAt f
    let live := c.sp.live f tick
    BitVec.ofNat 64 ((if live then 1 else 2) * 2 ^ 62 + r.life * 2 ^ 32 + if live then r.expiry - tick else 0)

/-- SPLIFE (R214). -/
def execSplife (n : Bool) (d : SDst) (a : SSrc) (s : State) : Res :=
  .next (s.retMx 4 n d (splifeWord s.core s.tick ((s.core.sx a).toNat / 4096)))

/-- What an engine reads of a core's scratchpad (09 R196, R201, R215): the failure's detail, 0 not held and 3 expired or
poisoned, or the bytes. -/
def Core.engineLoad (c : Core) (tick off n : Nat) : Except Nat (List Byte) :=
  match firstBad off n fun l => !(c.loafState tick l).1 with
  | some _ => .error 0
  | none =>
    match firstBad off n fun l => !(c.loafState tick l).2 with
    | some _ => .error 3
    | none =>
      if (List.range n).any fun i => NSet.has c.sp.poison (c.spPhys (off + i) / 64) then .error 3
      else .ok (c.spCells off n)

/-- Marks the bank words of a range of the held loaves poisoned (13 R303). -/
def Core.spMark (c : Core) (off n : Nat) : Core :=
  (List.range n).foldl
    (fun c i =>
      match c.heldLoaf ((off + i) / 4096) with
      | some _ => { c with sp := { c.sp with poison := NSet.add c.sp.poison (c.spPhys (off + i) / 64) } }
      | none => c) c

/-- An engine write (09 R196, R199): whether the whole range is held, and the core after the held part is written. -/
def Core.engineStore (c : Core) (off : Nat) (bs : List Byte) : Bool × Core :=
  (((firstBad off bs.length fun l => (c.heldLoaf l).isNone)).isNone, c.spStore off bs)

end Sys2Proof.Machine
end

