-- ==== Sys2Proof/Machine/Global.lean ====
section
/-! DEFINITION. Global memory as a core reaches it: checks at issue, forwarding, the L1 data cache, and the load, store,
future, atomic, prefetch and fence instructions (11 R242 to R264). -/

namespace Sys2Proof.Machine

/-- The code of a scope (03 R66). -/
def scopeCode : Scope → Nat
  | .core => 0 | .gang => 1 | .cluster => 2 | .chip => 3
  | .peer => 4 | .system => 5 | .tenant => 6 | .image => 7

/-- A range cut at 4 KiB boundaries: address and length of each part, addresses over 64 bits. -/
def pageParts (va n : Nat) : List (Nat × Nat) :=
  let k := min n (4096 - va % 4096)
  if k < n then [(va, k), ((va + k) % 2 ^ 64, n - k)] else [(va, k)]

/-- A fault at issue (11 R254): its code, detail and address. -/
structure IssueFault where
  code : Nat
  detail : Nat
  va : Nat
  deriving DecidableEq, Repr

/-- The fault of a failed translation. -/
def TFail.fault (f : TFail) (acc va : Nat) : IssueFault :=
  match f with
  | .absent => (IssueFault.mk tXLATE 0 va)
  | .host => (IssueFault.mk tXLATE 1 va)
  | .rights => (IssueFault.mk tACCESS acc va)

/-- Translation, rights and node of each part of an access, in ascending order (11 R254). -/
def resolveParts (w : Want) (sc : Option Nat) (u : NodeUse) (acc : Nat) :
    List (Nat × Nat) → State → Except IssueFault (List (Nat × Nat × Nat)) × State
  | [], s => (.ok [], s)
  | p :: ps, s =>
    match s.core.seat with
    | none => (.error (IssueFault.mk tXLATE 0 p.1), s)
    | some z =>
      match translate s s.core.pcore z.ctx p.1 w s.core.level sc with
      | (.error f, s) => (.error (f.fault acc p.1), s)
      | (.ok pa, s) =>
        if !(nodeOk s pa p.2 u) then (.error (IssueFault.mk tACCESS acc p.1), s)
        else
          match resolveParts w sc u acc ps s with
          | (.ok l, s) => (.ok ((p.1, pa, p.2) :: l), s)
          | (.error e, s) => (.error e, s)

/-- The checks of one access at issue (11 R254): alignment first. -/
def resolve (s : State) (va n align : Nat) (w : Want) (sc : Option Nat) (u : NodeUse) (acc : Nat) :
    Except IssueFault (List (Nat × Nat × Nat)) × State :=
  if va % align ≠ 0 then (.error (IssueFault.mk tALIGN 0 va), s) else resolveParts w sc u acc (pageParts va n) s

/-- The checks of the lanes of a gather or scatter, each lane in turn (11 R254). -/
def resolveLanes (n : Nat) (w : Want) (acc : Nat) :
    List Nat → State → Except IssueFault (List (Nat × Nat × Nat)) × State
  | [], s => (.ok [], s)
  | a :: as, s =>
    match resolve s a n n w none .vector acc with
    | (.error e, s) => (.error e, s)
    | (.ok l, s) =>
      match resolveLanes n w acc as s with
      | (.ok m, s) => (.ok (l ++ m), s)
      | (.error e, s) => (.error e, s)

/-- Raises a fault of issue. -/
def State.raise (s : State) (f : IssueFault) : State := s.trap f.code f.detail f.va

/-- Continues with a resolved access or raises its fault. -/
def andThen (r : Except IssueFault (List (Nat × Nat × Nat)) × State) (k : List (Nat × Nat × Nat) → State → State) :
    State :=
  match r with
  | (.error f, s) => s.raise f
  | (.ok l, s) => k l s

/-- The new value of an atomic on n bytes (11 R260). -/
def AOp.apply (op : AOp) (n : Nat) (cmp operand old : Nat) : Nat :=
  let w := 8 * n
  let v := operand % 2 ^ w
  let lt := decide (sval old w < sval v w)
  match op with
  | .add => (old + v) % 2 ^ w
  | .and => old &&& v
  | .or => old ||| v
  | .xor => old ^^^ v
  | .min => if lt then old else v
  | .max => if lt then v else old
  | .minu => if old < v then old else v
  | .maxu => if old < v then v else old
  | .swap => v
  | .cas => if old = cmp % 2 ^ w then v else old

/-- The bytes of a list without those of a range. -/
def uncover (off : Nat) (under : List (Option Byte)) (o n : Nat) : List (Option Byte) :=
  (under.zip (List.range under.length)).map fun x => if o ≤ off + x.2 ∧ off + x.2 < o + n then none else x.1

/-- What an unperformed entry puts over a physical range (08 R174): the bytes of stores and future stores. An atomic takes
them away, since its value stands in memory once it is performed. -/
def EKind.overMem (k : EKind) (pa : Nat) (under : List (Option Byte)) : List (Option Byte) :=
  match k with
  | .gStore cs _ => cs.foldl (fun o c => overlay pa o c.pa c.bytes) under
  | .stf _ a v _ => overlay pa under a (toBytes 8 v.toNat)
  | .atom _ _ a n _ _ _ _ _ _ => uncover pa under a n
  | _ => under

/-- What a withheld entry puts over a range at whole words (08 R174, 12 R270): an atomic the value that it leaves of the
bytes beneath it (log 91). -/
def State.overWithheld (s : State) (k : EKind) (pa : Nat) (under : List (Option Byte)) : List (Option Byte) :=
  match k with
  | .atom op _ a n cmp x _ _ _ _ =>
    if pa ≤ a ∧ a + n ≤ pa + under.length then
      let old := ofBytes (List.zipWith (fun (o : Option Byte) b => o.getD b) ((under.drop (a - pa)).take n) (s.pbytes a n))
      overlay pa under a (toBytes n (op.apply n cmp.toNat x.toNat old))
    else under
  | k => k.overMem pa under

/-- The committed entries of the kernel on the current core that are not performed. -/
def Core.committed (c : Core) : List Entry := c.drain.filter fun e => e.ctx == c.self.1 && e.lcore == c.self.2

/-- The bytes of a physical range that the core's own unperformed writes hold (08 R174, 12 R270): of a device register only
those of withheld stores, for its committed ones are performed first (11 R242). -/
def State.forward (s : State) (pa n : Nat) : List (Option Byte) :=
  let lo := pa / 8 * 8
  let done := if nodeOf pa = 3 then [] else s.core.committed
  let o := done.foldl (fun o e => e.kind.overMem lo o) (List.replicate ((pa + n + 7) / 8 * 8 - lo) none)
  ((s.core.cbuf.foldl (fun o e => s.overWithheld e.kind lo o) o).drop (pa - lo)).take n

/-- The pieces of a load, with what is forwarded to each. -/
def State.pieces (s : State) (l : List (Nat × Nat × Nat)) : List Piece :=
  l.map fun x => (Piece.mk x.1 x.2.1 (s.forward x.2.1 x.2.2) false)

/-- Whether an acquire at a scope empties the L1 data cache (11 R244). -/
def empties (sc : Scope) : Bool := sc != .core

/-- Empties the L1 data cache of the current core (11 R244). -/
def State.emptyL1 (s : State) : State := s.upd fun c => { c with port := { c.port with l1d := [] } }

/-- A load: its checks, then a pending register (11 R253 to R255). -/
def globalLoad (s : State) (dst : PDst) (va n align : Nat) (u : NodeUse) (sx w : Nat) (acq : Option Scope) : State :=
  andThen (resolve s va n align .read (acq.map scopeCode) u 0) fun l s =>
    s.addPend dst (.load (s.pieces l) sx w acq (!((acq.map empties).getD false))) s.core.mLatch acq.isSome

/-- A store: its checks, then an entry (11 R253 to R255). -/
def globalStore (s : State) (va align : Nat) (bs : List Byte) (u : NodeUse) (rel : Option Scope) : State :=
  andThen (resolve s va bs.length align .write (rel.map scopeCode) u 1) fun l s =>
    let cs := l.foldl (fun (a : List Chunk × List Byte) x =>
      (a.1 ++ [(Chunk.mk x.1 x.2.1 (a.2.take x.2.2))], a.2.drop x.2.2)) ([], bs)
    s.withhold (.gStore cs.1 rel)

/-- LD (R253): size code 7 is reserved. -/
def execLd (n : Bool) (z : BitVec 3) (g : SDst) (b : SSrc) (off : BitVec 4) (s : State) : Res :=
  let k := sizeBytes z.toNat
  s.whenOk (z != 7) (globalLoad s (pendX n g) (s.core.address b off.toNat k) k k .scalar z.toNat 0 none)

/-- LD_ACQ (R255). -/
def execLdAcq (n : Bool) (z : BitVec 3) (g : SDst) (b : SSrc) (sc : Scope) (s : State) : Res :=
  let k := sizeBytes z.toNat
  s.whenOk (z != 7) (globalLoad s (pendX n g) (s.core.address b 0 k) k k .scalar z.toNat 0 (some sc))

/-- ST (R253). -/
def execSt (z : BitVec 3) (g : SSrc) (b : SSrc) (off : BitVec 4) (s : State) : Res :=
  let k := sizeBytes z.toNat
  s.whenOk (z != 7)
    (globalStore s (s.core.address b off.toNat k) k (toBytes k (s.core.sx g).toNat) .scalar none)

/-- ST_REL (R255). -/
def execStRel (z : BitVec 3) (g : SSrc) (b : SSrc) (sc : Scope) (s : State) : Res :=
  let k := sizeBytes z.toNat
  s.whenOk (z != 7) (globalStore s (s.core.address b 0 k) k (toBytes k (s.core.sx g).toNat) .scalar (some sc))

/-- VLD (R253). -/
def execVld (n : Bool) (_t : ITy) (g : VDst) (b : SSrc) (off : BitVec 4) (s : State) : Res :=
  .next (globalLoad s (pendV n g) (s.core.address b off.toNat 64) 512 64 .vector 3 0 none)

/-- VLD_ACQ (R255). -/
def execVldAcq (n : Bool) (_t : ITy) (g : VDst) (b : SSrc) (sc : Scope) (s : State) : Res :=
  .next (globalLoad s (pendV n g) (s.core.address b 0 64) 512 64 .vector 3 0 (some sc))

/-- VST (R253). -/
def execVst (_t : ITy) (g : VSrc) (b : SSrc) (off : BitVec 4) (s : State) : Res :=
  .next (globalStore s (s.core.address b off.toNat 64) 64 (toBytes 512 (s.core.vx g).toNat) .vector none)

/-- VST_REL (R255). -/
def execVstRel (_t : ITy) (g : VSrc) (b : SSrc) (sc : Scope) (s : State) : Res :=
  .next (globalStore s (s.core.address b 0 64) 64 (toBytes 512 (s.core.vx g).toNat) .vector (some sc))

/-- VLDG (R253): 64 elements; 4-bit widths are ILLEGAL. -/
def execVldg (n : Bool) (t : ITy) (g : VDst) (b : SSrc) (i : VSrc) (s : State) : Res :=
  let k := t.width / 8
  s.whenOk (decide (t.width ≠ 4))
    (andThen (resolveLanes k .read 0 (s.core.laneAddrs b i) s) fun l s =>
      s.addPend (pendV n g) (.load (s.pieces l) 3 t.width none true) s.core.mLatch false)

/-- VSTX (R253): one entry; a later lane wins. -/
def execVstx (t : ITy) (g : VSrc) (b : SSrc) (i : VSrc) (s : State) : Res :=
  let k := t.width / 8
  s.whenOk (decide (t.width ≠ 4))
    (andThen (resolveLanes k .write 1 (s.core.laneAddrs b i) s) fun l s =>
      s.withhold (.gStore (List.zipWith (fun x v => (Chunk.mk x.1 x.2.1 (toBytes k v))) l
        (elems t.width (s.core.vx g))) none))

/-- SHCP_MEM (06 R151): a 128-byte load into a shadow; an address that is no multiple of 64 raises SHAPE code 15. -/
def execShcpMem (sd : Fin 8) (a : SSrc) (s : State) : Res :=
  let va := (s.core.sx a).toNat
  if va % 64 ≠ 0 then .next (s.trap tSHAPE 15 0)
  else .next (globalLoad s (.sd sd) va 128 64 .vector 3 0 none)

/-- What an unperformed committed entry leaves of a word for an LDF (12 R270, R275): an STF its value, any other write
nothing, since the word must be read at its home slice afterwards. -/
def EKind.overFuture (k : EKind) (pa : Nat) (under : List (Option Byte)) : List (Option Byte) :=
  match k with
  | .stf _ a v _ => overlay pa under a (toBytes 8 v.toNat)
  | .gStore cs _ => cs.foldl (fun o c => uncover pa o c.pa c.bytes.length) under
  | .atom _ _ a n _ _ _ _ _ _ => uncover pa under a n
  | _ => under

/-- The bytes of a word that an LDF takes from the core's own unperformed writes (11 R257): those of its segment's youngest
STF, or of committed ones; no other write gives an LDF its value (12 R275). -/
def State.futureBytes (s : State) (pa : Nat) : List (Option Byte) :=
  s.core.cbuf.foldl
    (fun o e => match e.kind with
      | .stf _ a v _ => overlay pa o a (toBytes 8 v.toNat)
      | _ => o)
    (s.core.committed.foldl (fun o e => e.kind.overFuture pa o) (List.replicate 8 none))

/-- LDF and LDF_ACQ (R257). -/
def loadFuture (s : State) (n : Bool) (g : SDst) (b : SSrc) (acq : Option Scope) : State :=
  let va := (s.core.sx b).toNat
  andThen (resolve s va 8 8 .atomic (acq.map scopeCode) .future 2) fun l s =>
    match l with
    | [] => s
    | x :: _ =>
      let f := s.futureBytes x.2.1
      let w := if f.all Option.isSome then Wait.futureFwd (BitVec.ofNat 64 (ofBytes (f.filterMap id))) acq
        else Wait.future x.1 x.2.1 acq false 0 f
      s.addPend (pendX n g) w s.core.mLatch acq.isSome

/-- LDF (R257). -/
def execLdf (n : Bool) (g : SDst) (b : SSrc) (s : State) : Res := .next (loadFuture s n g b none)

/-- LDF_ACQ (R257). -/
def execLdfAcq (n : Bool) (g : SDst) (b : SSrc) (sc : Scope) (s : State) : Res := .next (loadFuture s n g b (some sc))

/-- STF and STF_REL (R258). -/
def storeFuture (s : State) (g b : SSrc) (rel : Option Scope) : State :=
  andThen (resolve s (s.core.sx b).toNat 8 8 .atomic (rel.map scopeCode) .future 2) fun l s =>
    match l with
    | [] => s
    | x :: _ => s.withhold (.stf x.1 x.2.1 (s.core.sx g) rel)

/-- STF (R258). -/
def execStf (g : SSrc) (b : SSrc) (s : State) : Res := .next (storeFuture s g b none)

/-- STF_REL (R258). -/
def execStfRel (g : SSrc) (b : SSrc) (sc : Scope) (s : State) : Res := .next (storeFuture s g b (some sc))

/-- Whether the host performs an atomic (11 R242, R260). -/
def AOp.hostOk : AOp → Bool
  | .add | .swap | .cas => true
  | _ => false

/-- An atomic (R260): checks, then an entry with the operand read now. -/
def atomic (op : AOp) (n : Bool) (sc : Scope) (g : Fin 56) (b : SSrc) (o : Ord) (sz : Bool) (cmp operand : Word)
    (s : State) : State :=
  let k := if sz then 8 else 4
  andThen (resolve s (s.core.sx b).toNat k k .atomic (some (scopeCode sc)) (.atomic op.hostOk) 2) fun l s =>
    match l with
    | [] => s
    | x :: _ => s.withhold (.atom op x.1 x.2.1 k cmp operand o sc (if n || decide (g = 0) then none else some g)
        s.core.beat)

/-- CAS (R260): g even; compare value X(g), new value X(g+1). -/
def execCas (n : Bool) (sc : Scope) (g : SDst) (b : SSrc) (o : Ord) (sz : Bool) (s : State) : Res :=
  s.whenOk (decide (g.val % 2 = 0)) (atomic .cas n sc g b o sz (s.core.xr g) (s.core.xn (g.val + 1)) s)

/-- ATOM_ADD (R260). -/
def execAtomAdd (n : Bool) (sc : Scope) (g : SDst) (b : SSrc) (o : Ord) (sz : Bool) (s : State) : Res :=
  .next (atomic .add n sc g b o sz 0 (s.core.xr g) s)

/-- ATOM_AND (R260). -/
def execAtomAnd (n : Bool) (sc : Scope) (g : SDst) (b : SSrc) (o : Ord) (sz : Bool) (s : State) : Res :=
  .next (atomic .and n sc g b o sz 0 (s.core.xr g) s)

/-- ATOM_OR (R260). -/
def execAtomOr (n : Bool) (sc : Scope) (g : SDst) (b : SSrc) (o : Ord) (sz : Bool) (s : State) : Res :=
  .next (atomic .or n sc g b o sz 0 (s.core.xr g) s)

/-- ATOM_XOR (R260). -/
def execAtomXor (n : Bool) (sc : Scope) (g : SDst) (b : SSrc) (o : Ord) (sz : Bool) (s : State) : Res :=
  .next (atomic .xor n sc g b o sz 0 (s.core.xr g) s)

/-- ATOM_MIN (R260). -/
def execAtomMin (n : Bool) (sc : Scope) (g : SDst) (b : SSrc) (o : Ord) (sz : Bool) (s : State) : Res :=
  .next (atomic .min n sc g b o sz 0 (s.core.xr g) s)

/-- ATOM_MAX (R260). -/
def execAtomMax (n : Bool) (sc : Scope) (g : SDst) (b : SSrc) (o : Ord) (sz : Bool) (s : State) : Res :=
  .next (atomic .max n sc g b o sz 0 (s.core.xr g) s)

/-- ATOM_MINU (R260). -/
def execAtomMinu (n : Bool) (sc : Scope) (g : SDst) (b : SSrc) (o : Ord) (sz : Bool) (s : State) : Res :=
  .next (atomic .minu n sc g b o sz 0 (s.core.xr g) s)

/-- ATOM_MAXU (R260). -/
def execAtomMaxu (n : Bool) (sc : Scope) (g : SDst) (b : SSrc) (o : Ord) (sz : Bool) (s : State) : Res :=
  .next (atomic .maxu n sc g b o sz 0 (s.core.xr g) s)

/-- ATOM_SWAP (R260). -/
def execAtomSwap (n : Bool) (sc : Scope) (g : SDst) (b : SSrc) (o : Ord) (sz : Bool) (s : State) : Res :=
  .next (atomic .swap n sc g b o sz 0 (s.core.xr g) s)

/-! ## The L1 data cache -/

/-- Puts a line into the L1 data cache, 256 sets of 4 ways; a full set gives up the line that a free choice names
(11 R241; log 17). -/
def fillL1d (s : State) (k : Nat) (l : Line) : State :=
  let way := (s.core.port.l1d.filter fun e => e.1 % 256 == k % 256).map (·.1)
  if way.contains k || decide (way.length < 4) then
    s.upd fun c => { c with port := { c.port with l1d := Tab.put c.port.l1d k l } }
  else
    let r := s.choose way.length
    r.2.upd fun c => { c with port := { c.port with l1d := Tab.put (Tab.del c.port.l1d (way.getD r.1 0)) k l } }

/-- A failed read: the source of poison (08 R188). -/
structure Poisoned where
  src : Nat
  pa : Nat
  deriving DecidableEq, Repr

/-- Reads n bytes within one 64-byte sector for the current core (11 R243, R248). -/
def readSector (s : State) (useL1 : Bool) (pa n : Nat) : Except Poisoned (List Byte) × State :=
  let k := pa / 64
  let cached := useL1 && decide (pa < 2 ^ 45)
  match if cached then Tab.get s.core.port.l1d k else none with
  | some l =>
    if l.poison then (.error (Poisoned.mk 0 pa), s)
    else (.ok (toBytes n (l.data.toNat / 2 ^ (8 * (pa % 64)))), s)
  | none =>
    match fetchPoison (s.payer s.core.pcore) pa n s with
    | (some src, s) => (.error (Poisoned.mk src pa), s)
    | (none, s) =>
      let bs := s.pbytes pa n
      (.ok bs, if cached then fillL1d s k (Line.mk (BitVec.ofNat 512 (s.pnat (k * 64) 64)) false) else s)

/-- Reads a range, sector by sector. -/
def readSectors (useL1 : Bool) : List (Nat × Nat) → State → Except Poisoned (List Byte) × State
  | [], s => (.ok [], s)
  | p :: ps, s =>
    match readSector s useL1 p.1 p.2 with
    | (.error e, s) => (.error e, s)
    | (.ok bs, s) =>
      match readSectors useL1 ps s with
      | (.ok cs, s) => (.ok (bs ++ cs), s)
      | (.error e, s) => (.error e, s)

/-- A range cut at 64-byte boundaries. -/
def sectorParts (pa n : Nat) : List (Nat × Nat) :=
  (sectorsOf pa n).map fun k =>
    let a := max pa (k * 64)
    (a, min (pa + n) (k * 64 + 64) - a)

/-- A core's store updates the line its cache holds (11 R243). -/
def updateL1 (c : Core) (pa : Nat) (bs : List Byte) : Core :=
  if pa < 2 ^ 45 then
    { c with port := { c.port with l1d := c.port.l1d.map fun e =>
      let o := overlay (e.1 * 64) (List.replicate 64 none) pa bs
      let old := toBytes 64 e.2.data.toNat
      if (o.filterMap id) ≠ [] then
        (e.1, (Line.mk (BitVec.ofNat 512 (ofBytes (List.zipWith (fun (x : Option Byte) b => x.getD b) o old)))
          (e.2.poison && decide ((o.filterMap id).length < 64))))
      else e } }
  else c

/-- Brings the sector of an address into the system cache, and where asked into the L1 data cache (R262). -/
def State.prefetch (s : State) (pa : Nat) (l1 : Bool) : State :=
  let s := touch (s.payer s.core.pcore) (pa / 64 * 64) 64 false s
  if l1 && (Tab.get s.core.port.l1d (pa / 64)).isNone then
    fillL1d s (pa / 64) (Line.mk (BitVec.ofNat 512 (s.pnat (pa / 64 * 64) 64)) (poisonOf s (pa / 64 * 64) 64).isSome)
  else s

/-- PREF (R262): a sector into the system cache, and with the hint 1 into L1; it never faults and orders nothing. Behind
an acquire of its own bundle it waits for that (R255, R263). -/
def execPref (l1 : Bool) (b : SSrc) (off : BitVec 4) (s : State) : Res :=
  let va := s.core.address b off.toNat 64
  .next (match s.core.seat with
    | none => s
    | some z =>
      if canonical va = false then s
      else
        match lookup s s.core.pcore z.ctx va with
        | (none, s) => s
        | (some t, s) =>
          let pa := t.pa + (va - t.va)
          if granted t.leaf.toNat .read s.core.level none && decide (pa < deviceBytes) then
            if s.core.pend.any (·.block) then s.addPend .none (.pref va pa l1) 0 false else s.prefetch pa l1
          else s)

/-- The acquire part of a fence (R263): L1 is emptied now, and later loads wait for every earlier load and answered LDF;
a load that lands after the fence puts no line back that the fence has removed (12 R272). -/
def fenceAcquire (sc : Scope) (s : State) : State :=
  let s := if empties sc then s.emptyL1 else s
  s.upd fun c => { c with pend := c.pend.map fun (q : Pend) => match q.wait with
    | .load ps sx w acq l1 => { q with wait := .load ps sx w acq (l1 && !(empties sc)), block := true }
    | .futureFwd _ _ => { q with block := true }
    | _ => q }

/-- FENCE_ACQ (R263). -/
def execFenceAcq (sc : Scope) (s : State) : Res := .next (fenceAcquire sc s)

/-- FENCE_REL (R263). -/
def execFenceRel (sc : Scope) (s : State) : Res := .next (s.withhold (.fenceRel sc))

/-- FENCE_AR (R263): both parts; nothing of it acts when its entry does not fit. -/
def execFenceAr (sc : Scope) (s : State) : Res :=
  if bufferSize ≤ s.core.segEntries then .next (s.trap tSEGFULL 0 0) else .next ((fenceAcquire sc s).withhold (.fenceRel sc))

/-- FENCEX (R264): one path twice, or a reserved path, is ILLEGAL. -/
def execFencex (sc : Scope) (p q : BitVec 3) (s : State) : Res :=
  s.whenOk (p != q && decide (p.toNat < 5) && decide (q.toNat < 5)) (s.withhold (.fencex sc p.toNat q.toNat))

end Sys2Proof.Machine
end

