-- ==== Sys2Proof/Machine/Barrier.lean ====
section
/-! DEFINITION. Transaction barriers, pipes and the fabric messages that carry their updates (16 R369 to R374; 14 R330 to
R336; 15 R359 to R362; 17 R394). -/

namespace Sys2Proof.Machine

/-! ## One barrier (16 R369, R370, R372) -/

/-- pending_bytes, signed. -/
def barBytes (b : Nat) : Int := sval (bits b 39 0) 40
/-- pending_arrivals. -/
def barPend (b : Nat) : Nat := bits b 55 40
/-- expected. -/
def barExp (b : Nat) : Nat := bits b 71 56
/-- phase. -/
def barPhase (b : Nat) : Nat := bits b 75 72
/-- The flags poisoned, diverted and fault_pending as bits 2:0. -/
def barFlags (b : Nat) : Nat := bits b 78 76
/-- owner_ctx and owner_name. -/
def barOwner (b : Nat) : Nat × Nat := (bits b 89 80, bits b 107 90)

/-- Sets the poisoned flag. -/
def barPoison (b : Nat) : Nat := setBits b 78 78 1

/-- Adds to pending_bytes, clamping with poisoned (R372). -/
def barAddBytes (b : Nat) (v : Int) : Nat :=
  let x := barBytes b + v
  let c := max (-(2 ^ 39)) (min (2 ^ 39 - 1) x)
  let b' := setBits b 39 0 (lowBits 40 c)
  if c = x then b' else barPoison b'

/-- The completion check after an update (R370). -/
def barCheck (b : Nat) : Nat :=
  if barExp b ≠ 0 ∧ barPend b = 0 ∧ barBytes b = 0 then
    setBits (setBits b 75 72 (barPhase b + 1)) 55 40 (barExp b)
  else b

/-- One update of a barrier (R370, R372). -/
def barApply (b : Nat) (u : BarUpdate) : Nat :=
  match u with
  | .init n =>
    barCheck (setBits (setBits (setBits (setBits (setBits b 39 0 0) 55 40 n) 71 56 n) 75 72 0) 78 77 0)
  | .arrive => if barPend b = 0 then barPoison b else barCheck (setBits b 55 40 (barPend b - 1))
  | .arriveExp v =>
    if barPend b = 0 then barPoison b
    else let b := barAddBytes b v.toInt; barCheck (setBits b 55 40 (barPend b - 1))
  | .expect v => barCheck (barAddBytes b v.toInt)
  | .post n p => let b := barAddBytes b (-(n : Int)); barCheck (if p then barPoison b else b)

/-- The logical name of a barrier (15 R359). -/
def barName (l idx : Nat) : Nat := l * 256 + idx % 256

/-- A core's barrier. -/
def Core.bar (c : Core) (i : Nat) : Nat := c.bars.nat (16 * (i % 256)) 16

/-- Replaces a core's barrier. -/
def Core.setBar (c : Core) (i v : Nat) : Core := { c with bars := c.bars.putN (16 * (i % 256)) 16 v }

/-- What became of a message (15 R361). -/
inductive Arrival where
  | landed | refused | wrongOwner | nobody
  deriving DecidableEq, Repr

/-- Applies an update to barrier idx of logical core l of a context, where its diversion entry says it lives (16 R371;
17 R394): resident in the core, absent in the shadow barrier store with diverted set, moving refused. -/
def State.barUpdate (s : State) (ctx l idx : Nat) (u : BarUpdate) : Arrival × State :=
  match Tab.get s.ctxs ctx with
  | none => (.nobody, s)
  | some x =>
    match s.divState x l with
    | 1 =>
      match s.residentCore ctx l with
      | none => (.refused, s)
      | some c =>
        let b := c.bar idx
        if barOwner b ≠ (ctx, barName l idx) then (.wrongOwner, s)
        else (.landed, s.setCore (c.setBar idx (barApply b u)))
    | 2 =>
      let a := s.sbsOf x l + 16 * (idx % 256)
      let b := s.pnat a 16
      if barOwner b ≠ (ctx, barName l idx) then (.wrongOwner, s)
      else
        let b := barApply b u
        (.landed, s.divert ctx a [(0, 16, setBits b 77 77 1)])
    | 3 => (.refused, s)
    | _ => (.nobody, s)

/-! ## Reports to a logical core (08 R184, R185) -/

/-- A COPYFAULT with no element: handle, bundle and position as given (16 R371, 14 R333). -/
def State.copyFault (s : State) (ctx l detail handle : Nat) (bundle : Word) (va : Nat) (crd : List Nat) (pos : Nat) :
    State :=
  s.trapRec ctx l (eventRec cCOPYFAULT detail handle 0 s.tick bundle va crd pos)

/-! ## Pipes and messages (14 R330 to R336) -/

/-- Delivers a pipe message: to the endpoint of a resident member, to the image's endpoint of an absent one; a full
buffer refuses it (14 R332, 17 R394). -/
def State.pipeArrive (s : State) (ctx l e : Nat) (m : VWord) : Arrival × State :=
  match Tab.get s.ctxs ctx with
  | none => (.nobody, s)
  | some x =>
    match s.divState x l with
    | 1 =>
      match s.residentCore ctx l with
      | none => (.refused, s)
      | some c =>
        let q := c.eng.pipes[Fin.ofNat 8 e]
        if q.entries.length < q.depth then
          (.landed, s.setCore { c with eng := { c.eng with
            pipes := vmod c.eng.pipes (e % 8) fun q => { q with entries := q.entries ++ [m] } } })
        else (.refused, s)
    | 2 =>
      let h := s.imageOf x l + 0x330000 + 64 * (e % 8)
      let n := s.pnat (h + 3) 1
      if n < s.pnat (h + 1) 1 then
        let j := (s.pnat (h + 2) 1 + n) % 16
        (.landed, s.divert ctx (s.imageOf x l)
          [(0x320000 + 8192 * (e % 8) + 512 * j, 512, m.toNat), (0x330000 + 64 * (e % 8) + 3, 1, n + 1)])
      else (.refused, s)
    | 3 => (.refused, s)
    | _ => (.nobody, s)

/-- Delivers a free notice to the writer's endpoint (14 R332). -/
def State.freeArrive (s : State) (ctx l e n : Nat) : Arrival × State :=
  match Tab.get s.ctxs ctx with
  | none => (.nobody, s)
  | some x =>
    match s.divState x l with
    | 1 =>
      match s.residentCore ctx l with
      | none => (.refused, s)
      | some c =>
        (.landed, s.setCore { c with eng := { c.eng with
          pipes := vmod c.eng.pipes (e % 8) fun q => { q with outstanding := q.outstanding - n } } })
    | 2 =>
      let a := 0x330000 + 64 * (e % 8) + 4
      (.landed, s.divert ctx (s.imageOf x l) [(a, 1, s.pnat (s.imageOf x l + a) 1 - n)])
    | 3 => (.refused, s)
    | _ => (.nobody, s)

/-- Lowers the pending count of a landed or dropped message (15 R360). -/
def State.unpend (s : State) (ctx l : Nat) : State :=
  match Tab.get s.ctxs ctx with
  | some x => s.addPending x l (-1)
  | none => s

/-- Changes the messages of a core's window. -/
def State.onWindow (s : State) (p : Nat) (f : List Msg → List Msg) : State :=
  let c := s.getCore p
  s.setCore { c with port := { c.port with window := f c.port.window } }

/-- Whether an earlier message of the window to the same receiver is not accepted yet (14 R335). -/
def behind (w : List Msg) (k : Nat) (m : Msg) : Bool :=
  (w.take k).any fun o => o.ctx == m.ctx && o.lcore == m.lcore && o.st != .accepted

/-- An acknowledgement removes an accepted message (14 R335, R336). -/
def State.fabricAck (s : State) (p k : Nat) : State :=
  match (s.getCore p).port.window[k]? with
  | some m => if m.st = .accepted then s.onWindow p fun w => dropNth w k else s
  | none => s

/-- After the back-off a port resends the refused messages (14 R336). -/
def State.resend (s : State) (p : Nat) : State :=
  s.onWindow p fun w => w.map fun m => match m.st with
    | .refused t => if t ≤ s.tick then { m with st := .sent, dest := none } else m
    | _ => m

/-- Whether a pending result is a future that its slice has refused (11 R259), which stands in the replay window. -/
def Pend.refused (q : Pend) : Bool :=
  match q.wait with
  | .future _ _ _ false retry _ => decide (0 < retry)
  | _ => false

/-- The places taken in the replay window of a core (14 R335, R336). -/
def Core.inWindow (c : Core) : Nat := c.port.window.length + (c.pend.filter Pend.refused).length

/-- Whether the window of the current core has room (14 R336). -/
def Core.windowRoom (c : Core) : Bool := decide (c.inWindow < 32)

/-- Whether a write that awaits its acknowledgement holds a release at a scope (11 R252): at node 1 always, at node 2 at
SYSTEM or wider. -/
def Ack.holds (a : Ack) (sc : Scope) : Bool := decide (a.node = 1) || (decide (a.node = 2) && decide (5 ≤ scopeCode sc))

/-- Whether a message is a write of its sender on the core path that is not accepted (11 R252). -/
def Msg.open_ (m : Msg) : Bool :=
  !m.engine && m.st != .accepted && (match m.body with
    | .freeNotice _ _ => false
    | _ => true)

/-- Whether every earlier write of a logical core is acknowledged for a release at a scope (11 R252), wherever the core
was when it made them (12 R286). -/
def State.acked (s : State) (ctx l : Nat) (sc : Scope) : Bool :=
  s.allCores.all fun c =>
    (c.port.acks.all fun a => !(a.ctx == ctx && a.lcore == l && a.holds sc)) &&
      (c.port.window.all fun m => !(m.ctx == ctx && m.src == l && m.open_))

/-! ## Barrier operands and instructions -/

/-- The logical cores of the current context. -/
def State.lcores (s : State) : Nat := ((Tab.get s.ctxs s.core.self.1).map (·.lcores)).getD 0

/-- A barrier operand as resolved at issue (16 R373, 15 R359): a name outside the context, or of another logical core
where that is not allowed, is none and raises ACCESS. -/
def barRef (s : State) (b : BarOp) (remote : Bool) : Option BarRef :=
  match b with
  | .idx i => some (BarRef.mk false s.core.self.2 i.toNat)
  | .name x =>
    let v := s.core.sx x
    let l := wbits v 17 8
    if l < s.lcores ∧ (remote = true ∨ l = s.core.self.2) then some (BarRef.mk true l (wbits v 7 0)) else none

/-- Continues with a resolved barrier, or raises ACCESS with detail 1 (15 R359). -/
def withBar (s : State) (b : BarOp) (remote : Bool) (k : BarRef → State) : State :=
  match barRef s b remote with
  | some r => k r
  | none => s.trap tACCESS 1 0

/-- Whether a byte expectation is in range (16 R373). -/
def expectOk (v : Word) : Bool := decide (-(2 ^ 39) ≤ v.toInt) && decide (v.toInt ≤ 2 ^ 39 - 1)

/-- BINIT (R373): the count is bits 15:0; 0 is ILLEGAL. -/
def execBinit (bar : BarOp) (x : SSrc) (s : State) : Res :=
  let n := wbits (s.core.sx x) 15 0
  s.whenOk (decide (n ≠ 0)) (withBar s bar false fun r => s.withhold (.barrier r (.init n)))

/-- BARV (R373). -/
def execBarv (bar : BarOp) (s : State) : Res := .next (withBar s bar true fun r => s.withhold (.barrier r .arrive))

/-- BARV_EXP (R373). -/
def execBarvExp (bar : BarOp) (x : SSrc) (s : State) : Res :=
  let v := s.core.sx x
  s.whenOk (expectOk v) (withBar s bar true fun r => s.withhold (.barrier r (.arriveExp v)))

/-- BEXP (R373). -/
def execBexp (bar : BarOp) (x : SSrc) (s : State) : Res :=
  let v := s.core.sx x
  s.whenOk (expectOk v) (withBar s bar true fun r => s.withhold (.barrier r (.expect v)))

/-- Whether a barrier operand moves barrier idx of the issuing core l, member m of its gang. -/
def BarRef.moves (r : BarRef) (mask m l idx : Nat) : Bool :=
  decide (r.idx = idx) && (if r.named then decide (r.lcore = l) else decide (mask = 0) || mask.testBit m)

/-- Whether a withheld entry would move barrier idx of its own core (08 R175). -/
def EKind.movesBar (k : EKind) (m l idx : Nat) : Bool :=
  match k with
  | .barrier r _ => r.moves 0 m l idx
  | .copy c => c.bar.moves c.mask m l idx
  | .matrix c => (c.bar.map fun r => r.moves 0 m l idx).getD false
  | .spawn _ post => (post.map fun r => r.moves 0 m l idx).getD false
  | _ => false

/-- The gang member that the current core runs. -/
def Core.member (c : Core) : Nat := (c.seat.map (·.member)).getD 0

/-- BWAIT (R374, 08 R175): pending until the phase differs, an acquire that later accesses wait for (12 R273, R279); on a barrier that the segment's own entries would move,
WAITSELF. -/
def execBwait (bar : BarOp) (x : SDst) (s : State) : Res :=
  s.whenOk (decide (x ≠ 0)) (withBar s bar false fun r =>
    if s.core.cbuf.any fun e => e.kind.movesBar s.core.member s.core.self.2 r.idx then s.trap tWAITSELF 1 0
    else s.addPend (.x x) (.barrier r.idx (wbits (s.core.xr x) 3 0)) s.core.mLatch true)

/-- The value of BWAIT (R374): phase and flags. -/
def barWord (b : Nat) : Nat := barPhase b + 16 * barFlags b

/-- BTRY (R374): phase, flags, and whether the phase moved, which makes it an acquire at GANG scope. -/
def execBtry (n : Bool) (bar : BarOp) (x : SDst) (s : State) : Res :=
  .next (withBar s bar false fun r =>
    let b := s.core.bar r.idx
    let moved := barPhase b ≠ wbits (s.core.xr x) 3 0
    let s := if moved then s.emptyL1 else s
    s.retMx 2 n x (BitVec.ofNat 64 (barWord b + if moved then 256 else 0)))

/-! ## Pipe instructions (14 R331, R332) -/

/-- The endpoint e of the current core. -/
def Core.pipe (c : Core) (e : Fin 8) : Pipe := c.eng.pipes[e]

/-- The content that PIPW sends. -/
def pipeData (c : Core) : PipeSrc → VWord
  | .x r => (c.sx r).setWidth 4096
  | .v r => c.vx r

/-- PIPW: an endpoint that is no writer is ILLEGAL. -/
def execPipw (e : Fin 8) (src : PipeSrc) (s : State) : Res :=
  s.whenOk (decide ((s.core.pipe e).role = 1)) (s.withhold (.pipw e.val
    ((s.gangOf s.core).getD (s.core.pipe e).peerMember s.core.self.2) (s.core.pipe e).peerEnd (pipeData s.core src)))

/-- PIPR: the read pointer advances at issue (08 R176); an endpoint that is no reader is ILLEGAL. -/
def execPipr (n : Bool) (dst : PipeDst) (e : Fin 8) (s : State) : Res :=
  let count := s.core.arch.rd[e]
  let d := match dst with
    | .x d => pendX n d
    | .v d => pendV n d
  let vec := match dst with
    | .x _ => false
    | .v _ => true
  s.whenOk (decide ((s.core.pipe e).role = 2))
    ((s.addPend d (.pipe e.val count vec) s.core.mLatch false).upd fun c =>
      { c with arch := { c.arch with rd := c.arch.rd.set e (count + 1) } })

/-- What PIPQ reads: entries beyond the read pointer and depth, or outstanding, depth and bit 15. -/
def pipeWord (c : Core) (e : Fin 8) : Nat :=
  let q := c.pipe e
  if q.role = 2 then (q.base + q.entries.length - c.arch.rd[e]) % 32 + q.depth * 256
  else q.outstanding % 32 + q.depth * 256 + 2 ^ 15

/-- PIPQ: an endpoint that the member lacks is ILLEGAL. -/
def execPipq (n : Bool) (d : SDst) (e : Fin 8) (s : State) : Res :=
  s.whenOk (decide ((s.core.pipe e).role ≠ 0)) (s.retMx 2 n d (BitVec.ofNat 64 (pipeWord s.core e)))

/-- STATFL (14 R339). -/
def execStatfl (s : State) : Res := .next (s.withhold .statfl)

end Sys2Proof.Machine
end

