-- ==== Sys2Proof/Decode.lean ====
section
/-! DEFINITION. The decoder and the encoder of a 32-bit slot (03 R58 to R71, R75). Decoding is total and refuses by
name. The e bit (bit 31) belongs to the framing of a bundle and is no part of an instruction. -/

namespace Sys2Proof

/-- Why a slot does not decode (R60): each raises ILLEGAL. -/
inductive DecodeErr where
  /-- An opcode that R75 does not list. -/
  | unassigned
  /-- A reserved value in a field. -/
  | reserved
  /-- A field the instruction leaves unused is not zero. -/
  | unused
  /-- N is 1 in an instruction that writes no register. -/
  | nBit
  /-- A form that the owning chapter calls illegal (Instr.wf). -/
  | illFormed
  deriving DecidableEq, Repr

/-- The answer of a decoder. -/
abbrev Dec := Except DecodeErr

/-- The fields of a slot (R62, R63), but the e bit: n, cls, op and the four parts of bits 20:0. -/
structure Fields where
  n : Bool
  cls : BitVec 2
  op : BitVec 7
  t : BitVec 3
  d : BitVec 6
  a : BitVec 6
  b : BitVec 6
  deriving DecidableEq, Repr

/-- The fields of a word (R62, R63). -/
def unpack (w : BitVec 32) : Fields :=
  (Fields.mk (w.getLsbD 28) (w.extractLsb' 29 2) (w.extractLsb' 21 7) (w.extractLsb' 18 3) (w.extractLsb' 12 6)
    (w.extractLsb' 6 6) (w.extractLsb' 0 6))

/-- The word with these fields and e = 0 (R62, R63). -/
def pack (f : Fields) : BitVec 32 :=
  0#1 ++ f.cls ++ BitVec.ofBool f.n ++ f.op ++ f.t ++ f.d ++ f.a ++ f.b

/-- A field that the instruction leaves unused must be zero (R60). -/
def zero {w : Nat} (x : BitVec w) : Dec Unit := if x = 0 then .ok () else .error .unused

/-- N must be 0 where no register is written (R60). -/
def noN (n : Bool) : Dec Unit := if n then .error .nBit else .ok ()

/-- A register number below k (R68). -/
def finDec (k : Nat) {w : Nat} (c : BitVec w) : Dec (Fin k) :=
  if h : c.toNat < k then .ok ⟨c.toNat, h⟩ else .error .reserved

/-- The field of a number below k. -/
def finEnc {k w : Nat} (i : Fin k) : BitVec w := BitVec.ofNat w i.val

/-- A scalar source (R68). -/
def SSrc.dec (c : BitVec 6) : Dec SSrc :=
  if h : c.toNat < 56 then .ok (.x ⟨c.toNat, h⟩)
  else if c = 56 then .ok .b0
  else if c = 57 then .ok .b1
  else if c = 62 then .ok .b6
  else if c = 63 then .ok .b7
  else .error .reserved

/-- The field of a scalar source. -/
def SSrc.enc : SSrc → BitVec 6
  | .x i => BitVec.ofNat 6 i.val
  | .b0 => 56
  | .b1 => 57
  | .b6 => 62
  | .b7 => 63

/-- A vector source (R68). -/
def VSrc.dec (c : BitVec 6) : Dec VSrc :=
  if h : c.toNat < 48 then .ok (.v ⟨c.toNat, h⟩)
  else if h : c.toNat - 48 < 8 then .ok (.w ⟨c.toNat - 48, h⟩)
  else if c = 58 then .ok .b2
  else if c = 59 then .ok .b3
  else if c = 60 then .ok .b4
  else if c = 61 then .ok .b5
  else if c = 62 then .ok .b6
  else if c = 63 then .ok .b7
  else .error .reserved

/-- The field of a vector source. -/
def VSrc.enc : VSrc → BitVec 6
  | .v i => BitVec.ofNat 6 i.val
  | .w i => BitVec.ofNat 6 (48 + i.val)
  | .b2 => 58
  | .b3 => 59
  | .b4 => 60
  | .b5 => 61
  | .b6 => 62
  | .b7 => 63

/-- A vector destination (R68). -/
def VDst.dec (c : BitVec 6) : Dec VDst :=
  if h : c.toNat < 48 then .ok (.v ⟨c.toNat, h⟩)
  else if h : c.toNat - 48 < 8 then .ok (.w ⟨c.toNat - 48, h⟩)
  else .error .reserved

/-- The field of a vector destination. -/
def VDst.enc : VDst → BitVec 6
  | .v i => BitVec.ofNat 6 i.val
  | .w i => BitVec.ofNat 6 (48 + i.val)

/-- An integer type code (R32); every code is assigned. -/
def ITy.dec (c : BitVec 3) : Dec ITy :=
  match c.toNat with
  | 0 => .ok .i4
  | 1 => .ok .i8
  | 2 => .ok .i16
  | 3 => .ok .i32
  | 4 => .ok .n4
  | 5 => .ok .n8
  | 6 => .ok .n16
  | _ => .ok .n32

/-- The code of an integer type (R32). -/
def ITy.enc : ITy → BitVec 3
  | .i4 => 0
  | .i8 => 1
  | .i16 => 2
  | .i32 => 3
  | .n4 => 4
  | .n8 => 5
  | .n16 => 6
  | .n32 => 7

/-- A float type code (R71). -/
def FTy.dec (c : BitVec 3) : Dec FTy :=
  match c.toNat with
  | 0 => .ok .e4m3
  | 1 => .ok .e5m2
  | 2 => .ok .bf16
  | 3 => .ok .f16
  | 4 => .ok .f32
  | _ => .error .reserved

/-- The code of a float type (R71). -/
def FTy.enc : FTy → BitVec 3
  | .e4m3 => 0
  | .e5m2 => 1
  | .bf16 => 2
  | .f16 => 3
  | .f32 => 4

/-- A conversion's type: a float flag and a type code (R75). -/
def ElTy.dec (fl : Bool) (c : BitVec 3) : Dec ElTy :=
  if fl then (FTy.dec c).map .f else (ITy.dec c).map .i

/-- Whether a conversion's type is a float type (R75). -/
def ElTy.isF : ElTy → Bool
  | .i _ => false
  | .f _ => true

/-- The type code of a conversion's type (R75). -/
def ElTy.code : ElTy → BitVec 3
  | .i t => t.enc
  | .f t => t.enc

/-- A scope code (R66); every code is assigned. -/
def Scope.dec (c : BitVec 3) : Dec Scope :=
  match c.toNat with
  | 0 => .ok .core
  | 1 => .ok .gang
  | 2 => .ok .cluster
  | 3 => .ok .chip
  | 4 => .ok .peer
  | 5 => .ok .system
  | 6 => .ok .tenant
  | _ => .ok .image

/-- The code of a scope (R66). -/
def Scope.enc : Scope → BitVec 3
  | .core => 0
  | .gang => 1
  | .cluster => 2
  | .chip => 3
  | .peer => 4
  | .system => 5
  | .tenant => 6
  | .image => 7

/-- An ordering code (R65). -/
def Ord.dec (c : BitVec 2) : Dec Ord :=
  match c.toNat with
  | 0 => .ok .plain
  | 1 => .ok .acq
  | 2 => .ok .rel
  | _ => .error .reserved

/-- The code of an ordering (R65). -/
def Ord.enc : Ord → BitVec 2
  | .plain => 0
  | .acq => 1
  | .rel => 2

/-- The last field of a plain G-format slot: ord 0 and a 4-bit offset (R65). -/
def ordPlain (c : BitVec 6) : Dec (BitVec 4) :=
  if c.extractLsb' 4 2 = 0 then .ok (c.extractLsb' 0 4) else .error .reserved

/-- The last field of an ordered G-format slot: the ord, a scope and a zero bit (R65). -/
def ordScope (o : BitVec 2) (c : BitVec 6) : Dec Scope :=
  if c.extractLsb' 4 2 = o then
    if c.extractLsb' 0 1 = 0 then Scope.dec (c.extractLsb' 1 3) else .error .unused
  else .error .reserved

/-- The last field of an ordered G-format slot. -/
def encOrdScope (o : BitVec 2) (s : Scope) : BitVec 6 := o ++ s.enc ++ 0#1

/-- A 6-bit field that holds 0 or 1. -/
def flagDec (c : BitVec 6) : Dec Bool :=
  if c = 0 then .ok false else if c = 1 then .ok true else .error .reserved

/-- The 6-bit field of a flag. -/
def flagEnc (b : Bool) : BitVec 6 := if b then 1 else 0

/-- The bn and bar fields of an E-format slot (R65). -/
def BarOp.dec (bn : Bool) (c : BitVec 8) : Dec BarOp :=
  if bn then
    if c.extractLsb' 6 2 = 0 then (SSrc.dec (c.extractLsb' 0 6)).map .name else .error .unused
  else .ok (.idx c)

/-- The bn bit. -/
def BarOp.bn : BarOp → Bool
  | .idx _ => false
  | .name _ => true

/-- The bar field. -/
def BarOp.field : BarOp → BitVec 8
  | .idx i => i
  | .name x => 0#2 ++ x.enc

/-- The optional barrier of a matrix command or SPAWN: option bit 6 says that it is there, and without it bn and bar
are unused (10 R227, 14 R331). -/
def barOptDec (has bn : Bool) (c : BitVec 8) : Dec (Option BarOp) :=
  if has then (BarOp.dec bn c).map some
  else if bn then .error .unused
  else if c = 0 then .ok none else .error .unused

/-- The bn bit of an optional barrier. -/
def barOptBn : Option BarOp → Bool
  | some b => b.bn
  | none => false

/-- The bar field of an optional barrier. -/
def barOptField : Option BarOp → BitVec 8
  | some b => b.field
  | none => 0

/-- PIPW's source (14 R332): type bit 0 selects a vector. -/
def PipeSrc.dec (v : Bool) (c : BitVec 6) : Dec PipeSrc :=
  if v then (VSrc.dec c).map .v else (SSrc.dec c).map .x

/-- PIPW's type field. -/
def PipeSrc.tag : PipeSrc → BitVec 3
  | .x _ => 0
  | .v _ => 1

/-- PIPW's source field. -/
def PipeSrc.enc : PipeSrc → BitVec 6
  | .x s => s.enc
  | .v s => s.enc

/-- PIPR's destination (14 R332): type bit 0 selects a vector. -/
def PipeDst.dec (v : Bool) (c : BitVec 6) : Dec PipeDst :=
  if v then (VDst.dec c).map .v else (finDec 56 c).map .x

/-- PIPR's type field. -/
def PipeDst.tag : PipeDst → BitVec 3
  | .x _ => 0
  | .v _ => 1

/-- PIPR's destination field. -/
def PipeDst.enc : PipeDst → BitVec 6
  | .x d => finEnc d
  | .v d => d.enc

/-- Decodes the operands of shape R3 (R63 to R68). -/
def decR3 (f : Fields) (k : Bool → SDst → SSrc → SSrc → Instr) : Dec Instr := do
  zero f.t
  let d ← finDec 56 f.d
  let a ← SSrc.dec f.a
  let b ← SSrc.dec f.b
  pure (k (f.n) d a b)

/-- Encodes the operands of shape R3 (R63 to R68). -/
def encR3 (cls : BitVec 2) (op : BitVec 7) (n : Bool) (d : SDst) (a : SSrc) (b : SSrc) : Fields :=
  (Fields.mk n cls op (0) (finEnc d)
    (a.enc) (b.enc))

/-- Decodes the operands of shape R2 (R63 to R68). -/
def decR2 (f : Fields) (k : Bool → SDst → SSrc → Instr) : Dec Instr := do
  zero f.t
  let d ← finDec 56 f.d
  let a ← SSrc.dec f.a
  zero f.b
  pure (k (f.n) d a)

/-- Encodes the operands of shape R2 (R63 to R68). -/
def encR2 (cls : BitVec 2) (op : BitVec 7) (n : Bool) (d : SDst) (a : SSrc) : Fields :=
  (Fields.mk n cls op (0) (finEnc d)
    (a.enc) (0))

/-- Decodes the operands of shape Rw (R63 to R68). -/
def decRw (f : Fields) (k : Bool → SDst → SSrc → (BitVec 6) → Instr) : Dec Instr := do
  zero f.t
  let d ← finDec 56 f.d
  let a ← SSrc.dec f.a
  pure (k (f.n) d a (f.b))

/-- Encodes the operands of shape Rw (R63 to R68). -/
def encRw (cls : BitVec 2) (op : BitVec 7) (n : Bool) (d : SDst) (a : SSrc) (w : BitVec 6) : Fields :=
  (Fields.mk n cls op (0) (finEnc d)
    (a.enc) (w))

/-- Decodes the operands of shape Widf (R63 to R68). -/
def decWidf (f : Fields) (k : Bool → SDst → (BitVec 6) → Instr) : Dec Instr := do
  zero f.t
  let d ← finDec 56 f.d
  zero f.a
  pure (k (f.n) d (f.b))

/-- Encodes the operands of shape Widf (R63 to R68). -/
def encWidf (cls : BitVec 2) (op : BitVec 7) (n : Bool) (d : SDst) (k : BitVec 6) : Fields :=
  (Fields.mk n cls op (0) (finEnc d)
    (0) (k))

/-- Decodes the operands of shape I (R63 to R68). -/
def decI (f : Fields) (k : Bool → SDst → SSrc → (BitVec 9) → Instr) : Dec Instr := do
  let d ← finDec 56 f.d
  let a ← SSrc.dec f.a
  pure (k (f.n) d a (f.t ++ f.b))

/-- Encodes the operands of shape I (R63 to R68). -/
def encI (cls : BitVec 2) (op : BitVec 7) (n : Bool) (d : SDst) (a : SSrc) (imm : BitVec 9) : Fields :=
  (Fields.mk n cls op (imm.extractLsb' 6 3) (finEnc d)
    (a.enc) (imm.extractLsb' 0 6))

/-- Decodes the operands of shape Ip (R63 to R68). -/
def decIp (f : Fields) (k : Bool → PReg → SSrc → (BitVec 9) → Instr) : Dec Instr := do
  let d ← finDec 16 f.d
  let a ← SSrc.dec f.a
  pure (k (f.n) d a (f.t ++ f.b))

/-- Encodes the operands of shape Ip (R63 to R68). -/
def encIp (cls : BitVec 2) (op : BitVec 7) (n : Bool) (d : PReg) (a : SSrc) (imm : BitVec 9) : Fields :=
  (Fields.mk n cls op (imm.extractLsb' 6 3) (finEnc d)
    (a.enc) (imm.extractLsb' 0 6))

/-- Decodes the operands of shape L (R63 to R68). -/
def decL (f : Fields) (k : Bool → SDst → (BitVec 15) → Instr) : Dec Instr := do
  let d ← finDec 56 f.d
  pure (k (f.n) d (f.t ++ f.a ++ f.b))

/-- Encodes the operands of shape L (R63 to R68). -/
def encL (cls : BitVec 2) (op : BitVec 7) (n : Bool) (d : SDst) (imm : BitVec 15) : Fields :=
  (Fields.mk n cls op (imm.extractLsb' 12 3) (finEnc d)
    (imm.extractLsb' 6 6) (imm.extractLsb' 0 6))

/-- Decodes the operands of shape Cmp (R63 to R68). -/
def decCmp (f : Fields) (k : Bool → PReg → SSrc → SSrc → Instr) : Dec Instr := do
  let d ← finDec 16 f.d
  let a ← SSrc.dec f.a
  let b ← SSrc.dec f.b
  pure (k (f.n) d a b)

/-- Encodes the operands of shape Cmp (R63 to R68). -/
def encCmp (cls : BitVec 2) (op : BitVec 7) (k : BitVec 3) (n : Bool) (d : PReg) (a : SSrc) (b : SSrc) : Fields :=
  (Fields.mk n cls op (k) (finEnc d)
    (a.enc) (b.enc))

/-- Decodes the operands of shape P3 (R63 to R68). -/
def decP3 (f : Fields) (k : Bool → PReg → PReg → PReg → Instr) : Dec Instr := do
  zero f.t
  let d ← finDec 16 f.d
  let a ← finDec 16 f.a
  let b ← finDec 16 f.b
  pure (k (f.n) d a b)

/-- Encodes the operands of shape P3 (R63 to R68). -/
def encP3 (cls : BitVec 2) (op : BitVec 7) (n : Bool) (d : PReg) (a : PReg) (b : PReg) : Fields :=
  (Fields.mk n cls op (0) (finEnc d)
    (finEnc a) (finEnc b))

/-- Decodes the operands of shape P2 (R63 to R68). -/
def decP2 (f : Fields) (k : Bool → PReg → PReg → Instr) : Dec Instr := do
  zero f.t
  let d ← finDec 16 f.d
  let a ← finDec 16 f.a
  zero f.b
  pure (k (f.n) d a)

/-- Encodes the operands of shape P2 (R63 to R68). -/
def encP2 (cls : BitVec 2) (op : BitVec 7) (n : Bool) (d : PReg) (a : PReg) : Fields :=
  (Fields.mk n cls op (0) (finEnc d)
    (finEnc a) (0))

/-- Decodes the operands of shape Br (R63 to R68). -/
def decBr (f : Fields) (k : PReg → Bool → (BitVec 16) → Instr) : Dec Instr := do
  noN f.n
  let p : PReg := (f.t ++ f.d.extractLsb' 5 1).toFin
  pure (k p (f.d.getLsbD 4) (f.d.extractLsb' 0 4 ++ f.a ++ f.b))

/-- Encodes the operands of shape Br (R63 to R68). -/
def encBr (cls : BitVec 2) (op : BitVec 7) (p : PReg) (neg : Bool) (disp : BitVec 16) : Fields :=
  (Fields.mk false cls op ((BitVec.ofFin (w := 4) p).extractLsb' 1 3) ((BitVec.ofFin (w := 4) p).extractLsb' 0 1 ++ BitVec.ofBool neg ++ disp.extractLsb' 12 4)
    (disp.extractLsb' 6 6) (disp.extractLsb' 0 6))

/-- Decodes the operands of shape Call (R63 to R68). -/
def decCall (f : Fields) (k : Bool → PReg → Bool → (BitVec 16) → Instr) : Dec Instr := do
  let p : PReg := (f.t ++ f.d.extractLsb' 5 1).toFin
  pure (k (f.n) p (f.d.getLsbD 4) (f.d.extractLsb' 0 4 ++ f.a ++ f.b))

/-- Encodes the operands of shape Call (R63 to R68). -/
def encCall (cls : BitVec 2) (op : BitVec 7) (n : Bool) (p : PReg) (neg : Bool) (disp : BitVec 16) : Fields :=
  (Fields.mk n cls op ((BitVec.ofFin (w := 4) p).extractLsb' 1 3) ((BitVec.ofFin (w := 4) p).extractLsb' 0 1 ++ BitVec.ofBool neg ++ disp.extractLsb' 12 4)
    (disp.extractLsb' 6 6) (disp.extractLsb' 0 6))

/-- Decodes the operands of shape Ra (R63 to R68). -/
def decRa (f : Fields) (k : SSrc → Instr) : Dec Instr := do
  noN f.n
  zero f.t
  zero f.d
  let a ← SSrc.dec f.a
  zero f.b
  pure (k a)

/-- Encodes the operands of shape Ra (R63 to R68). -/
def encRa (cls : BitVec 2) (op : BitVec 7) (a : SSrc) : Fields :=
  (Fields.mk false cls op (0) (0)
    (a.enc) (0))

/-- Decodes the operands of shape Loop (R63 to R68). -/
def decLoop (f : Fields) (k : SSrc → (BitVec 15) → Instr) : Dec Instr := do
  noN f.n
  let d ← SSrc.dec f.d
  pure (k d (f.t ++ f.a ++ f.b))

/-- Encodes the operands of shape Loop (R63 to R68). -/
def encLoop (cls : BitVec 2) (op : BitVec 7) (d : SSrc) (imm : BitVec 15) : Fields :=
  (Fields.mk false cls op (imm.extractLsb' 12 3) (d.enc)
    (imm.extractLsb' 6 6) (imm.extractLsb' 0 6))

/-- Decodes the operands of shape Brkl (R63 to R68). -/
def decBrkl (f : Fields) (k : Bool → PReg → Instr) : Dec Instr := do
  noN f.n
  zero f.t
  zero f.d
  zero (f.a.extractLsb' 5 1)
  zero f.b
  pure (k (f.a.getLsbD 4) ((f.a.extractLsb' 0 4).toFin))

/-- Encodes the operands of shape Brkl (R63 to R68). -/
def encBrkl (cls : BitVec 2) (op : BitVec 7) (neg : Bool) (p : PReg) : Fields :=
  (Fields.mk false cls op (0) (0)
    (0#1 ++ BitVec.ofBool neg ++ (BitVec.ofFin (w := 4) p)) (0))

/-- Decodes the operands of shape Shf (R63 to R68). -/
def decShf (f : Fields) (k : (Fin 25) → SSrc → (Fin 8) → Instr) : Dec Instr := do
  noN f.n
  let fld ← finDec 25 f.d
  let a ← SSrc.dec f.a
  let sd ← finDec 8 f.b
  pure (k fld a sd)

/-- Encodes the operands of shape Shf (R63 to R68). -/
def encShf (cls : BitVec 2) (op : BitVec 7) (k : BitVec 3) (fld : Fin 25) (a : SSrc) (sd : Fin 8) : Fields :=
  (Fields.mk false cls op (k) (finEnc fld)
    (a.enc) (finEnc sd))

/-- Decodes the operands of shape Shfi (R63 to R68). -/
def decShfi (f : Fields) (k : (BitVec 9) → (Fin 25) → (Fin 8) → Instr) : Dec Instr := do
  noN f.n
  let fld ← finDec 25 f.d
  pure (k (f.t ++ f.b) fld ((f.a.extractLsb' 0 3).toFin))

/-- Encodes the operands of shape Shfi (R63 to R68). -/
def encShfi (cls : BitVec 2) (op : BitVec 7) (k : BitVec 3) (imm : BitVec 9) (fld : Fin 25) (sd : Fin 8) : Fields :=
  (Fields.mk false cls op (imm.extractLsb' 6 3) (finEnc fld)
    (k ++ (BitVec.ofFin (w := 3) sd)) (imm.extractLsb' 0 6))

/-- Decodes the operands of shape Shcp (R63 to R68). -/
def decShcp (f : Fields) (k : (Fin 8) → (Fin 8) → Instr) : Dec Instr := do
  noN f.n
  let sd ← finDec 8 f.d
  let t ← finDec 8 f.a
  zero f.b
  pure (k sd t)

/-- Encodes the operands of shape Shcp (R63 to R68). -/
def encShcp (cls : BitVec 2) (op : BitVec 7) (k : BitVec 3) (sd : Fin 8) (t : Fin 8) : Fields :=
  (Fields.mk false cls op (k) (finEnc sd)
    (finEnc t) (0))

/-- Decodes the operands of shape ShcpM (R63 to R68). -/
def decShcpM (f : Fields) (k : (Fin 8) → SSrc → Instr) : Dec Instr := do
  noN f.n
  let sd ← finDec 8 f.d
  let a ← SSrc.dec f.a
  zero f.b
  pure (k sd a)

/-- Encodes the operands of shape ShcpM (R63 to R68). -/
def encShcpM (cls : BitVec 2) (op : BitVec 7) (k : BitVec 3) (sd : Fin 8) (a : SSrc) : Fields :=
  (Fields.mk false cls op (k) (finEnc sd)
    (a.enc) (0))

/-- Decodes the operands of shape Shrd (R63 to R68). -/
def decShrd (f : Fields) (k : Bool → SDst → (Fin 16) → (Fin 25) → Instr) : Dec Instr := do
  zero f.t
  let d ← finDec 56 f.d
  let r ← finDec 16 f.a
  let fld ← finDec 25 f.b
  pure (k (f.n) d r fld)

/-- Encodes the operands of shape Shrd (R63 to R68). -/
def encShrd (cls : BitVec 2) (op : BitVec 7) (n : Bool) (d : SDst) (r : Fin 16) (fld : Fin 25) : Fields :=
  (Fields.mk n cls op (0) (finEnc d)
    (finEnc r) (finEnc fld))

/-- Decodes the operands of shape Shchk (R63 to R68). -/
def decShchk (f : Fields) (k : Bool → SDst → (Fin 16) → Instr) : Dec Instr := do
  zero f.t
  let d ← finDec 56 f.d
  let r ← finDec 16 f.a
  zero f.b
  pure (k (f.n) d r)

/-- Encodes the operands of shape Shchk (R63 to R68). -/
def encShchk (cls : BitVec 2) (op : BitVec 7) (n : Bool) (d : SDst) (r : Fin 16) : Fields :=
  (Fields.mk n cls op (0) (finEnc d)
    (finEnc r) (0))

/-- Decodes the operands of shape Csrr (R63 to R68). -/
def decCsrr (f : Fields) (k : Bool → SDst → (BitVec 12) → Instr) : Dec Instr := do
  zero f.t
  let g ← finDec 56 f.d
  pure (k (f.n) g (f.a ++ f.b))

/-- Encodes the operands of shape Csrr (R63 to R68). -/
def encCsrr (cls : BitVec 2) (op : BitVec 7) (n : Bool) (g : SDst) (c : BitVec 12) : Fields :=
  (Fields.mk n cls op (0) (finEnc g)
    (c.extractLsb' 6 6) (c.extractLsb' 0 6))

/-- Decodes the operands of shape Csrw (R63 to R68). -/
def decCsrw (f : Fields) (k : SSrc → (BitVec 12) → Instr) : Dec Instr := do
  noN f.n
  zero f.t
  let g ← SSrc.dec f.d
  pure (k g (f.a ++ f.b))

/-- Encodes the operands of shape Csrw (R63 to R68). -/
def encCsrw (cls : BitVec 2) (op : BitVec 7) (g : SSrc) (c : BitVec 12) : Fields :=
  (Fields.mk false cls op (0) (g.enc)
    (c.extractLsb' 6 6) (c.extractLsb' 0 6))

/-- Decodes the operands of shape Sys (R63 to R68). -/
def decSys (f : Fields) (k : (BitVec 6) → Instr) : Dec Instr := do
  noN f.n
  zero f.t
  zero f.d
  zero f.a
  pure (k (f.b))

/-- Encodes the operands of shape Sys (R63 to R68). -/
def encSys (cls : BitVec 2) (op : BitVec 7) (f : BitVec 6) : Fields :=
  (Fields.mk false cls op (0) (0)
    (0) (f))

/-- Decodes the operands of shape R1d (R63 to R68). -/
def decR1d (f : Fields) (k : Bool → SDst → Instr) : Dec Instr := do
  zero f.t
  let d ← finDec 56 f.d
  zero f.a
  zero f.b
  pure (k (f.n) d)

/-- Encodes the operands of shape R1d (R63 to R68). -/
def encR1d (cls : BitVec 2) (op : BitVec 7) (n : Bool) (d : SDst) : Fields :=
  (Fields.mk n cls op (0) (finEnc d)
    (0) (0))

/-- Decodes the operands of shape V3 (R63 to R68). -/
def decV3 (f : Fields) (k : Bool → ITy → VDst → VSrc → VSrc → Instr) : Dec Instr := do
  let t ← ITy.dec f.t
  let d ← VDst.dec f.d
  let a ← VSrc.dec f.a
  let b ← VSrc.dec f.b
  pure (k (f.n) t d a b)

/-- Encodes the operands of shape V3 (R63 to R68). -/
def encV3 (cls : BitVec 2) (op : BitVec 7) (n : Bool) (t : ITy) (d : VDst) (a : VSrc) (b : VSrc) : Fields :=
  (Fields.mk n cls op (t.enc) (d.enc)
    (a.enc) (b.enc))

/-- Decodes the operands of shape V2 (R63 to R68). -/
def decV2 (f : Fields) (k : Bool → ITy → VDst → VSrc → Instr) : Dec Instr := do
  let t ← ITy.dec f.t
  let d ← VDst.dec f.d
  let a ← VSrc.dec f.a
  zero f.b
  pure (k (f.n) t d a)

/-- Encodes the operands of shape V2 (R63 to R68). -/
def encV2 (cls : BitVec 2) (op : BitVec 7) (n : Bool) (t : ITy) (d : VDst) (a : VSrc) : Fields :=
  (Fields.mk n cls op (t.enc) (d.enc)
    (a.enc) (0))

/-- Decodes the operands of shape Vc (R63 to R68). -/
def decVc (f : Fields) (k : Bool → ITy → PReg → VSrc → VSrc → Instr) : Dec Instr := do
  let t ← ITy.dec f.t
  let d ← finDec 16 f.d
  let a ← VSrc.dec f.a
  let b ← VSrc.dec f.b
  pure (k (f.n) t d a b)

/-- Encodes the operands of shape Vc (R63 to R68). -/
def encVc (cls : BitVec 2) (op : BitVec 7) (n : Bool) (t : ITy) (d : PReg) (a : VSrc) (b : VSrc) : Fields :=
  (Fields.mk n cls op (t.enc) (finEnc d)
    (a.enc) (b.enc))

/-- Decodes the operands of shape Vp (R63 to R68). -/
def decVp (f : Fields) (k : Bool → ITy → VDst → VSrc → PReg → Instr) : Dec Instr := do
  let t ← ITy.dec f.t
  let d ← VDst.dec f.d
  let a ← VSrc.dec f.a
  let p ← finDec 16 f.b
  pure (k (f.n) t d a p)

/-- Encodes the operands of shape Vp (R63 to R68). -/
def encVp (cls : BitVec 2) (op : BitVec 7) (n : Bool) (t : ITy) (d : VDst) (a : VSrc) (p : PReg) : Fields :=
  (Fields.mk n cls op (t.enc) (d.enc)
    (a.enc) (finEnc p))

/-- Decodes the operands of shape F3 (R63 to R68). -/
def decF3 (f : Fields) (k : Bool → FTy → VDst → VSrc → VSrc → Instr) : Dec Instr := do
  let t ← FTy.dec f.t
  let d ← VDst.dec f.d
  let a ← VSrc.dec f.a
  let b ← VSrc.dec f.b
  pure (k (f.n) t d a b)

/-- Encodes the operands of shape F3 (R63 to R68). -/
def encF3 (cls : BitVec 2) (op : BitVec 7) (n : Bool) (t : FTy) (d : VDst) (a : VSrc) (b : VSrc) : Fields :=
  (Fields.mk n cls op (t.enc) (d.enc)
    (a.enc) (b.enc))

/-- Decodes the operands of shape F2 (R63 to R68). -/
def decF2 (f : Fields) (k : Bool → FTy → VDst → VSrc → Instr) : Dec Instr := do
  let t ← FTy.dec f.t
  let d ← VDst.dec f.d
  let a ← VSrc.dec f.a
  zero f.b
  pure (k (f.n) t d a)

/-- Encodes the operands of shape F2 (R63 to R68). -/
def encF2 (cls : BitVec 2) (op : BitVec 7) (n : Bool) (t : FTy) (d : VDst) (a : VSrc) : Fields :=
  (Fields.mk n cls op (t.enc) (d.enc)
    (a.enc) (0))

/-- Decodes the operands of shape Fc (R63 to R68). -/
def decFc (f : Fields) (k : Bool → FTy → PReg → VSrc → VSrc → Instr) : Dec Instr := do
  let t ← FTy.dec f.t
  let d ← finDec 16 f.d
  let a ← VSrc.dec f.a
  let b ← VSrc.dec f.b
  pure (k (f.n) t d a b)

/-- Encodes the operands of shape Fc (R63 to R68). -/
def encFc (cls : BitVec 2) (op : BitVec 7) (n : Bool) (t : FTy) (d : PReg) (a : VSrc) (b : VSrc) : Fields :=
  (Fields.mk n cls op (t.enc) (finEnc d)
    (a.enc) (b.enc))

/-- Decodes the operands of shape Cvt (R63 to R68). -/
def decCvt (f : Fields) (k : Bool → ElTy → VDst → VSrc → ElTy → Instr) : Dec Instr := do
  zero (f.b.extractLsb' 5 1)
  let t ← ElTy.dec (f.b.getLsbD 4) f.t
  let d ← VDst.dec f.d
  let a ← VSrc.dec f.a
  let src ← ElTy.dec (f.b.getLsbD 3) (f.b.extractLsb' 0 3)
  pure (k (f.n) t d a src)

/-- Encodes the operands of shape Cvt (R63 to R68). -/
def encCvt (cls : BitVec 2) (op : BitVec 7) (n : Bool) (t : ElTy) (d : VDst) (a : VSrc) (src : ElTy) : Fields :=
  (Fields.mk n cls op (t.code) (d.enc)
    (a.enc) (0#1 ++ BitVec.ofBool t.isF ++ BitVec.ofBool src.isF ++ src.code))

/-- Decodes the operands of shape Viota (R63 to R68). -/
def decViota (f : Fields) (k : Bool → ITy → VDst → PReg → Instr) : Dec Instr := do
  let t ← ITy.dec f.t
  let d ← VDst.dec f.d
  let p ← finDec 16 f.a
  zero f.b
  pure (k (f.n) t d p)

/-- Encodes the operands of shape Viota (R63 to R68). -/
def encViota (cls : BitVec 2) (op : BitVec 7) (n : Bool) (t : ITy) (d : VDst) (p : PReg) : Fields :=
  (Fields.mk n cls op (t.enc) (d.enc)
    (finEnc p) (0))

/-- Decodes the operands of shape VpX (R63 to R68). -/
def decVpX (f : Fields) (k : Bool → ITy → VDst → VSrc → PReg → Instr) : Dec Instr := do
  let t ← ITy.dec f.t
  let d ← VDst.dec f.d
  let a ← VSrc.dec f.a
  let p ← finDec 16 (f.b ^^^ 16)
  pure (k (f.n) t d a p)

/-- Encodes the operands of shape VpX (R63 to R68). -/
def encVpX (cls : BitVec 2) (op : BitVec 7) (n : Bool) (t : ITy) (d : VDst) (a : VSrc) (p : PReg) : Fields :=
  (Fields.mk n cls op (t.enc) (d.enc)
    (a.enc) (finEnc p ^^^ 16))

/-- Decodes the operands of shape CmpxI (R63 to R68). -/
def decCmpxI (f : Fields) (k : Bool → ITy → VDst → VSrc → Bool → Bool → (BitVec 4) → Instr) : Dec Instr := do
  let t ← ITy.dec f.t
  let d ← VDst.dec f.d
  let a ← VSrc.dec f.a
  pure (k (f.n) t d a (f.b.getLsbD 5) (f.b.getLsbD 4) (f.b.extractLsb' 0 4))

/-- Encodes the operands of shape CmpxI (R63 to R68). -/
def encCmpxI (cls : BitVec 2) (op : BitVec 7) (n : Bool) (t : ITy) (d : VDst) (a : VSrc) (desc : Bool) (flip : Bool) (j : BitVec 4) : Fields :=
  (Fields.mk n cls op (t.enc) (d.enc)
    (a.enc) (BitVec.ofBool desc ++ BitVec.ofBool flip ++ j))

/-- Decodes the operands of shape Pset (R63 to R68). -/
def decPset (f : Fields) (k : Bool → PReg → (BitVec 12) → Instr) : Dec Instr := do
  zero f.t
  let d ← finDec 16 f.d
  pure (k (f.n) d (f.a ++ f.b))

/-- Encodes the operands of shape Pset (R63 to R68). -/
def encPset (cls : BitVec 2) (op : BitVec 7) (n : Bool) (d : PReg) (k : BitVec 12) : Fields :=
  (Fields.mk n cls op (0) (finEnc d)
    (k.extractLsb' 6 6) (k.extractLsb' 0 6))

/-- Decodes the operands of shape Pcnt (R63 to R68). -/
def decPcnt (f : Fields) (k : Bool → VDst → PReg → Instr) : Dec Instr := do
  zero f.t
  let d ← VDst.dec f.d
  let a ← finDec 16 f.a
  zero f.b
  pure (k (f.n) d a)

/-- Encodes the operands of shape Pcnt (R63 to R68). -/
def encPcnt (cls : BitVec 2) (op : BitVec 7) (n : Bool) (d : VDst) (a : PReg) : Fields :=
  (Fields.mk n cls op (0) (d.enc)
    (finEnc a) (0))

/-- Decodes the operands of shape Fp (R63 to R68). -/
def decFp (f : Fields) (k : Bool → FTy → VDst → VSrc → PReg → Instr) : Dec Instr := do
  let t ← FTy.dec f.t
  let d ← VDst.dec f.d
  let a ← VSrc.dec f.a
  let p ← finDec 16 f.b
  pure (k (f.n) t d a p)

/-- Encodes the operands of shape Fp (R63 to R68). -/
def encFp (cls : BitVec 2) (op : BitVec 7) (n : Bool) (t : FTy) (d : VDst) (a : VSrc) (p : PReg) : Fields :=
  (Fields.mk n cls op (t.enc) (d.enc)
    (a.enc) (finEnc p))

/-- Decodes the operands of shape FpX (R63 to R68). -/
def decFpX (f : Fields) (k : Bool → FTy → VDst → VSrc → PReg → Instr) : Dec Instr := do
  let t ← FTy.dec f.t
  let d ← VDst.dec f.d
  let a ← VSrc.dec f.a
  let p ← finDec 16 (f.b ^^^ 16)
  pure (k (f.n) t d a p)

/-- Encodes the operands of shape FpX (R63 to R68). -/
def encFpX (cls : BitVec 2) (op : BitVec 7) (n : Bool) (t : FTy) (d : VDst) (a : VSrc) (p : PReg) : Fields :=
  (Fields.mk n cls op (t.enc) (d.enc)
    (a.enc) (finEnc p ^^^ 16))

/-- Decodes the operands of shape CmpxF (R63 to R68). -/
def decCmpxF (f : Fields) (k : Bool → FTy → VDst → VSrc → Bool → Bool → (BitVec 4) → Instr) : Dec Instr := do
  let t ← FTy.dec f.t
  let d ← VDst.dec f.d
  let a ← VSrc.dec f.a
  pure (k (f.n) t d a (f.b.getLsbD 5) (f.b.getLsbD 4) (f.b.extractLsb' 0 4))

/-- Encodes the operands of shape CmpxF (R63 to R68). -/
def encCmpxF (cls : BitVec 2) (op : BitVec 7) (n : Bool) (t : FTy) (d : VDst) (a : VSrc) (desc : Bool) (flip : Bool) (j : BitVec 4) : Fields :=
  (Fields.mk n cls op (t.enc) (d.enc)
    (a.enc) (BitVec.ofBool desc ++ BitVec.ofBool flip ++ j))

/-- Decodes the operands of shape Lds (R63 to R68). -/
def decLds (f : Fields) (k : Bool → ITy → VDst → SSrc → (BitVec 6) → Instr) : Dec Instr := do
  let t ← ITy.dec f.t
  let g ← VDst.dec f.d
  let b ← SSrc.dec f.a
  pure (k (f.n) t g b (f.b))

/-- Encodes the operands of shape Lds (R63 to R68). -/
def encLds (cls : BitVec 2) (op : BitVec 7) (n : Bool) (t : ITy) (g : VDst) (b : SSrc) (off : BitVec 6) : Fields :=
  (Fields.mk n cls op (t.enc) (g.enc)
    (b.enc) (off))

/-- Decodes the operands of shape Sts (R63 to R68). -/
def decSts (f : Fields) (k : ITy → VSrc → SSrc → (BitVec 6) → Instr) : Dec Instr := do
  noN f.n
  let t ← ITy.dec f.t
  let g ← VSrc.dec f.d
  let b ← SSrc.dec f.a
  pure (k t g b (f.b))

/-- Encodes the operands of shape Sts (R63 to R68). -/
def encSts (cls : BitVec 2) (op : BitVec 7) (t : ITy) (g : VSrc) (b : SSrc) (off : BitVec 6) : Fields :=
  (Fields.mk false cls op (t.enc) (g.enc)
    (b.enc) (off))

/-- Decodes the operands of shape Ldss (R63 to R68). -/
def decLdss (f : Fields) (k : Bool → (BitVec 3) → SDst → SSrc → (BitVec 6) → Instr) : Dec Instr := do
  let g ← finDec 56 f.d
  let b ← SSrc.dec f.a
  pure (k (f.n) (f.t) g b (f.b))

/-- Encodes the operands of shape Ldss (R63 to R68). -/
def encLdss (cls : BitVec 2) (op : BitVec 7) (n : Bool) (z : BitVec 3) (g : SDst) (b : SSrc) (off : BitVec 6) : Fields :=
  (Fields.mk n cls op (z) (finEnc g)
    (b.enc) (off))

/-- Decodes the operands of shape Stss (R63 to R68). -/
def decStss (f : Fields) (k : (BitVec 3) → SSrc → SSrc → (BitVec 6) → Instr) : Dec Instr := do
  noN f.n
  let g ← SSrc.dec f.d
  let b ← SSrc.dec f.a
  pure (k (f.t) g b (f.b))

/-- Encodes the operands of shape Stss (R63 to R68). -/
def encStss (cls : BitVec 2) (op : BitVec 7) (z : BitVec 3) (g : SSrc) (b : SSrc) (off : BitVec 6) : Fields :=
  (Fields.mk false cls op (z) (g.enc)
    (b.enc) (off))

/-- Decodes the operands of shape Ldx (R63 to R68). -/
def decLdx (f : Fields) (k : Bool → ITy → VDst → SSrc → VSrc → Instr) : Dec Instr := do
  let t ← ITy.dec f.t
  let g ← VDst.dec f.d
  let b ← SSrc.dec f.a
  let i ← VSrc.dec f.b
  pure (k (f.n) t g b i)

/-- Encodes the operands of shape Ldx (R63 to R68). -/
def encLdx (cls : BitVec 2) (op : BitVec 7) (n : Bool) (t : ITy) (g : VDst) (b : SSrc) (i : VSrc) : Fields :=
  (Fields.mk n cls op (t.enc) (g.enc)
    (b.enc) (i.enc))

/-- Decodes the operands of shape Stx (R63 to R68). -/
def decStx (f : Fields) (k : ITy → VSrc → SSrc → VSrc → Instr) : Dec Instr := do
  noN f.n
  let t ← ITy.dec f.t
  let g ← VSrc.dec f.d
  let b ← SSrc.dec f.a
  let i ← VSrc.dec f.b
  pure (k t g b i)

/-- Encodes the operands of shape Stx (R63 to R68). -/
def encStx (cls : BitVec 2) (op : BitVec 7) (t : ITy) (g : VSrc) (b : SSrc) (i : VSrc) : Fields :=
  (Fields.mk false cls op (t.enc) (g.enc)
    (b.enc) (i.enc))

/-- Decodes the operands of shape Rab (R63 to R68). -/
def decRab (f : Fields) (k : SSrc → SSrc → Instr) : Dec Instr := do
  noN f.n
  zero f.t
  zero f.d
  let a ← SSrc.dec f.a
  let b ← SSrc.dec f.b
  pure (k a b)

/-- Encodes the operands of shape Rab (R63 to R68). -/
def encRab (cls : BitVec 2) (op : BitVec 7) (a : SSrc) (b : SSrc) : Fields :=
  (Fields.mk false cls op (0) (0)
    (a.enc) (b.enc))

/-- Decodes the operands of shape Mtx (R63 to R68). -/
def decMtx (f : Fields) (k : (Fin 8) → Bool → (Option BarOp) → SSrc → Instr) : Dec Instr := do
  noN f.n
  zero (f.a.extractLsb' 1 1)
  let bar ← barOptDec (f.a.getLsbD 0) (f.d.getLsbD 4) (f.d.extractLsb' 0 4 ++ f.a.extractLsb' 2 4)
  let x ← SSrc.dec f.b
  pure (k (f.t.toFin) (f.d.getLsbD 5) bar x)

/-- Encodes the operands of shape Mtx (R63 to R68). -/
def encMtx (cls : BitVec 2) (op : BitVec 7) (h : Fin 8) (sw : Bool) (bar : Option BarOp) (x : SSrc) : Fields :=
  (Fields.mk false cls op (BitVec.ofFin (w := 3) h) (BitVec.ofBool sw ++ BitVec.ofBool (barOptBn bar) ++ (barOptField bar).extractLsb' 4 4)
    ((barOptField bar).extractLsb' 0 4 ++ 0#1 ++ BitVec.ofBool bar.isSome) (x.enc))

/-- Decodes the operands of shape Accrd (R63 to R68). -/
def decAccrd (f : Fields) (k : Bool → VDst → SSrc → Instr) : Dec Instr := do
  zero f.t
  let d ← VDst.dec f.d
  let a ← SSrc.dec f.a
  zero f.b
  pure (k (f.n) d a)

/-- Encodes the operands of shape Accrd (R63 to R68). -/
def encAccrd (cls : BitVec 2) (op : BitVec 7) (n : Bool) (d : VDst) (a : SSrc) : Fields :=
  (Fields.mk n cls op (0) (d.enc)
    (a.enc) (0))

/-- Decodes the operands of shape Mwait (R63 to R68). -/
def decMwait (f : Fields) (k : SDst → SSrc → Instr) : Dec Instr := do
  noN f.n
  zero f.t
  let d ← finDec 56 f.d
  let a ← SSrc.dec f.a
  zero f.b
  pure (k d a)

/-- Encodes the operands of shape Mwait (R63 to R68). -/
def encMwait (cls : BitVec 2) (op : BitVec 7) (d : SDst) (a : SSrc) : Fields :=
  (Fields.mk false cls op (0) (finEnc d)
    (a.enc) (0))

/-- Decodes the operands of shape Ld (R63 to R68). -/
def decLd (f : Fields) (k : Bool → (BitVec 3) → SDst → SSrc → (BitVec 4) → Instr) : Dec Instr := do
  let g ← finDec 56 f.d
  let b ← SSrc.dec f.a
  let off ← ordPlain f.b
  pure (k (f.n) (f.t) g b off)

/-- Encodes the operands of shape Ld (R63 to R68). -/
def encLd (cls : BitVec 2) (op : BitVec 7) (n : Bool) (z : BitVec 3) (g : SDst) (b : SSrc) (off : BitVec 4) : Fields :=
  (Fields.mk n cls op (z) (finEnc g)
    (b.enc) (0#2 ++ off))

/-- Decodes the operands of shape LdA (R63 to R68). -/
def decLdA (f : Fields) (k : Bool → (BitVec 3) → SDst → SSrc → Scope → Instr) : Dec Instr := do
  let g ← finDec 56 f.d
  let b ← SSrc.dec f.a
  let sc ← ordScope 1 f.b
  pure (k (f.n) (f.t) g b sc)

/-- Encodes the operands of shape LdA (R63 to R68). -/
def encLdA (cls : BitVec 2) (op : BitVec 7) (n : Bool) (z : BitVec 3) (g : SDst) (b : SSrc) (sc : Scope) : Fields :=
  (Fields.mk n cls op (z) (finEnc g)
    (b.enc) (encOrdScope 1 sc))

/-- Decodes the operands of shape St (R63 to R68). -/
def decSt (f : Fields) (k : (BitVec 3) → SSrc → SSrc → (BitVec 4) → Instr) : Dec Instr := do
  noN f.n
  let g ← SSrc.dec f.d
  let b ← SSrc.dec f.a
  let off ← ordPlain f.b
  pure (k (f.t) g b off)

/-- Encodes the operands of shape St (R63 to R68). -/
def encSt (cls : BitVec 2) (op : BitVec 7) (z : BitVec 3) (g : SSrc) (b : SSrc) (off : BitVec 4) : Fields :=
  (Fields.mk false cls op (z) (g.enc)
    (b.enc) (0#2 ++ off))

/-- Decodes the operands of shape StR (R63 to R68). -/
def decStR (f : Fields) (k : (BitVec 3) → SSrc → SSrc → Scope → Instr) : Dec Instr := do
  noN f.n
  let g ← SSrc.dec f.d
  let b ← SSrc.dec f.a
  let sc ← ordScope 2 f.b
  pure (k (f.t) g b sc)

/-- Encodes the operands of shape StR (R63 to R68). -/
def encStR (cls : BitVec 2) (op : BitVec 7) (z : BitVec 3) (g : SSrc) (b : SSrc) (sc : Scope) : Fields :=
  (Fields.mk false cls op (z) (g.enc)
    (b.enc) (encOrdScope 2 sc))

/-- Decodes the operands of shape Vld (R63 to R68). -/
def decVld (f : Fields) (k : Bool → ITy → VDst → SSrc → (BitVec 4) → Instr) : Dec Instr := do
  let t ← ITy.dec f.t
  let g ← VDst.dec f.d
  let b ← SSrc.dec f.a
  let off ← ordPlain f.b
  pure (k (f.n) t g b off)

/-- Encodes the operands of shape Vld (R63 to R68). -/
def encVld (cls : BitVec 2) (op : BitVec 7) (n : Bool) (t : ITy) (g : VDst) (b : SSrc) (off : BitVec 4) : Fields :=
  (Fields.mk n cls op (t.enc) (g.enc)
    (b.enc) (0#2 ++ off))

/-- Decodes the operands of shape VldA (R63 to R68). -/
def decVldA (f : Fields) (k : Bool → ITy → VDst → SSrc → Scope → Instr) : Dec Instr := do
  let t ← ITy.dec f.t
  let g ← VDst.dec f.d
  let b ← SSrc.dec f.a
  let sc ← ordScope 1 f.b
  pure (k (f.n) t g b sc)

/-- Encodes the operands of shape VldA (R63 to R68). -/
def encVldA (cls : BitVec 2) (op : BitVec 7) (n : Bool) (t : ITy) (g : VDst) (b : SSrc) (sc : Scope) : Fields :=
  (Fields.mk n cls op (t.enc) (g.enc)
    (b.enc) (encOrdScope 1 sc))

/-- Decodes the operands of shape Vst (R63 to R68). -/
def decVst (f : Fields) (k : ITy → VSrc → SSrc → (BitVec 4) → Instr) : Dec Instr := do
  noN f.n
  let t ← ITy.dec f.t
  let g ← VSrc.dec f.d
  let b ← SSrc.dec f.a
  let off ← ordPlain f.b
  pure (k t g b off)

/-- Encodes the operands of shape Vst (R63 to R68). -/
def encVst (cls : BitVec 2) (op : BitVec 7) (t : ITy) (g : VSrc) (b : SSrc) (off : BitVec 4) : Fields :=
  (Fields.mk false cls op (t.enc) (g.enc)
    (b.enc) (0#2 ++ off))

/-- Decodes the operands of shape VstR (R63 to R68). -/
def decVstR (f : Fields) (k : ITy → VSrc → SSrc → Scope → Instr) : Dec Instr := do
  noN f.n
  let t ← ITy.dec f.t
  let g ← VSrc.dec f.d
  let b ← SSrc.dec f.a
  let sc ← ordScope 2 f.b
  pure (k t g b sc)

/-- Encodes the operands of shape VstR (R63 to R68). -/
def encVstR (cls : BitVec 2) (op : BitVec 7) (t : ITy) (g : VSrc) (b : SSrc) (sc : Scope) : Fields :=
  (Fields.mk false cls op (t.enc) (g.enc)
    (b.enc) (encOrdScope 2 sc))

/-- Decodes the operands of shape Ldf (R63 to R68). -/
def decLdf (f : Fields) (k : Bool → SDst → SSrc → Instr) : Dec Instr := do
  zero f.t
  let g ← finDec 56 f.d
  let b ← SSrc.dec f.a
  zero f.b
  pure (k (f.n) g b)

/-- Encodes the operands of shape Ldf (R63 to R68). -/
def encLdf (cls : BitVec 2) (op : BitVec 7) (n : Bool) (g : SDst) (b : SSrc) : Fields :=
  (Fields.mk n cls op (0) (finEnc g)
    (b.enc) (0))

/-- Decodes the operands of shape LdfA (R63 to R68). -/
def decLdfA (f : Fields) (k : Bool → SDst → SSrc → Scope → Instr) : Dec Instr := do
  zero f.t
  let g ← finDec 56 f.d
  let b ← SSrc.dec f.a
  let sc ← ordScope 1 f.b
  pure (k (f.n) g b sc)

/-- Encodes the operands of shape LdfA (R63 to R68). -/
def encLdfA (cls : BitVec 2) (op : BitVec 7) (n : Bool) (g : SDst) (b : SSrc) (sc : Scope) : Fields :=
  (Fields.mk n cls op (0) (finEnc g)
    (b.enc) (encOrdScope 1 sc))

/-- Decodes the operands of shape Stf (R63 to R68). -/
def decStf (f : Fields) (k : SSrc → SSrc → Instr) : Dec Instr := do
  noN f.n
  zero f.t
  let g ← SSrc.dec f.d
  let b ← SSrc.dec f.a
  zero f.b
  pure (k g b)

/-- Encodes the operands of shape Stf (R63 to R68). -/
def encStf (cls : BitVec 2) (op : BitVec 7) (g : SSrc) (b : SSrc) : Fields :=
  (Fields.mk false cls op (0) (g.enc)
    (b.enc) (0))

/-- Decodes the operands of shape StfR (R63 to R68). -/
def decStfR (f : Fields) (k : SSrc → SSrc → Scope → Instr) : Dec Instr := do
  noN f.n
  zero f.t
  let g ← SSrc.dec f.d
  let b ← SSrc.dec f.a
  let sc ← ordScope 2 f.b
  pure (k g b sc)

/-- Encodes the operands of shape StfR (R63 to R68). -/
def encStfR (cls : BitVec 2) (op : BitVec 7) (g : SSrc) (b : SSrc) (sc : Scope) : Fields :=
  (Fields.mk false cls op (0) (g.enc)
    (b.enc) (encOrdScope 2 sc))

/-- Decodes the operands of shape Pref (R63 to R68). -/
def decPref (f : Fields) (k : Bool → SSrc → (BitVec 4) → Instr) : Dec Instr := do
  noN f.n
  zero f.t
  let l1 ← flagDec f.d
  let b ← SSrc.dec f.a
  let off ← ordPlain f.b
  pure (k l1 b off)

/-- Encodes the operands of shape Pref (R63 to R68). -/
def encPref (cls : BitVec 2) (op : BitVec 7) (l1 : Bool) (b : SSrc) (off : BitVec 4) : Fields :=
  (Fields.mk false cls op (0) (flagEnc l1)
    (b.enc) (0#2 ++ off))

/-- Decodes the operands of shape Fence (R63 to R68). -/
def decFence (f : Fields) (k : Scope → Instr) : Dec Instr := do
  noN f.n
  let sc ← Scope.dec f.t
  zero f.a
  zero f.b
  pure (k sc)

/-- Encodes the operands of shape Fence (R63 to R68). -/
def encFence (cls : BitVec 2) (op : BitVec 7) (k : BitVec 6) (sc : Scope) : Fields :=
  (Fields.mk false cls op (sc.enc) (k)
    (0) (0))

/-- Decodes the operands of shape Fencex (R63 to R68). -/
def decFencex (f : Fields) (k : Scope → (BitVec 3) → (BitVec 3) → Instr) : Dec Instr := do
  noN f.n
  let sc ← Scope.dec f.t
  zero f.a
  zero f.b
  pure (k sc (f.d.extractLsb' 3 3) (f.d.extractLsb' 0 3))

/-- Encodes the operands of shape Fencex (R63 to R68). -/
def encFencex (cls : BitVec 2) (op : BitVec 7) (sc : Scope) (p : BitVec 3) (q : BitVec 3) : Fields :=
  (Fields.mk false cls op (sc.enc) (p ++ q)
    (0) (0))

/-- Decodes the operands of shape Atom (R63 to R68). -/
def decAtom (f : Fields) (k : Bool → Scope → SDst → SSrc → Ord → Bool → Instr) : Dec Instr := do
  let sc ← Scope.dec f.t
  let g ← finDec 56 f.d
  let b ← SSrc.dec f.a
  let o ← Ord.dec (f.b.extractLsb' 4 2)
  pure (k (f.n) sc g b o (f.b.getLsbD 3))

/-- Encodes the operands of shape Atom (R63 to R68). -/
def encAtom (cls : BitVec 2) (op : BitVec 7) (k : BitVec 3) (n : Bool) (sc : Scope) (g : SDst) (b : SSrc) (o : Ord) (sz : Bool) : Fields :=
  (Fields.mk n cls op (sc.enc) (finEnc g)
    (b.enc) (o.enc ++ BitVec.ofBool sz ++ k))

/-- Decodes the operands of shape Copy (R63 to R68). -/
def decCopy (f : Fields) (k : (Fin 8) → Bool → BarOp → Bool → SDst → Instr) : Dec Instr := do
  noN f.n
  let bar ← BarOp.dec (f.d.getLsbD 4) (f.d.extractLsb' 0 4 ++ f.a.extractLsb' 2 4)
  let x ← finDec 56 f.b
  pure (k (f.t.toFin) (f.d.getLsbD 5) bar (f.a.getLsbD 1) x)

/-- Encodes the operands of shape Copy (R63 to R68). -/
def encCopy (cls : BitVec 2) (op : BitVec 7) (k : BitVec 1) (h : Fin 8) (sw : Bool) (bar : BarOp) (dense : Bool) (x : SDst) : Fields :=
  (Fields.mk false cls op (BitVec.ofFin (w := 3) h) (BitVec.ofBool sw ++ BitVec.ofBool bar.bn ++ bar.field.extractLsb' 4 4)
    (bar.field.extractLsb' 0 4 ++ BitVec.ofBool dense ++ k) (finEnc x))

/-- Decodes the operands of shape Copym (R63 to R68). -/
def decCopym (f : Fields) (k : (Fin 8) → Bool → BarOp → Bool → SDst → Instr) : Dec Instr := do
  noN f.n
  let bar ← BarOp.dec (f.d.getLsbD 4) (f.d.extractLsb' 0 4 ++ f.a.extractLsb' 2 4)
  zero (f.a.extractLsb' 1 1)
  let x ← finDec 56 f.b
  pure (k (f.t.toFin) (f.d.getLsbD 5) bar (f.a.getLsbD 0) x)

/-- Encodes the operands of shape Copym (R63 to R68). -/
def encCopym (cls : BitVec 2) (op : BitVec 7) (h : Fin 8) (sw : Bool) (bar : BarOp) (post : Bool) (x : SDst) : Fields :=
  (Fields.mk false cls op (BitVec.ofFin (w := 3) h) (BitVec.ofBool sw ++ BitVec.ofBool bar.bn ++ bar.field.extractLsb' 4 4)
    (bar.field.extractLsb' 0 4 ++ 0#1 ++ BitVec.ofBool post) (finEnc x))

/-- Decodes the operands of shape Copys (R63 to R68). -/
def decCopys (f : Fields) (k : (Fin 8) → Bool → BarOp → SDst → Instr) : Dec Instr := do
  noN f.n
  let bar ← BarOp.dec (f.d.getLsbD 4) (f.d.extractLsb' 0 4 ++ f.a.extractLsb' 2 4)
  let x ← finDec 56 f.b
  pure (k (f.t.toFin) (f.d.getLsbD 5) bar x)

/-- Encodes the operands of shape Copys (R63 to R68). -/
def encCopys (cls : BitVec 2) (op : BitVec 7) (k : BitVec 2) (h : Fin 8) (sw : Bool) (bar : BarOp) (x : SDst) : Fields :=
  (Fields.mk false cls op (BitVec.ofFin (w := 3) h) (BitVec.ofBool sw ++ BitVec.ofBool bar.bn ++ bar.field.extractLsb' 4 4)
    (bar.field.extractLsb' 0 4 ++ k) (finEnc x))

/-- Decodes the operands of shape Spawn (R63 to R68). -/
def decSpawn (f : Fields) (k : (Option BarOp) → SSrc → Instr) : Dec Instr := do
  noN f.n
  zero f.t
  zero (f.d.extractLsb' 5 1)
  zero (f.a.extractLsb' 1 1)
  let bar ← barOptDec (f.a.getLsbD 0) (f.d.getLsbD 4) (f.d.extractLsb' 0 4 ++ f.a.extractLsb' 2 4)
  let x ← SSrc.dec f.b
  pure (k bar x)

/-- Encodes the operands of shape Spawn (R63 to R68). -/
def encSpawn (cls : BitVec 2) (op : BitVec 7) (bar : Option BarOp) (x : SSrc) : Fields :=
  (Fields.mk false cls op (0) (0#1 ++ BitVec.ofBool (barOptBn bar) ++ (barOptField bar).extractLsb' 4 4)
    ((barOptField bar).extractLsb' 0 4 ++ 0#1 ++ BitVec.ofBool bar.isSome) (x.enc))

/-- Decodes the operands of shape Pipw (R63 to R68). -/
def decPipw (f : Fields) (k : (Fin 8) → PipeSrc → Instr) : Dec Instr := do
  noN f.n
  zero (f.t.extractLsb' 1 2)
  let e ← finDec 8 f.d
  let src ← PipeSrc.dec (f.t.getLsbD 0) f.a
  zero f.b
  pure (k e src)

/-- Encodes the operands of shape Pipw (R63 to R68). -/
def encPipw (cls : BitVec 2) (op : BitVec 7) (e : Fin 8) (src : PipeSrc) : Fields :=
  (Fields.mk false cls op (src.tag) (finEnc e)
    (src.enc) (0))

/-- Decodes the operands of shape Pipr (R63 to R68). -/
def decPipr (f : Fields) (k : Bool → PipeDst → (Fin 8) → Instr) : Dec Instr := do
  zero (f.t.extractLsb' 1 2)
  let dst ← PipeDst.dec (f.t.getLsbD 0) f.d
  zero f.a
  let e ← finDec 8 f.b
  pure (k (f.n) dst e)

/-- Encodes the operands of shape Pipr (R63 to R68). -/
def encPipr (cls : BitVec 2) (op : BitVec 7) (n : Bool) (dst : PipeDst) (e : Fin 8) : Fields :=
  (Fields.mk n cls op (dst.tag) (dst.enc)
    (0) (finEnc e))

/-- Decodes the operands of shape Pipq (R63 to R68). -/
def decPipq (f : Fields) (k : Bool → SDst → (Fin 8) → Instr) : Dec Instr := do
  zero f.t
  let d ← finDec 56 f.d
  zero f.a
  let e ← finDec 8 f.b
  pure (k (f.n) d e)

/-- Encodes the operands of shape Pipq (R63 to R68). -/
def encPipq (cls : BitVec 2) (op : BitVec 7) (n : Bool) (d : SDst) (e : Fin 8) : Fields :=
  (Fields.mk n cls op (0) (finEnc d)
    (0) (finEnc e))

/-- Decodes the operands of shape Barx (R63 to R68). -/
def decBarx (f : Fields) (k : BarOp → SSrc → Instr) : Dec Instr := do
  noN f.n
  zero f.t
  zero (f.d.extractLsb' 5 1)
  let bar ← BarOp.dec (f.d.getLsbD 4) (f.d.extractLsb' 0 4 ++ f.a.extractLsb' 2 4)
  let x ← SSrc.dec f.b
  pure (k bar x)

/-- Encodes the operands of shape Barx (R63 to R68). -/
def encBarx (cls : BitVec 2) (op : BitVec 7) (k : BitVec 2) (bar : BarOp) (x : SSrc) : Fields :=
  (Fields.mk false cls op (0) (0#1 ++ BitVec.ofBool bar.bn ++ bar.field.extractLsb' 4 4)
    (bar.field.extractLsb' 0 4 ++ k) (x.enc))

/-- Decodes the operands of shape Bar (R63 to R68). -/
def decBar (f : Fields) (k : BarOp → Instr) : Dec Instr := do
  noN f.n
  zero f.t
  zero (f.d.extractLsb' 5 1)
  let bar ← BarOp.dec (f.d.getLsbD 4) (f.d.extractLsb' 0 4 ++ f.a.extractLsb' 2 4)
  zero f.b
  pure (k bar)

/-- Encodes the operands of shape Bar (R63 to R68). -/
def encBar (cls : BitVec 2) (op : BitVec 7) (k : BitVec 2) (bar : BarOp) : Fields :=
  (Fields.mk false cls op (0) (0#1 ++ BitVec.ofBool bar.bn ++ bar.field.extractLsb' 4 4)
    (bar.field.extractLsb' 0 4 ++ k) (0))

/-- Decodes the operands of shape Bwait (R63 to R68). -/
def decBwait (f : Fields) (k : BarOp → SDst → Instr) : Dec Instr := do
  noN f.n
  zero f.t
  zero (f.d.extractLsb' 5 1)
  let bar ← BarOp.dec (f.d.getLsbD 4) (f.d.extractLsb' 0 4 ++ f.a.extractLsb' 2 4)
  let x ← finDec 56 f.b
  pure (k bar x)

/-- Encodes the operands of shape Bwait (R63 to R68). -/
def encBwait (cls : BitVec 2) (op : BitVec 7) (k : BitVec 2) (bar : BarOp) (x : SDst) : Fields :=
  (Fields.mk false cls op (0) (0#1 ++ BitVec.ofBool bar.bn ++ bar.field.extractLsb' 4 4)
    (bar.field.extractLsb' 0 4 ++ k) (finEnc x))

/-- Decodes the operands of shape Btry (R63 to R68). -/
def decBtry (f : Fields) (k : Bool → BarOp → SDst → Instr) : Dec Instr := do
  zero f.t
  zero (f.d.extractLsb' 5 1)
  let bar ← BarOp.dec (f.d.getLsbD 4) (f.d.extractLsb' 0 4 ++ f.a.extractLsb' 2 4)
  let x ← finDec 56 f.b
  pure (k (f.n) bar x)

/-- Encodes the operands of shape Btry (R63 to R68). -/
def encBtry (cls : BitVec 2) (op : BitVec 7) (k : BitVec 2) (n : Bool) (bar : BarOp) (x : SDst) : Fields :=
  (Fields.mk n cls op (0) (0#1 ++ BitVec.ofBool bar.bn ++ bar.field.extractLsb' 4 4)
    (bar.field.extractLsb' 0 4 ++ k) (finEnc x))

/-- Decodes the operands of shape Z (R63 to R68). -/
def decZ (f : Fields) (k : Instr) : Dec Instr := do
  noN f.n
  zero f.t
  zero f.d
  zero f.a
  zero f.b
  pure k

/-- Encodes the operands of shape Z (R63 to R68). -/
def encZ (cls : BitVec 2) (op : BitVec 7)  : Fields :=
  (Fields.mk false cls op (0) (0)
    (0) (0))

/-- Decodes the operands of CPQ's entry form (13 R309): b is 1. -/
def decR2K (f : Fields) (k : Bool → SDst → SSrc → Instr) : Dec Instr := do
  zero f.t
  let d ← finDec 56 f.d
  let a ← SSrc.dec f.a
  pure (k (f.n) d a)

/-- Encodes the operands of CPQ's entry form (13 R309): b is 1. -/
def encR2K (cls : BitVec 2) (op : BitVec 7) (n : Bool) (d : SDst) (a : SSrc) : Fields :=
  (Fields.mk n cls op 0 (finEnc d) a.enc 1)

/-- The opcodes of the S class (R75); the rest is reserved. -/
def decodeS (f : Fields) : Dec Instr :=
  match f.op.toNat with
  | 0 => decR3 f .add
  | 1 => decR3 f .sub
  | 2 => decR3 f .mul
  | 3 => decR3 f .mulh
  | 4 => decR3 f .mulhu
  | 5 => decR3 f .div
  | 6 => decR3 f .divu
  | 7 => decR3 f .rem
  | 8 => decR3 f .remu
  | 9 => decR3 f .and
  | 10 => decR3 f .or
  | 11 => decR3 f .xor
  | 12 => decR3 f .andn
  | 13 => decR3 f .shl
  | 14 => decR3 f .shr
  | 15 => decR3 f .sra
  | 16 => decR3 f .rotl
  | 17 => decR3 f .min
  | 18 => decR3 f .max
  | 19 => decR3 f .minu
  | 20 => decR3 f .maxu
  | 21 => decR2 f .clz
  | 22 => decR2 f .ctz
  | 23 => decR2 f .popc
  | 24 => decR3 f .sel
  | 25 => decRw f .exts
  | 26 => decRw f .extz
  | 27 => decR3 f .bfx
  | 28 => decR3 f .bfi
  | 29 => decR2 f .mov
  | 30 => decR3 f .adda
  | 31 => decWidf f .widf
  | 32 => decI f .addi
  | 33 => decI f .andi
  | 34 => decI f .ori
  | 35 => decI f .xori
  | 36 => decI f .shli
  | 37 => decI f .shri
  | 38 => decI f .srai
  | 39 => decIp f .cmpiEq
  | 40 => decIp f .cmpiNe
  | 41 => decIp f .cmpiLt
  | 42 => decIp f .cmpiLe
  | 43 => decIp f .cmpiLtn
  | 44 => decIp f .cmpiLen
  | 48 => decL f .li
  | 49 => decL f .lih
  | 50 => if f.t = 0 then decCmp f .cmpEq
      else if f.t = 1 then decCmp f .cmpNe
      else if f.t = 2 then decCmp f .cmpLt
      else if f.t = 3 then decCmp f .cmpLe
      else if f.t = 4 then decCmp f .cmpLtn
      else if f.t = 5 then decCmp f .cmpLen
      else .error .reserved
  | 51 => decP3 f .pand
  | 52 => decP3 f .por
  | 53 => decP3 f .pxor
  | 54 => decP2 f .pnot
  | 55 => decP2 f .pmov
  | 56 => decBr f .br
  | 57 => decCall f .call
  | 58 => decRa f .ret
  | 59 => decR2 f .jmpx
  | 60 => decLoop f .loop
  | 61 => decLoop f .loopm
  | 62 => decBrkl f .brkl
  | 64 => decRa f .sleep
  | 68 => if f.t = 0 then decShf f .shf
      else if f.t = 1 then decShf f .shfAdd
      else .error .reserved
  | 69 => if f.a.extractLsb' 3 3 = 0 then decShfi f .shfi
      else if f.a.extractLsb' 3 3 = 1 then decShfi f .shfiAdd
      else .error .reserved
  | 70 => if f.t = 0 then decShcp f .shcpD
      else if f.t = 1 then decShcp f .shcpSd
      else if f.t = 2 then decShcpM f .shcpMem
      else .error .reserved
  | 71 => decShrd f .shrd
  | 72 => decShchk f .shchk
  | 80 => decCsrr f .csrr
  | 81 => decCsrw f .csrw
  | 82 => decCsrw f .csrs
  | 83 => decCsrw f .csrc
  | 84 => decSys f .sys
  | 87 => decR2 f .freeze
  | 88 => decR2 f .pairset
  | 96 => decR1d f .ctc
  | 97 => decR2 f .budq
  | 98 => decR2 f .boost
  | 99 => decR2 f .jrd
  | 100 => decR2 f .thq
  | 63 => decZ f .ckpt
  | 65 => decZ f .stepend
  | 66 => decZ f .nop
  | 85 => decZ f .eret
  | 86 => decZ f .iflush
  | 104 => decZ f .yield
  | _ => .error .unassigned

/-- The opcodes of the V class (R75); the rest is reserved. -/
def decodeV (f : Fields) : Dec Instr :=
  match f.op.toNat with
  | 0 => decV3 f .vadd
  | 1 => decV3 f .vsub
  | 2 => decV3 f .vadds
  | 3 => decV3 f .vsubs
  | 4 => decV3 f .vmul
  | 5 => decV3 f .vmulh
  | 6 => decV3 f .vmulw
  | 7 => decV3 f .vmac
  | 8 => decV3 f .vdot
  | 9 => decV3 f .vand
  | 10 => decV3 f .vor
  | 11 => decV3 f .vxor
  | 12 => decV3 f .vandn
  | 13 => decV3 f .vshl
  | 14 => decV3 f .vshr
  | 15 => decV3 f .vsra
  | 16 => decV3 f .vmin
  | 17 => decV3 f .vmax
  | 18 => decV2 f .vabs
  | 19 => decV2 f .vneg
  | 20 => decVc f .vcmpEq
  | 21 => decVc f .vcmpNe
  | 22 => decVc f .vcmpLt
  | 23 => decVc f .vcmpLe
  | 24 => decVp f .vsel
  | 25 => decV2 f .vclz
  | 26 => decV2 f .vpopc
  | 27 => decV3 f .vdotSat
  | 32 => decF3 f .fadd
  | 33 => decF3 f .fsub
  | 34 => decF3 f .fmul
  | 35 => decF3 f .fma
  | 36 => decF3 f .fms
  | 37 => decF3 f .fnma
  | 38 => decF3 f .fmin
  | 39 => decF3 f .fmax
  | 40 => decF2 f .fabs
  | 41 => decF2 f .fneg
  | 42 => decFc f .fcmpEq
  | 43 => decFc f .fcmpNe
  | 44 => decFc f .fcmpLt
  | 45 => decFc f .fcmpLe
  | 46 => decFc f .fcmpUn
  | 47 => decF2 f .frint
  | 48 => decCvt f .vcvt
  | 49 => decCvt f .vcvtw
  | 50 => decV3 f .vpack
  | 51 => decV3 f .vqnt
  | 56 => decV2 f .vmov
  | 57 => decV3 f .vbcast
  | 58 => decV3 f .vext
  | 59 => decV3 f .vins
  | 60 => decV3 f .vperm
  | 61 => decV3 f .vzip
  | 62 => decV3 f .vunzip
  | 63 => decV3 f .vslide
  | 64 => decVp f .vcompr
  | 65 => decVp f .vexpnd
  | 66 => decViota f .viota
  | 72 => decVp f .vrsumInt
  | 73 => decVp f .vrmaxInt
  | 74 => decVp f .vrminInt
  | 75 => decVp f .vargmaxInt
  | 76 => if f.b.extractLsb' 4 2 = 0 then decVp f .vscanInt
      else if f.b.extractLsb' 4 2 = 1 then decVpX f .vscanExInt
      else .error .reserved
  | 77 => decCmpxI f .vcmpxInt
  | 80 => decPset f .pset
  | 81 => decPcnt f .pcnt
  | 82 => decP2 f .pfirst
  | 88 => decFp f .vrsumFloat
  | 89 => decFp f .vrmaxFloat
  | 90 => decFp f .vrminFloat
  | 91 => decFp f .vargmaxFloat
  | 92 => if f.b.extractLsb' 4 2 = 0 then decFp f .vscanFloat
      else if f.b.extractLsb' 4 2 = 1 then decFpX f .vscanExFloat
      else .error .reserved
  | 93 => decCmpxF f .vcmpxFloat
  | _ => .error .unassigned

/-- The opcodes of the F class (R75); the rest is reserved. -/
def decodeF (f : Fields) : Dec Instr :=
  match f.op.toNat with
  | 0 => decF2 f .exp2
  | 1 => decF2 f .log2
  | 2 => decF2 f .rcp
  | 3 => decF2 f .rsqrt
  | 4 => decF2 f .sqrt
  | 5 => decF2 f .sin
  | 6 => decF2 f .cos
  | 7 => decF2 f .tanh
  | 8 => decF2 f .erf
  | _ => .error .unassigned

/-- The opcodes of the M class (R75); the rest is reserved. -/
def decodeM (f : Fields) : Dec Instr :=
  match f.op.toNat with
  | 0 => decLds f .lds
  | 1 => decSts f .sts
  | 2 => decLdss f .ldss
  | 3 => decStss f .stss
  | 4 => decLdx f .ldsg
  | 5 => decStx f .stsx
  | 6 => decRab f .spalloc
  | 7 => decRa f .spfree
  | 8 => decRab f .renew
  | 9 => decR2 f .splife
  | 10 => decRab f .spfill
  | 16 => decMtx f .wld
  | 17 => decMtx f .mma
  | 18 => decAccrd f .accrd
  | 19 => decMtx f .accst
  | 20 => decMtx f .accld
  | 21 => decRa f .accclr
  | 22 => decRa f .mgrp
  | 23 => decMwait f .mwait
  | 32 => if f.b.extractLsb' 4 2 = 0 then decLd f .ld
      else if f.b.extractLsb' 4 2 = 1 then decLdA f .ldAcq
      else .error .reserved
  | 33 => if f.b.extractLsb' 4 2 = 0 then decSt f .st
      else if f.b.extractLsb' 4 2 = 2 then decStR f .stRel
      else .error .reserved
  | 34 => if f.b.extractLsb' 4 2 = 0 then decVld f .vld
      else if f.b.extractLsb' 4 2 = 1 then decVldA f .vldAcq
      else .error .reserved
  | 35 => if f.b.extractLsb' 4 2 = 0 then decVst f .vst
      else if f.b.extractLsb' 4 2 = 2 then decVstR f .vstRel
      else .error .reserved
  | 36 => decLdx f .vldg
  | 37 => decStx f .vstx
  | 38 => if f.b.extractLsb' 4 2 = 0 then decLdf f .ldf
      else if f.b.extractLsb' 4 2 = 1 then decLdfA f .ldfAcq
      else .error .reserved
  | 39 => if f.b.extractLsb' 4 2 = 0 then decStf f .stf
      else if f.b.extractLsb' 4 2 = 2 then decStfR f .stfRel
      else .error .reserved
  | 40 => decPref f .pref
  | 41 => if f.d = 16 then decFence f .fenceAcq
      else if f.d = 32 then decFence f .fenceRel
      else if f.d = 48 then decFence f .fenceAr
      else .error .reserved
  | 42 => decFencex f .fencex
  | 43 => if f.b.extractLsb' 0 3 = 0 then decAtom f .cas
      else .error .reserved
  | 44 => if f.b.extractLsb' 0 3 = 0 then decAtom f .atomAdd
      else if f.b.extractLsb' 0 3 = 1 then decAtom f .atomAnd
      else if f.b.extractLsb' 0 3 = 2 then decAtom f .atomOr
      else if f.b.extractLsb' 0 3 = 3 then decAtom f .atomXor
      else if f.b.extractLsb' 0 3 = 4 then decAtom f .atomMin
      else if f.b.extractLsb' 0 3 = 5 then decAtom f .atomMax
      else if f.b.extractLsb' 0 3 = 6 then decAtom f .atomMinu
      else if f.b.extractLsb' 0 3 = 7 then decAtom f .atomMaxu
      else .error .reserved
  | 45 => if f.b.extractLsb' 0 3 = 0 then decAtom f .atomSwap
      else .error .reserved
  | 48 => if f.a.extractLsb' 0 1 = 0 then decCopy f .copyOut
      else if f.a.extractLsb' 0 1 = 1 then decCopy f .copyIn
      else .error .reserved
  | 49 => decCopym f .copym
  | 50 => if f.a.extractLsb' 0 2 = 0 then decCopys f .copys
      else .error .reserved
  | 51 => if f.a.extractLsb' 0 2 = 0 then decCopys f .copyx
      else .error .reserved
  | 52 => if f.a.extractLsb' 0 1 = 0 then decCopy f .gath
      else .error .reserved
  | 53 => if f.a.extractLsb' 0 2 = 0 then decCopys f .redcAdd
      else if f.a.extractLsb' 0 2 = 1 then decCopys f .redcMax
      else if f.a.extractLsb' 0 2 = 2 then decCopys f .redcMin
      else .error .reserved
  | 54 => if f.b = 0 then decR1d f .cpqSummary
      else if f.b = 1 then decR2K f .cpqEntry
      else .error .reserved
  | 55 => decRab f .cpcan
  | 56 => decSpawn f .spawn
  | 57 => decPipw f .pipw
  | 58 => decPipr f .pipr
  | 59 => decPipq f .pipq
  | 64 => if f.a.extractLsb' 0 2 = 0 then decBarx f .binit
      else .error .reserved
  | 65 => if f.a.extractLsb' 0 2 = 0 then decBar f .barv
      else if f.a.extractLsb' 0 2 = 1 then decBarx f .barvExp
      else .error .reserved
  | 66 => if f.a.extractLsb' 0 2 = 0 then decBarx f .bexp
      else .error .reserved
  | 67 => if f.a.extractLsb' 0 2 = 0 then decBwait f .bwait
      else .error .reserved
  | 68 => if f.a.extractLsb' 0 2 = 0 then decBtry f .btry
      else .error .reserved
  | 60 => decZ f .statfl
  | _ => .error .unassigned

/-- The instruction the fields stand for, before the rules of WellFormed. -/
def decodeRaw (f : Fields) : Dec Instr :=
  match f.cls.toNat with
  | 0 => decodeS f
  | 1 => decodeV f
  | 2 => decodeF f
  | _ => decodeM f

/-- The instruction the fields stand for; a form the spec calls illegal is refused (R60, R77). -/
def decodeFields (f : Fields) : Dec Instr :=
  match decodeRaw f with
  | .ok i => if i.wf then .ok i else .error .illFormed
  | .error e => .error e

/-- The instruction of a 32-bit slot (R62); bit 31 frames the bundle and is not read here (R58). -/
def decodeSlot (w : BitVec 32) : Dec Instr := decodeFields (unpack w)

/-- The fields of a slot instruction; an event row of the table has no encoding. -/
def encodeFields (i : Instr) : Option Fields :=
  match i with
  | .add n d a b => some (encR3 0 0 n d a b)
  | .sub n d a b => some (encR3 0 1 n d a b)
  | .mul n d a b => some (encR3 0 2 n d a b)
  | .mulh n d a b => some (encR3 0 3 n d a b)
  | .mulhu n d a b => some (encR3 0 4 n d a b)
  | .div n d a b => some (encR3 0 5 n d a b)
  | .divu n d a b => some (encR3 0 6 n d a b)
  | .rem n d a b => some (encR3 0 7 n d a b)
  | .remu n d a b => some (encR3 0 8 n d a b)
  | .and n d a b => some (encR3 0 9 n d a b)
  | .or n d a b => some (encR3 0 10 n d a b)
  | .xor n d a b => some (encR3 0 11 n d a b)
  | .andn n d a b => some (encR3 0 12 n d a b)
  | .shl n d a b => some (encR3 0 13 n d a b)
  | .shr n d a b => some (encR3 0 14 n d a b)
  | .sra n d a b => some (encR3 0 15 n d a b)
  | .rotl n d a b => some (encR3 0 16 n d a b)
  | .min n d a b => some (encR3 0 17 n d a b)
  | .max n d a b => some (encR3 0 18 n d a b)
  | .minu n d a b => some (encR3 0 19 n d a b)
  | .maxu n d a b => some (encR3 0 20 n d a b)
  | .clz n d a => some (encR2 0 21 n d a)
  | .ctz n d a => some (encR2 0 22 n d a)
  | .popc n d a => some (encR2 0 23 n d a)
  | .sel n d a b => some (encR3 0 24 n d a b)
  | .exts n d a w => some (encRw 0 25 n d a w)
  | .extz n d a w => some (encRw 0 26 n d a w)
  | .bfx n d a b => some (encR3 0 27 n d a b)
  | .bfi n d a b => some (encR3 0 28 n d a b)
  | .mov n d a => some (encR2 0 29 n d a)
  | .adda n d a b => some (encR3 0 30 n d a b)
  | .widf n d k => some (encWidf 0 31 n d k)
  | .addi n d a imm => some (encI 0 32 n d a imm)
  | .andi n d a imm => some (encI 0 33 n d a imm)
  | .ori n d a imm => some (encI 0 34 n d a imm)
  | .xori n d a imm => some (encI 0 35 n d a imm)
  | .shli n d a imm => some (encI 0 36 n d a imm)
  | .shri n d a imm => some (encI 0 37 n d a imm)
  | .srai n d a imm => some (encI 0 38 n d a imm)
  | .cmpiEq n d a imm => some (encIp 0 39 n d a imm)
  | .cmpiNe n d a imm => some (encIp 0 40 n d a imm)
  | .cmpiLt n d a imm => some (encIp 0 41 n d a imm)
  | .cmpiLe n d a imm => some (encIp 0 42 n d a imm)
  | .cmpiLtn n d a imm => some (encIp 0 43 n d a imm)
  | .cmpiLen n d a imm => some (encIp 0 44 n d a imm)
  | .li n d imm => some (encL 0 48 n d imm)
  | .lih n d imm => some (encL 0 49 n d imm)
  | .cmpEq n d a b => some (encCmp 0 50 0 n d a b)
  | .cmpNe n d a b => some (encCmp 0 50 1 n d a b)
  | .cmpLt n d a b => some (encCmp 0 50 2 n d a b)
  | .cmpLe n d a b => some (encCmp 0 50 3 n d a b)
  | .cmpLtn n d a b => some (encCmp 0 50 4 n d a b)
  | .cmpLen n d a b => some (encCmp 0 50 5 n d a b)
  | .pand n d a b => some (encP3 0 51 n d a b)
  | .por n d a b => some (encP3 0 52 n d a b)
  | .pxor n d a b => some (encP3 0 53 n d a b)
  | .pnot n d a => some (encP2 0 54 n d a)
  | .pmov n d a => some (encP2 0 55 n d a)
  | .br p neg disp => some (encBr 0 56 p neg disp)
  | .call n p neg disp => some (encCall 0 57 n p neg disp)
  | .ret a => some (encRa 0 58 a)
  | .jmpx n d a => some (encR2 0 59 n d a)
  | .loop d imm => some (encLoop 0 60 d imm)
  | .loopm d imm => some (encLoop 0 61 d imm)
  | .brkl neg p => some (encBrkl 0 62 neg p)
  | .sleep a => some (encRa 0 64 a)
  | .shf fld a sd => some (encShf 0 68 0 fld a sd)
  | .shfAdd fld a sd => some (encShf 0 68 1 fld a sd)
  | .shfi imm fld sd => some (encShfi 0 69 0 imm fld sd)
  | .shfiAdd imm fld sd => some (encShfi 0 69 1 imm fld sd)
  | .shcpD sd t => some (encShcp 0 70 0 sd t)
  | .shcpSd sd t => some (encShcp 0 70 1 sd t)
  | .shcpMem sd a => some (encShcpM 0 70 2 sd a)
  | .shrd n d r fld => some (encShrd 0 71 n d r fld)
  | .shchk n d r => some (encShchk 0 72 n d r)
  | .csrr n g c => some (encCsrr 0 80 n g c)
  | .csrw g c => some (encCsrw 0 81 g c)
  | .csrs g c => some (encCsrw 0 82 g c)
  | .csrc g c => some (encCsrw 0 83 g c)
  | .sys f => some (encSys 0 84 f)
  | .freeze n d a => some (encR2 0 87 n d a)
  | .pairset n d a => some (encR2 0 88 n d a)
  | .ctc n d => some (encR1d 0 96 n d)
  | .budq n d a => some (encR2 0 97 n d a)
  | .boost n d a => some (encR2 0 98 n d a)
  | .jrd n d a => some (encR2 0 99 n d a)
  | .thq n d a => some (encR2 0 100 n d a)
  | .vadd n t d a b => some (encV3 1 0 n t d a b)
  | .vsub n t d a b => some (encV3 1 1 n t d a b)
  | .vadds n t d a b => some (encV3 1 2 n t d a b)
  | .vsubs n t d a b => some (encV3 1 3 n t d a b)
  | .vmul n t d a b => some (encV3 1 4 n t d a b)
  | .vmulh n t d a b => some (encV3 1 5 n t d a b)
  | .vmulw n t d a b => some (encV3 1 6 n t d a b)
  | .vmac n t d a b => some (encV3 1 7 n t d a b)
  | .vdot n t d a b => some (encV3 1 8 n t d a b)
  | .vand n t d a b => some (encV3 1 9 n t d a b)
  | .vor n t d a b => some (encV3 1 10 n t d a b)
  | .vxor n t d a b => some (encV3 1 11 n t d a b)
  | .vandn n t d a b => some (encV3 1 12 n t d a b)
  | .vshl n t d a b => some (encV3 1 13 n t d a b)
  | .vshr n t d a b => some (encV3 1 14 n t d a b)
  | .vsra n t d a b => some (encV3 1 15 n t d a b)
  | .vmin n t d a b => some (encV3 1 16 n t d a b)
  | .vmax n t d a b => some (encV3 1 17 n t d a b)
  | .vabs n t d a => some (encV2 1 18 n t d a)
  | .vneg n t d a => some (encV2 1 19 n t d a)
  | .vcmpEq n t d a b => some (encVc 1 20 n t d a b)
  | .vcmpNe n t d a b => some (encVc 1 21 n t d a b)
  | .vcmpLt n t d a b => some (encVc 1 22 n t d a b)
  | .vcmpLe n t d a b => some (encVc 1 23 n t d a b)
  | .vsel n t d a p => some (encVp 1 24 n t d a p)
  | .vclz n t d a => some (encV2 1 25 n t d a)
  | .vpopc n t d a => some (encV2 1 26 n t d a)
  | .vdotSat n t d a b => some (encV3 1 27 n t d a b)
  | .fadd n t d a b => some (encF3 1 32 n t d a b)
  | .fsub n t d a b => some (encF3 1 33 n t d a b)
  | .fmul n t d a b => some (encF3 1 34 n t d a b)
  | .fma n t d a b => some (encF3 1 35 n t d a b)
  | .fms n t d a b => some (encF3 1 36 n t d a b)
  | .fnma n t d a b => some (encF3 1 37 n t d a b)
  | .fmin n t d a b => some (encF3 1 38 n t d a b)
  | .fmax n t d a b => some (encF3 1 39 n t d a b)
  | .fabs n t d a => some (encF2 1 40 n t d a)
  | .fneg n t d a => some (encF2 1 41 n t d a)
  | .fcmpEq n t d a b => some (encFc 1 42 n t d a b)
  | .fcmpNe n t d a b => some (encFc 1 43 n t d a b)
  | .fcmpLt n t d a b => some (encFc 1 44 n t d a b)
  | .fcmpLe n t d a b => some (encFc 1 45 n t d a b)
  | .fcmpUn n t d a b => some (encFc 1 46 n t d a b)
  | .frint n t d a => some (encF2 1 47 n t d a)
  | .vcvt n t d a src => some (encCvt 1 48 n t d a src)
  | .vcvtw n t d a src => some (encCvt 1 49 n t d a src)
  | .vpack n t d a b => some (encV3 1 50 n t d a b)
  | .vqnt n t d a b => some (encV3 1 51 n t d a b)
  | .vmov n t d a => some (encV2 1 56 n t d a)
  | .vbcast n t d a b => some (encV3 1 57 n t d a b)
  | .vext n t d a b => some (encV3 1 58 n t d a b)
  | .vins n t d a b => some (encV3 1 59 n t d a b)
  | .vperm n t d a b => some (encV3 1 60 n t d a b)
  | .vzip n t d a b => some (encV3 1 61 n t d a b)
  | .vunzip n t d a b => some (encV3 1 62 n t d a b)
  | .vslide n t d a b => some (encV3 1 63 n t d a b)
  | .vcompr n t d a p => some (encVp 1 64 n t d a p)
  | .vexpnd n t d a p => some (encVp 1 65 n t d a p)
  | .viota n t d p => some (encViota 1 66 n t d p)
  | .vrsumInt n t d a p => some (encVp 1 72 n t d a p)
  | .vrmaxInt n t d a p => some (encVp 1 73 n t d a p)
  | .vrminInt n t d a p => some (encVp 1 74 n t d a p)
  | .vargmaxInt n t d a p => some (encVp 1 75 n t d a p)
  | .vscanInt n t d a p => some (encVp 1 76 n t d a p)
  | .vscanExInt n t d a p => some (encVpX 1 76 n t d a p)
  | .vcmpxInt n t d a desc flip j => some (encCmpxI 1 77 n t d a desc flip j)
  | .pset n d k => some (encPset 1 80 n d k)
  | .pcnt n d a => some (encPcnt 1 81 n d a)
  | .pfirst n d a => some (encP2 1 82 n d a)
  | .vrsumFloat n t d a p => some (encFp 1 88 n t d a p)
  | .vrmaxFloat n t d a p => some (encFp 1 89 n t d a p)
  | .vrminFloat n t d a p => some (encFp 1 90 n t d a p)
  | .vargmaxFloat n t d a p => some (encFp 1 91 n t d a p)
  | .vscanFloat n t d a p => some (encFp 1 92 n t d a p)
  | .vscanExFloat n t d a p => some (encFpX 1 92 n t d a p)
  | .vcmpxFloat n t d a desc flip j => some (encCmpxF 1 93 n t d a desc flip j)
  | .exp2 n t d a => some (encF2 2 0 n t d a)
  | .log2 n t d a => some (encF2 2 1 n t d a)
  | .rcp n t d a => some (encF2 2 2 n t d a)
  | .rsqrt n t d a => some (encF2 2 3 n t d a)
  | .sqrt n t d a => some (encF2 2 4 n t d a)
  | .sin n t d a => some (encF2 2 5 n t d a)
  | .cos n t d a => some (encF2 2 6 n t d a)
  | .tanh n t d a => some (encF2 2 7 n t d a)
  | .erf n t d a => some (encF2 2 8 n t d a)
  | .lds n t g b off => some (encLds 3 0 n t g b off)
  | .sts t g b off => some (encSts 3 1 t g b off)
  | .ldss n z g b off => some (encLdss 3 2 n z g b off)
  | .stss z g b off => some (encStss 3 3 z g b off)
  | .ldsg n t g b i => some (encLdx 3 4 n t g b i)
  | .stsx t g b i => some (encStx 3 5 t g b i)
  | .spalloc a b => some (encRab 3 6 a b)
  | .spfree a => some (encRa 3 7 a)
  | .renew a b => some (encRab 3 8 a b)
  | .splife n d a => some (encR2 3 9 n d a)
  | .spfill a b => some (encRab 3 10 a b)
  | .wld h sw bar x => some (encMtx 3 16 h sw bar x)
  | .mma h sw bar x => some (encMtx 3 17 h sw bar x)
  | .accrd n d a => some (encAccrd 3 18 n d a)
  | .accst h sw bar x => some (encMtx 3 19 h sw bar x)
  | .accld h sw bar x => some (encMtx 3 20 h sw bar x)
  | .accclr a => some (encRa 3 21 a)
  | .mgrp a => some (encRa 3 22 a)
  | .mwait d a => some (encMwait 3 23 d a)
  | .ld n z g b off => some (encLd 3 32 n z g b off)
  | .ldAcq n z g b sc => some (encLdA 3 32 n z g b sc)
  | .st z g b off => some (encSt 3 33 z g b off)
  | .stRel z g b sc => some (encStR 3 33 z g b sc)
  | .vld n t g b off => some (encVld 3 34 n t g b off)
  | .vldAcq n t g b sc => some (encVldA 3 34 n t g b sc)
  | .vst t g b off => some (encVst 3 35 t g b off)
  | .vstRel t g b sc => some (encVstR 3 35 t g b sc)
  | .vldg n t g b i => some (encLdx 3 36 n t g b i)
  | .vstx t g b i => some (encStx 3 37 t g b i)
  | .ldf n g b => some (encLdf 3 38 n g b)
  | .ldfAcq n g b sc => some (encLdfA 3 38 n g b sc)
  | .stf g b => some (encStf 3 39 g b)
  | .stfRel g b sc => some (encStfR 3 39 g b sc)
  | .pref l1 b off => some (encPref 3 40 l1 b off)
  | .fenceAcq sc => some (encFence 3 41 16 sc)
  | .fenceRel sc => some (encFence 3 41 32 sc)
  | .fenceAr sc => some (encFence 3 41 48 sc)
  | .fencex sc p q => some (encFencex 3 42 sc p q)
  | .cas n sc g b o sz => some (encAtom 3 43 0 n sc g b o sz)
  | .atomAdd n sc g b o sz => some (encAtom 3 44 0 n sc g b o sz)
  | .atomAnd n sc g b o sz => some (encAtom 3 44 1 n sc g b o sz)
  | .atomOr n sc g b o sz => some (encAtom 3 44 2 n sc g b o sz)
  | .atomXor n sc g b o sz => some (encAtom 3 44 3 n sc g b o sz)
  | .atomMin n sc g b o sz => some (encAtom 3 44 4 n sc g b o sz)
  | .atomMax n sc g b o sz => some (encAtom 3 44 5 n sc g b o sz)
  | .atomMinu n sc g b o sz => some (encAtom 3 44 6 n sc g b o sz)
  | .atomMaxu n sc g b o sz => some (encAtom 3 44 7 n sc g b o sz)
  | .atomSwap n sc g b o sz => some (encAtom 3 45 0 n sc g b o sz)
  | .copyOut h sw bar dense x => some (encCopy 3 48 0 h sw bar dense x)
  | .copyIn h sw bar dense x => some (encCopy 3 48 1 h sw bar dense x)
  | .copym h sw bar post x => some (encCopym 3 49 h sw bar post x)
  | .copys h sw bar x => some (encCopys 3 50 0 h sw bar x)
  | .copyx h sw bar x => some (encCopys 3 51 0 h sw bar x)
  | .gath h sw bar dense x => some (encCopy 3 52 0 h sw bar dense x)
  | .redcAdd h sw bar x => some (encCopys 3 53 0 h sw bar x)
  | .redcMax h sw bar x => some (encCopys 3 53 1 h sw bar x)
  | .redcMin h sw bar x => some (encCopys 3 53 2 h sw bar x)
  | .cpqSummary n d => some (encR1d 3 54 n d)
  | .cpqEntry n d a => some (encR2K 3 54 n d a)
  | .cpcan a b => some (encRab 3 55 a b)
  | .spawn bar x => some (encSpawn 3 56 bar x)
  | .pipw e src => some (encPipw 3 57 e src)
  | .pipr n dst e => some (encPipr 3 58 n dst e)
  | .pipq n d e => some (encPipq 3 59 n d e)
  | .binit bar x => some (encBarx 3 64 0 bar x)
  | .barv bar => some (encBar 3 65 0 bar)
  | .barvExp bar x => some (encBarx 3 65 1 bar x)
  | .bexp bar x => some (encBarx 3 66 0 bar x)
  | .bwait bar x => some (encBwait 3 67 0 bar x)
  | .btry n bar x => some (encBtry 3 68 0 n bar x)
  | .ckpt => some (encZ 0 63)
  | .stepend => some (encZ 0 65)
  | .nop => some (encZ 0 66)
  | .eret => some (encZ 0 85)
  | .iflush => some (encZ 0 86)
  | .yield => some (encZ 0 104)
  | .statfl => some (encZ 3 60)
  | .resultLanding _ => none
  | .variableResultLanding _ _ => none
  | .commitBufferDrain _ => none
  | .writeAcknowledge _ _ => none
  | .wrfailReport _ _ _ => none
  | .stepRetire _ => none
  | .syscallEntry _ => none
  | .eretReturn _ => none
  | .sleepWake _ => none
  | .asyncTrapDelivery _ => none
  | .preemption _ => none
  | .trapHandlerAbandon _ => none
  | .stepDispatch _ => none
  | .proofingAreaBuild _ _ _ => none
  | .proofingLoafRenew _ _ => none
  | .stepKill _ _ => none
  | .contextDestroy _ => none
  | .walkerGenerate _ => none
  | .completionWordWrite _ => none
  | .notifyWrite _ _ _ => none
  | .packetProcess _ _ => none
  | .packetAdmit _ _ => none
  | .markerComplete _ _ => none
  | .fabricMessageReceive _ _ => none
  | .fabricAcknowledge _ _ => none
  | .replayResend _ => none
  | .forwardingEntryExpire _ _ => none
  | .ldfRequestResolve _ _ => none
  | .cacheSectorFill _ _ => none
  | .tlbMissWalk _ _ => none
  | .atsTranslationCompletion _ _ _ _ _ _ => none
  | .hostAtsInvalidate _ _ _ => none
  | .xltInvalidateRange _ _ _ => none
  | .xltInvalidateContext _ _ => none
  | .xltReloadDescriptor _ _ => none
  | .xltCmdReservedKind _ => none
  | .xltCmdComplete _ => none
  | .copyStart _ => none
  | .copyElementTransfer _ _ => none
  | .copyComplete _ _ => none
  | .matrixCmdStart _ => none
  | .matrixCmdComplete _ => none
  | .accrdBusyLand _ => none
  | .statDrain _ => none
  | .linkReductionUpdate _ _ => none
  | .barrierUpdateApply _ _ _ _ => none
  | .loafExpire _ _ => none
  | .bankGuardGrant _ => none
  | .logicalCoreAbsent _ _ => none
  | .mergeOnResume _ _ _ => none
  | .contextSuspend _ => none
  | .contextFreezeReflection _ => none
  | .contextResume _ => none
  | .migrationRequest _ _ _ => none
  | .rotation _ => none
  | .budgetIntervalBoundary _ _ => none
  | .boostLeaseExpire _ => none
  | .sensorSample _ _ _ => none
  | .clusterGate _ => none
  | .vitLoad _ => none
  | .islMatrixWrite _ => none
  | .govLimitWrite _ => none
  | .fabBackoffWrite _ => none
  | .bridgeTrainGo _ => none
  | .mailboxRequestPost _ _ => none
  | .mailboxReplyConsume _ _ => none
  | .attestationReport _ _ => none
  | .deviceRegisterWrite _ _ _ => none
  | .bridgeMarginReport _ => none
  | .bridgeRetrainDone => none
  | .flitRetry _ _ => none
  | .patrolScrub _ => none
  | .coolantControlUpdate _ _ => none
  | .coolingFault _ _ => none
  | .mgmtSmbusWrite _ => none
  | .gracefulPowerDown => none
  | .bringUp _ _ => none
  | .hostWrite _ _ => none
  | .hostRead _ _ => none
  | .hostAtomicop _ _ _ => none
  | .fgbLoad _ _ _ _ => none
  | .contextCreate _ _ => none
  | .priPageResponse _ => none
  | .graphInstanceUnload _ _ => none
  | .pairQuarantineClear _ => none

/-- The word of a slot instruction, with e = 0 (R62). -/
def encodeSlot (i : Instr) : Option (BitVec 32) := (encodeFields i).map pack

/-- The word of a slot instruction that ends its bundle or not (R58). -/
def encode (e : Bool) (i : Instr) : Option (BitVec 32) :=
  (encodeSlot i).map fun w => if e then w ||| 0x80000000#32 else w

/-- What the decoder reads from a word that is numbered as the opcode table numbers its bits; a slot is one 32-bit
word (R58). -/
def decodeTableWord (nbits w : Nat) : Option Instr :=
  if nbits ≤ 32 then (decodeSlot (BitVec.ofNat 32 w)).toOption else none

end Sys2Proof
end

