-- ==== Sys2Proof/Machine/Csr.lean ====
section
/-! DEFINITION. Control and status registers through the views of the levels (07 R155 to R161), PAIRSET (R167), IFLUSH
(R165), and the query instructions of the clocks, budgets and sensors (16 R366 to R387). -/

namespace Sys2Proof.Machine

/-- The code of a level (07 R156). -/
def levelCode : Level → Nat
  | .u => 0 | .s => 1 | .h => 2

/-- A field of therm.limits: 0 t_migrate, 1 t_throttle, 2 t_save, 3 t_trip. It is read as an unsigned number, beside the
signed readings: the model's choice (log 122). -/
def limitAt (w : Word) (i : Nat) : Nat := wbits w (16 * i + 15) (16 * i)

/-- therm.limits with these three thresholds; t_trip is fixed (07 R156). -/
def limitsOf (mig thr sav : Nat) : Word := BitVec.ofNat 64 (mig + thr * 2 ^ 16 + sav * 2 ^ 32 + 0x06E0 * 2 ^ 48)

/-- The thresholds that act on an interface's own work: the lower of its S value and the chip's H value (07 R157). -/
def State.limits (s : State) (vi : Nat) : Word :=
  let a := s.limS[Fin.ofNat 64 vi]
  let f := fun i => min (limitAt a i) (limitAt s.limH i)
  limitsOf (f 0) (f 1) (f 2)

/-- One field of a write to therm.limits (07 R157): it is taken when no higher than its reset value and than the next
higher threshold. -/
def limitField (old new reset above : Nat) : Nat := if new ≤ reset ∧ new ≤ above then new else old

/-- A write of therm.limits applied from the highest threshold down (07 R157). -/
def limitsWrite (old new : Word) : Word :=
  let sav := limitField (limitAt old 2) (limitAt new 2) (limitAt limitsReset 2) 0x06E0
  let thr := limitField (limitAt old 1) (limitAt new 1) (limitAt limitsReset 1) sav
  let mig := limitField (limitAt old 0) (limitAt new 0) (limitAt limitsReset 0) thr
  limitsOf mig thr sav

/-- The class of a control register (07 R155). -/
inductive CsrClass where
  | k | t | c | none
  deriving DecidableEq, Repr

/-- The class column of R155. -/
def csrClass (n : Nat) : CsrClass :=
  match n with
  | 0x000 | 0x001 => .k
  | 0x020 | 0x021 | 0x022 | 0x023 | 0x024 | 0x027 => .t
  | 0x025 | 0x026 | 0x061 | 0x070 => .c
  | _ => .none

/-- Whether a register shows any field in the view of a level (07 R155). -/
def csrVisible (n : Nat) (lv : Level) : Bool :=
  match n with
  | 0x023 | 0x024 | 0x025 | 0x026 | 0x027 | 0x070 | 0x071 => lv != .u
  | _ => true

/-- The writable bits of a register in the view of a level: RW fields, and RS fields at S and H (07 R155, R156). -/
def csrMask (n : Nat) (lv : Level) : Word :=
  match n with
  | 0x000 => fpctlMask
  | 0x001 => fpflagsMask
  | _ =>
    if lv = .u then 0
    else
      match n with
      | 0x020 => 0x80FF07FF
      | 0x021 | 0x022 | 0x023 | 0x027 => BitVec.allOnes 64
      | 0x024 => 7
      | 0x025 => ~~~(63 : Word)
      | 0x026 => ~~~(4095 : Word)
      | 0x061 => 0x0000FFFFFFFFFFFF
      | 0x070 => ~~~(0xFF0 : Word)
      | _ => 0

/-- The virtual interface of the kernel on the current core. -/
def Core.vi (c : Core) : Nat := (c.seat.map (·.vi)).getD 0

/-- ctx.id (07 R156): the interface and the physical core show at S and H only. -/
def Core.idWord (c : Core) : Word :=
  let low := levelCode c.level * 2 ^ 30 + c.self.2 * 2 ^ 20 + c.self.1
  BitVec.ofNat 64 (if c.level = .u then low else c.vi * 2 ^ 40 + c.pcore * 2 ^ 32 + low)

/-- The account that charges the kernel on the current core (07 R158, 16 R376). Where none does, between a load of a wider
cluster mask and the next boundary, the spec gives no reading: the model reads an account of zeros, by its choice (log 115). -/
def State.account (s : State) : Acct :=
  (s.acctOf (s.islandOf (clusterOf s.core.pcore)) s.core.vi).getD (Acct.mk 0 none 0 0 0 0 0)

/-- isl.state (07 R156). -/
def State.islWord (s : State) : Word :=
  let cl := clusterOf s.core.pcore
  let i := s.islandOf cl
  let x := s.islandAt i
  BitVec.ofNat 64
    (x.pool * 256 + (s.clusterAt cl).clock * 16 + b2n (s.narrow i) * 8 + b2n x.warned * 4 + i)

/-- pair.ctl (07 R156): only the mode shows at U. -/
def Core.pairWord (c : Core) : Word :=
  BitVec.ofNat 64 (if c.level = .u then b2n c.paired else c.mismatches * 256 + b2n c.quarantined * 2 + b2n c.paired)

/-- vi.shape (07 R156): the shaping fields as the context was created with them, the others from the entry in force. -/
def State.shapeWord (s : State) : Word :=
  match Tab.get s.ctxs s.core.self.1 with
  | none => 0
  | some x =>
    let v := s.viOf x.vi
    let get := fun (f : Vi → Nat) => (v.map f).getD 0
    BitVec.ofNat 64
      (x.memQuota % 1024 * 2 ^ 32 + x.prioCap % 4 * 2 ^ 30 + get (·.buShare) % 512 * 2 ^ 21 +
        get (fun v => if v.isolated then 2 ^ 20 + v.island % 4 * 2 ^ 18 else 0) + (x.lclCores - 1) % 16 * 16 +
        x.lclusters % 16)

/-- ckpt.count (07 R155): the entries without the control-register writes of the reading bundle (R160). That it leaves the
reading bundle out of the bundles and counts the other entries of its earlier slots is the model's choice (log 36). -/
def Core.countWord (c : Core) : Word := BitVec.ofNat 64 (c.segBundles + (c.cbuf.length - c.iss.cw) * 2 ^ 16)

/-- therm.limits through the view of the level (07 R157). -/
def State.limitsWord (s : State) : Word :=
  match s.core.level with
  | .u => s.limits s.core.vi
  | .s => s.limS[Fin.ofNat 64 s.core.vi]
  | .h => s.limH

/-- A register with its writable fields taken from a new value (07 R159). -/
def fieldsOf (old new mask : Word) : Word := (old &&& ~~~mask) ||| (new &&& mask)

/-- stat.ring as committed: what the kernel's committed writes behind a STATFL will leave (07 R160). -/
def Core.ringWord (c : Core) : Word :=
  c.drain.foldl
    (fun w e => match e.kind with
      | .csr n v => if n = 0x070 ∧ e.ctx = c.self.1 then fieldsOf w v (csrMask n e.level) else w
      | _ => w) c.csr.statRing

/-- The value of a control register through the view of the current level (07 R155, R156, R158). -/
def State.csrRead (s : State) (n : Nat) : Word :=
  if csrVisible n s.core.level = false then 0
  else
    match n with
    | 0x000 => s.core.arch.fpctl
    | 0x001 => s.core.arch.fpflags
    | 0x010 => s.core.idWord
    | 0x011 => 0x0000000100085948
    | 0x020 => s.core.csr.cause
    | 0x021 => s.core.csr.baddr
    | 0x022 => s.core.csr.info
    | 0x023 => s.core.csr.ret
    | 0x024 => s.core.csr.status
    | 0x025 => s.core.csr.vec
    | 0x026 => s.core.csr.save
    | 0x027 => s.core.csr.scratch
    | 0x030 => s.core.ckAddr
    | 0x031 => s.core.countWord
    | 0x040 => s.core.pairWord
    | 0x050 => BitVec.ofInt 64 s.account.balance
    | 0x051 => BitVec.ofNat 64 s.account.grant
    | 0x052 => s.islWord
    | 0x060 => s.core.sensor.setWidth 64
    | 0x061 => s.limitsWord
    | 0x070 => s.core.ringWord
    | 0x071 => s.shapeWord
    | _ => 0

/-- A write of a control register by the slot in issue (07 R159, R160): K and T land after 1 beat, C is withheld as one
entry, a register with no class ignores it. -/
def State.csrWrite (s : State) (n : Nat) (new : Word) : State :=
  let mask := csrMask n s.core.level
  match csrClass n with
  | .none => s
  | .c =>
    let t := s.withhold (.csr n new)
    if t.core.iss.stopped then t else t.upd fun c => { c with iss := { c.iss with cw := c.iss.cw + 1 } }
  | _ => if mask = 0 then s else s.upd fun c => c.result 1 (.csr n (fieldsOf (s.csrRead n) new mask)) none 0

/-- The effect of a committed C-class write made at a level (07 R157, R159, R160; 14 R338). -/
def State.csrCommit (s : State) (lv : Level) (n : Nat) (new : Word) : State :=
  let mask := csrMask n lv
  let set := fun (f : Csrs → Csrs) => s.upd fun c => { c with csr := f c.csr }
  if mask = 0 then s
  else
    match n with
    | 0x025 => set fun r => { r with vec := fieldsOf r.vec new mask }
    | 0x026 => set fun r => { r with save := fieldsOf r.save new mask }
    | 0x070 =>
      let v := fieldsOf s.core.csr.statRing new mask
      (set fun r => { r with statRing := v }).onCtx s.core.self.1 fun x => { x with statRing := v }
    | 0x061 =>
      if lv = .h then { s with limH := limitsWrite s.limH new }
      else { s with limS := vmod s.limS s.core.vi fun old => limitsWrite old new }
    | _ => s

/-- CSRR (R159). -/
def execCsrr (n : Bool) (g : SDst) (c : BitVec 12) (s : State) : Res := .next (s.retS 1 n g (s.csrRead c.toNat))

/-- CSRW (R159). -/
def execCsrw (g : SSrc) (c : BitVec 12) (s : State) : Res := .next (s.csrWrite c.toNat (s.core.sx g))

/-- CSRS (R159). -/
def execCsrs (g : SSrc) (c : BitVec 12) (s : State) : Res :=
  .next (s.csrWrite c.toNat (s.csrRead c.toNat ||| s.core.sx g))

/-- CSRC (R159). -/
def execCsrc (g : SSrc) (c : BitVec 12) (s : State) : Res :=
  .next (s.csrWrite c.toNat (s.csrRead c.toNat &&& ~~~(s.core.sx g)))

/-- IFLUSH (R165). The model holds no fetch block outside the L1 instruction cache. -/
def execIflush (s : State) : Res := .next (s.upd fun c => { c with port := { c.port with l1i := [] } })

/-- Whether a pair of cores 2k and 2k+1 takes work (08 R190, R192). -/
def State.pairHealthy (s : State) (k : Nat) : Bool :=
  !((s.getCore (2 * k)).quarantined || (s.getCore (2 * k + 1)).quarantined)

/-- Whether every cluster that an interface may use has two healthy pairs (07 R167). -/
def State.pairsAvailable (s : State) (v : Vi) : Bool :=
  (List.range 8).all fun cl =>
    !(v.mask.getLsbD cl) || decide (2 ≤ ((List.range 8).filter fun k => s.pairHealthy (8 * cl + k)).length)

/-- The status of a PAIRSET request (07 R167). -/
def State.pairStatus (s : State) (v : Word) : Nat :=
  if v &&& ~~~(0x103FF : Word) ≠ 0 then 1
  else
    match Tab.get s.ctxs (wbits v 9 0) with
    | none => 2
    | some x =>
      if x.vi ≠ s.core.vi then 2
      else if v.getLsbD 16 && !((s.viOf x.vi).map s.pairsAvailable).getD false then 3 else 0

/-- PAIRSET (R167): the status after 1 beat; an accepted change is withheld. -/
def execPairset (n : Bool) (d : SDst) (a : SSrc) (s : State) : Res :=
  let v := s.core.sx a
  let st := s.pairStatus v
  if s.core.level = .u then .next (s.trap tPRIV 0 0)
  else if st ≠ 0 then .next (s.retS 1 n d (BitVec.ofNat 64 st))
  else
    let t := s.withhold (.pairset (wbits v 9 0) (v.getLsbD 16))
    .next (if t.core.iss.stopped then t else t.retS 1 n d 0)

/-! ## Queries (16 R368, R385, R387) -/

/-- The cost of an energy class on an island (16 R375). -/
def State.classCost (s : State) (isl cls : Nat) : Nat :=
  wbits s.gov.cost[Fin.ofNat 4 isl] (8 * (cls % 8) + 7) (8 * (cls % 8))

/-- CTC (R368). -/
def execCtc (n : Bool) (d : SDst) (s : State) : Res := .next (s.retS 1 n d (BitVec.ofNat 64 s.tick))

/-- What BUDQ reads (R387). -/
def State.budget (s : State) (v : Word) : Word :=
  let isl := s.islandOf (clusterOf s.core.pcore)
  match wbits v 3 0 with
  | 0 => BitVec.ofInt 64 s.account.balance
  | 1 => BitVec.ofNat 64 s.account.grant
  | 2 => BitVec.ofNat 64 (s.classCost isl (wbits v 10 8))
  | 3 => BitVec.ofNat 64 (((s.islandAt isl).reserve.map fun r => r.2.2.1).getD 0)
  | 4 => BitVec.ofNat 64 s.account.admitted
  | _ => BitVec.ofNat 64 (intervalTicks - s.tick % intervalTicks)

/-- BUDQ (R387): items 6 to 15 are ILLEGAL. -/
def execBudq (n : Bool) (d : SDst) (a : SSrc) (s : State) : Res :=
  let v := s.core.sx a
  s.whenOk (decide (wbits v 3 0 ≤ 5)) (s.retS 2 n d (s.budget v))

/-- The next budget interval boundary. -/
def State.nextBoundary (s : State) : Nat := (s.tick / intervalTicks + 1) * intervalTicks

/-- The grant of a boost request (16 R382): the lease is of the step whose request granted or extended it last (log 136). -/
def State.grantBoost (s : State) (cl target : Nat) : State :=
  let isl := s.islandOf cl
  let pool := (s.islandAt isl).pool
  match (s.clusterAt cl).lease with
  | none =>
    let r := min target pool
    if r = 0 then s
    else
      (s.onIsland isl fun i => { i with pool := pool - r }).onCluster cl fun k =>
        { k with lease := some (Lease.mk r s.tick (s.nextBoundary + 2 * r * intervalTicks) false s.core.self.1 s.core.owner) }
  | some l =>
    let r := max l.remaining (min target (l.remaining + pool))
    if r = l.remaining then s
    else
      (s.onIsland isl fun i => { i with pool := pool - (r - l.remaining) }).onCluster cl fun k =>
        { k with lease := some { l with
          remaining := r, expiry := max l.expiry (s.nextBoundary + 2 * r * intervalTicks), frozen := false
          ctx := s.core.self.1, owner := s.core.owner } }

/-- Whether a lease of the island is older than that of a cluster (16 R382). -/
def State.elderLease (s : State) (cl : Nat) (l : Lease) : Bool :=
  (List.range 8).any fun k =>
    s.islandOf k == s.islandOf cl &&
      match (s.clusterAt k).lease with
      | some o => decide (0 < o.remaining) && !o.frozen && (decide (o.age < l.age) || (decide (o.age = l.age) && decide (k < cl)))
      | none => false

/-- The clock that a cluster would have in the next interval (16 R382): 0 nominal, 1 or 2. -/
def State.nextClock (s : State) (cl : Nat) : Nat :=
  let k := s.clusterAt cl
  let i := s.islandOf cl
  match k.lease with
  | some l =>
    if l.remaining = 0 ∨ l.frozen = true then (if 0 < k.fall then 1 else 0)
    else if (s.islandAt i).warned || s.narrow i then 0
    else if s.elderLease cl l then 1 else 2
  | none => if 0 < k.fall then 1 else 0

/-- BOOST (R387): a target above 64, or a release with a target, is ILLEGAL. -/
def execBoost (n : Bool) (d : SDst) (a : SSrc) (s : State) : Res :=
  let v := s.core.sx a
  let target := wbits v 6 0
  let cl := clusterOf s.core.pcore
  let t := if v.getLsbD 16 then s.endLease cl else s.grantBoost cl target
  let left := ((t.clusterAt cl).lease.map (·.remaining)).getD 0
  s.whenOk (decide (target ≤ 64) && (!v.getLsbD 16 || decide (target = 0)))
    (t.retS 4 n d (BitVec.ofNat 64 (left + t.nextClock cl * 256)))

/-- What JRD reads (R387): the joule counter of the step, the task, the context or the island. -/
def State.joules (s : State) (v : Word) : Nat :=
  match s.core.seat with
  | none => 0
  | some z =>
    match wbits v 1 0 with
    | 0 => ((s.stepOf z.task z.wid).map (·.joule)).getD 0
    | 1 => ((s.taskOf z.task).map (·.joule)).getD 0
    | 2 => ((Tab.get s.ctxs z.ctx).map (·.joule)).getD 0
    | _ => (s.islandAt (s.islandOf (clusterOf s.core.pcore))).joule

/-- JRD (R387). -/
def execJrd (n : Bool) (d : SDst) (a : SSrc) (s : State) : Res :=
  .next (s.retS 2 n d (BitVec.ofNat 64 (s.joules (s.core.sx a))))

/-- The sensors of a cluster: its cores and its slices, four slices a cluster (16 R384; log 22). -/
def State.clusterSensors (s : State) (cl : Nat) : List (BitVec 16) :=
  (List.range 16).map (fun i => (s.getCore (16 * cl + i)).sensor) ++
    (s.sliceSensor.filter fun r => r.which / 4 == cl).map (·.value)

/-- The hottest of some readings, signed. -/
def hottest (l : List (BitVec 16)) : BitVec 16 := l.foldl (fun a b => if a.toInt < b.toInt then b else a) (l.headD 0)

/-- The reading that THQ selects (R385). -/
def State.reading (s : State) (v : Word) : Option (BitVec 16) :=
  let cl := clusterOf s.core.pcore
  match wbits v 1 0 with
  | 0 => some s.core.sensor
  | 1 => some (hottest (s.clusterSensors cl))
  | 2 =>
    some (hottest (((List.range 8).filter fun k => s.islandOf k == s.islandOf cl).flatMap fun k => s.clusterSensors k))
  | _ => s.coolant.reading

/-- The threshold code of a reading (R385). -/
def heatCode (lim : Word) (t : BitVec 16) : Nat :=
  let at_ := fun i => decide ((limitAt lim i : Int) ≤ t.toInt)
  if at_ 2 then 3 else if at_ 1 then 2 else if at_ 0 then 1 else 0

/-- THQ (R385): no coolant reading gives 0x8000. -/
def execThq (n : Bool) (d : SDst) (a : SSrc) (s : State) : Res :=
  let t := (s.reading (s.core.sx a)).getD 0x8000
  .next (s.retS 2 n d (BitVec.ofNat 64 (t.toNat + heatCode (s.limits s.core.vi) t * 2 ^ 16)))

end Sys2Proof.Machine
end

