-- ==== Sys2Proof/Machine/Remote.lean ====
section
/-! DEFINITION. What engines do away from their core: accesses to global memory on their own paths (11 R242; 13 R303),
landings at a logical core wherever it is (17 R389, R390, R394, R395), trap records and statistics records (08 R185;
14 R337, R338). -/

namespace Sys2Proof.Machine

/-! ## Global memory (13 R303) -/

/-- The detail of a translation failure or of missing rights for an engine (08 R179). -/
def TFail.detail (f : TFail) (w : Want) : Nat :=
  match f with
  | .absent => 0
  | .host => 1
  | .rights =>
    match w with
    | .read => 0 | .write => 1 | .atomic => 2 | .fetch => 1

/-- Resolves the parts of an engine access for core p (13 R303, 15 R347): address and length of each, or the detail and
the address of the failure. -/
def engineParts (p ctx : Nat) (lv : Level) (w : Want) :
    List (Nat × Nat) → State → Except (Nat × Nat) (List (Nat × Nat)) × State
  | [], s => (.ok [], s)
  | x :: xs, s =>
    match translate s p ctx x.1 w lv none with
    | (.error f, s) => (.error (f.detail w, x.1), s)
    | (.ok pa, s) =>
      if !(nodeOk s pa x.2 .vector) then (.error (TFail.detail .rights w, x.1), s)
      else
        match engineParts p ctx lv w xs s with
        | (.ok l, s) => (.ok ((pa, x.2) :: l), s)
        | (.error e, s) => (.error e, s)

/-- What an engine read of n bytes gives: a failure, or bytes and whether they are poisoned. -/
def engineRead (s : State) (p ctx : Nat) (o : Owner) (lv : Level) (va n : Nat) :
    Except (Nat × Nat) (List Byte × Bool) × State :=
  match engineParts p ctx lv .read (pageParts va n) s with
  | (.error e, s) => (.error e, s)
  | (.ok parts, s) =>
    let who := s.payerOf p ctx o
    let bad := parts.any fun x => (poisonOf s x.1 x.2).isSome
    let s := parts.foldl (fun s x => touch who x.1 x.2 false s) s
    (.ok (parts.flatMap fun x => s.pbytes x.1 x.2, bad), s)

/-- A scale word as an engine reads it (10 R233; 13 R302): poisoned data is a fault of memory, with detail 3. -/
def scaleRead (s : State) (p ctx : Nat) (o : Owner) (lv : Level) (va : Nat) : Except (Nat × Nat) (BitVec 32) × State :=
  match engineRead s p ctx o lv va 4 with
  | (.error d, s) => (.error d, s)
  | (.ok v, s) => (if v.2 then .error (3, va) else .ok (BitVec.ofNat 32 (ofBytes v.1)), s)

/-- An engine write: a failure, or the physical parts written (15 R355 for the log). -/
def engineWrite (s : State) (p ctx : Nat) (o : Owner) (lv : Level) (va : Nat) (bs : List Byte) :
    Except (Nat × Nat) (List (Nat × Nat)) × State :=
  match engineParts p ctx lv .write (pageParts va bs.length) s with
  | (.error e, s) => (.error e, s)
  | (.ok parts, s) =>
    let who := s.payerOf p ctx o
    let r := parts.foldl
      (fun (a : List Byte × State) x =>
        let s := if nodeOf x.1 = 0 then dirtyLog a.2 ctx va bs.length else a.2
        (a.1.drop x.2, s.pwrite who x.1 (a.1.take x.2) (some false))) (bs, s)
    (.ok parts, r.2)

/-! ## Where a logical core is (15 R360, R361) -/

/-- The state of a logical core for what is sent to it. -/
inductive Place where
  | unused
  | resident (p : Nat)
  | absent (image : Nat)
  | moving
  deriving DecidableEq, Repr

/-- Where a logical core of a context is. -/
def State.place (s : State) (ctx l : Nat) : Place :=
  match Tab.get s.ctxs ctx with
  | none => .unused
  | some x =>
    match s.divState x l with
    | 1 =>
      match s.residentCore ctx l with
      | some c => .resident c.pcore
      | none => .moving
    | 2 => .absent (s.imageOf x l)
    | 3 => .moving
    | _ => .unused

/-- What became of a landing. -/
inductive Land where
  /-- Landed whole. -/
  | ok
  /-- Part or all of it in loaves that are not held: discarded there. -/
  | unheld
  /-- Refused for now. -/
  | wait
  /-- Nobody to land at. -/
  | lost
  deriving DecidableEq, Repr

/-! ## The shadow image (17 R389, R390) -/

/-- The loaf-table entry of a loaf in an image. -/
def loafEntry (image l : Nat) : Nat := image + 0x300000 + 16 * l

/-- The state of a loaf in an image: 0 not held, 1 live, 2 expired. -/
def State.imgLoaf (s : State) (image l : Nat) : Nat := if l < loafCount then s.pnat (loafEntry image l) 1 else 0

/-- Writes bytes at a loaf-space offset into an image, where the loaves are held. -/
def State.imgStore (s : State) (image off : Nat) (bs : List Byte) (bad : Bool) : Land × State :=
  let put := fun (s : State) (o : Nat) (b : List Byte) =>
    if s.imgLoaf image (o / 4096) = 0 then s
    else
      let s := s.stream (image + o) [(0, b.length, ofBytes b)]
      if bad then s.poisonRange (image + o) b.length else s
  let k := min bs.length (4096 - off % 4096)
  let s' := put s off (bs.take k)
  let s' := if k < bs.length then put s' (off + k) (bs.drop k) else s'
  ((match firstBad off bs.length fun l => s.imgLoaf image l == 0 with
    | some _ => .unheld
    | none => .ok), s')

/-- Reads bytes of an image's loaves (17 R395): the detail of the failure, or the bytes. -/
def State.imgLoad (s : State) (image off n : Nat) : Except Nat (List Byte) :=
  match firstBad off n fun l => s.imgLoaf image l == 0 with
  | some _ => .error 0
  | none =>
    match firstBad off n fun l => s.imgLoaf image l == 2 with
    | some _ => .error 3
    | none => if (poisonOf s (image + off) n).isSome then .error 3 else .ok (s.pbytes (image + off) n)

/-! ## Landings -/

/-- Lands bytes in the scratchpad of a logical core (13 R299, R300; 17 R394). -/
def State.landSp (s : State) (ctx l off : Nat) (bs : List Byte) (bad : Bool) : Land × State :=
  match s.place ctx l with
  | .unused => (.lost, s)
  | .moving => (.wait, s)
  | .resident p =>
    let r := (s.getCore p).engineStore off bs
    (if r.1 then .ok else .unheld, s.setCore (if bad then r.2.spMark off bs.length else r.2))
  | .absent image => (dirtyImage s ctx (image + off) bs.length).imgStore image off bs bad

/-- The weight buffer with bytes written at an offset, its written marks and the poison of whole words (10 R216, R239). -/
def Matrix.writeWb (m : Matrix) (off : Nat) (bs : List Byte) (bad : Bool) : Matrix :=
  let n := bs.length
  let words := sectorsOf off n
  { m with
    wb := m.wb.write off bs
    wbPoison := if bad then NSet.addAll m.wbPoison words else
      m.wbPoison.filter fun w => !(decide (off ≤ w * 64) && decide (w * 64 + 64 ≤ off + n))
    markW := m.markW ||| BitVec.ofNat 8 (((List.range 8).map fun b =>
      if b * 65536 < off + n ∧ off < (b + 1) * 65536 then 2 ^ b else 0).foldl (· + ·) 0) }

/-- The matrix control block of an image (17 R390). -/
def mxBlock (image : Nat) : Nat := image + 0x331000

/-- Lands bytes in the weight buffer of a logical core (13 R297; 17 R394). -/
def State.landWb (s : State) (ctx l off : Nat) (bs : List Byte) (bad : Bool) : Land × State :=
  match s.place ctx l with
  | .unused => (.lost, s)
  | .moving => (.wait, s)
  | .resident p =>
    let c := s.getCore p
    (.ok, s.setCore { c with mx := c.mx.writeWb off bs bad })
  | .absent image =>
    let marks := s.pnat (mxBlock image + 8) 2
    let m := (Matrix.mk [] [] [] [] [] false [] [] 0 0 0 (BitVec.ofNat 8 (marks / 256)) none).writeWb off bs bad
    let old := s.pnat (image + 0x3E0000) 1024
    let words := sectorsOf off bs.length
    let new := words.foldl
      (fun v w =>
        if bad then setBits v w w 1
        else if off ≤ w * 64 ∧ w * 64 + 64 ≤ off + bs.length then setBits v w w 0 else v) old
    let first := words.headD 0 / 8
    let count := (words.getLast?.map fun w => w / 8 - first + 1).getD 0
    (.ok, s.divert ctx image
      [(0x360000 + off, bs.length, ofBytes bs), (0x331008, 2, marks % 256 + m.markW.toNat * 256),
        (0x3E0000 + first, count, bits new (8 * (first + count) - 1) (8 * first))])

/-- The capacity of a scale FIFO (13 R287). -/
def fifoSize : Nat := 256

/-- The producers that have a place at a logical core's scale FIFO, in their order (13 R301). -/
def State.lineOf (s : State) (ctx l : Nat) : List Nat :=
  ((s.lines.find? fun x => x.ctx == ctx && x.lcore == l).map (·.queue)).getD []

/-- Whether a scale word of producer n may be pushed at a logical core now (13 R301; 17 R394): a place at the head of
the line and room. -/
def State.scaleRoom (s : State) (ctx l n : Nat) : Land :=
  if (s.lineOf ctx l).headD n != n then .wait
  else
    match s.place ctx l with
    | .unused => .lost
    | .moving => .wait
    | .resident p => if (s.getCore p).eng.fifo.length < fifoSize then .ok else .wait
    | .absent image => if s.pnat (mxBlock image + 4) 2 < fifoSize then .ok else .wait

/-- Pushes a scale word at a logical core (10 R221; 17 R394). -/
def State.pushScale (s : State) (ctx l : Nat) (w : SWord) : State :=
  match s.place ctx l with
  | .resident p =>
    let c := s.getCore p
    s.setCore { c with eng := { c.eng with fifo := c.eng.fifo ++ [w] } }
  | .absent image =>
    let n := s.pnat (mxBlock image + 4) 2
    s.divert ctx (mxBlock image)
      [(4, 2, n + 1), (64 + 4 * n, 4, w.word.toNat), (1088 + n / 8, 1, setBits (s.pnat (mxBlock image + 1088 + n / 8) 1)
        (n % 8) (n % 8) (b2n w.stop))]
  | _ => s

/-- Marks the last word pushed at a logical core as the batch end (13 R302). -/
def State.endBatch (s : State) (ctx l : Nat) : State :=
  match s.place ctx l with
  | .resident p =>
    let c := s.getCore p
    let f := c.eng.fifo
    let last := fun (l : List SWord) => l.dropLast ++ (l.getLast?.map fun w => { w with stop := true }).toList
    if f = [] then s.setCore { c with mx := { c.mx with batch := last c.mx.batch } }
    else s.setCore { c with eng := { c.eng with fifo := last f } }
  | .absent image =>
    let n := s.pnat (mxBlock image + 4) 2
    if n = 0 then s
    else
      let k := n - 1
      let a := 1088 + k / 8
      s.divert ctx (mxBlock image) [(a, 1, setBits (s.pnat (mxBlock image + a) 1) (k % 8) (k % 8) 1)]
  | _ => s

/-- Takes a place in the line of a logical core's scale FIFO, wherever that core is (13 R301). -/
def State.joinLine (s : State) (ctx l n : Nat) : State :=
  let q := s.lineOf ctx l
  if q.contains n then s
  else { s with lines := (s.lines.filter fun x => !(x.ctx == ctx && x.lcore == l)) ++ [ScaleLine.mk ctx l (q ++ [n])] }

/-- Whether a copy command lands at other logical cores than its own (13 R299, R301). -/
def CCmd.multi (k : CCmd) : Bool := k.targets != [k.lcore]

/-- Whether a producer in a line has begun its batch, or is a multicast one, which takes its place as it starts (13 R301). -/
def State.begun (s : State) (n : Nat) : Bool :=
  let copy := fun (k : CCmd) => k.seq == n && (decide (0 < k.pushed) || k.multi)
  (s.allCores.any fun c => c.eng.bte.any copy || c.mx.pushing.any fun q => q.1.id == n && decide (0 < q.2)) ||
    s.kept.any fun e => copy e.2

/-- A multicast producer takes its place at a scale FIFO as it starts: behind every batch begun there, before the producers
that only wait (13 R301). -/
def State.joinStarted (s : State) (ctx l n : Nat) : State :=
  let q := s.lineOf ctx l
  if q.contains n then s
  else
    let first := (q.reverse.dropWhile fun m => !(s.begun m)).reverse
    { s with lines := (s.lines.filter fun x => !(x.ctx == ctx && x.lcore == l)) ++
      [ScaleLine.mk ctx l (first ++ [n] ++ q.drop first.length)] }

/-- Leaves the line of every logical core (13 R301). -/
def State.leaveLine (s : State) (n : Nat) : State :=
  { s with lines := (s.lines.map fun x => { x with queue := x.queue.filter fun k => k != n }).filter fun x => x.queue != [] }

/-- The bytes of a barrier operand in an image's copy record or follow-on (17 R390). -/
def barImage (b : BarRef) : Nat := if b.named then 2 ^ 63 + barName b.lcore b.idx else b.idx

/-- The barrier operand from an image, for a logical core. -/
def barOfImage (v l : Nat) : BarRef :=
  if bits v 63 63 = 1 then (BarRef.mk true (bits v 17 8) (bits v 7 0)) else (BarRef.mk false l (bits v 7 0))

/-- A follow-on enters the matrix queue of a logical core, or is held in its image, which holds 8 (10 R226; 17 R394). -/
def State.landFollow (s : State) (ctx l : Nat) (m : MCmd) : Land × State :=
  match s.place ctx l with
  | .unused => (.lost, s)
  | .moving => (.wait, s)
  | .resident p =>
    let c := s.getCore p
    if c.mx.queue.length < 8 then (.ok, s.setCore { c with mx := { c.mx with queue := c.mx.queue ++ [m] } })
    else (.wait, s)
  | .absent image =>
    let n := s.pnat (mxBlock image + 6) 2
    if n < 8 then
      let a := 2048 + 160 * n
      (.ok, s.divert ctx (mxBlock image)
        [(6, 2, n + 1), (a, 128, m.shape.toNat), (a + 128, 8, m.x.toNat), (a + 136, 8, m.bundle.toNat),
          (a + 144, 8, (m.bar.map barImage).getD 0), (a + 152, 8, b2n m.bar.isSome)])
    else (.wait, s)

/-! ## Records (08 R185; 14 R337, R338) -/

/-- The ring of a context: base and records (14 R338). -/
def ringOf (w : Word) : Nat × Nat := (wbits w 63 12 * 4096, 256 * 2 ^ min 8 (wbits w 3 0))

/-- A core-path write of a core into its context's space that reports nothing (14 R338): whether it was made. -/
def State.ringPut (s : State) (p ctx va : Nat) (bs : List Byte) : Bool × State :=
  match engineParts p ctx (s.getCore p).level .write (pageParts va bs.length) s with
  | (.error _, s) => (false, s)
  | (.ok parts, s) =>
    let r := parts.foldl
      (fun (a : List Byte × State) x => (a.1.drop x.2, a.2.pwrite (a.2.payer p) x.1 (a.1.take x.2) (some false)))
      (bs, if parts.any fun x => nodeOf x.1 = 0 then dirtyLog s ctx va bs.length else s)
    let c := r.2.getCore p
    let new := (parts.filter fun x => decide (nodeOf x.1 = 1 ∨ nodeOf x.1 = 2)).map fun x => 
      (Ack.mk (nodeOf x.1) x.1 va c.owner.task ctx c.self.2 c.pc true)
    (true, r.2.setCore { c with port := { c.port with acks := c.port.acks ++ new } })

/-- Counts a lost statistics record of a context (14 R337, R338); a disabled ring counts nothing. -/
def State.statLose (s : State) (p ctx : Nat) (ring : Word) : State :=
  let base := (ringOf ring).1
  match Tab.get s.ctxs ctx with
  | none => s
  | some x =>
    if base = 0 then s
    else
      let n := min (2 ^ 32 - 1) (x.statLost + 1)
      ((s.onCtx ctx fun x => { x with statLost := n }).ringPut p ctx (base + 16) (toBytes 4 n)).2

/-- The records of a statistics queue (14 R311). -/
def statSize : Nat := 32

/-- The ring of a context whose engine makes a record at core p: the register of the kernel there, else what the device
keeps with the context (14 R338). -/
def State.ringWord (s : State) (p ctx : Nat) : Word :=
  let c := s.getCore p
  if c.seat.isSome && c.self.1 == ctx then c.csr.statRing else ((Tab.get s.ctxs ctx).map (·.statRing)).getD 0

/-- An engine appends a statistics record of a context at a core (14 R337). -/
def State.stat (s : State) (p ctx kind source handle : Nat) (bundle : Word) : State :=
  let c := s.getCore p
  if c.eng.statq.length < statSize then
    s.setCore { c with eng := { c.eng with
      statq := c.eng.statq ++ [(Stat.mk ctx kind source handle (s.tick % 2 ^ 32) bundle)] } }
  else s.statLose p ctx (s.ringWord p ctx)

/-- The 16 bytes of a statistics record (14 R337). -/
def Stat.bytes (r : Stat) : List Byte :=
  toBytes 1 r.kind ++ toBytes 1 r.source ++ toBytes 2 r.handle ++ toBytes 4 r.tick ++ toBytes 8 r.bundle.toNat

/-- Writes one record to the ring that its context has now, then the write index (14 R338). -/
def State.statWrite (s : State) (p : Nat) (r : Stat) : State :=
  let c := s.getCore p
  match Tab.get s.ctxs r.ctx with
  | none => s
  | some x =>
    let word := s.ringWord p r.ctx
    let ring := ringOf word
    if ring.1 = 0 then s
    else
      match engineRead s p r.ctx c.owner c.level (ring.1 + 8) 8 with
      | (.error _, s) => s.statLose p r.ctx word
      | (.ok rd, s) =>
        if (x.statWr + 2 ^ 64 - ofBytes rd.1) % 2 ^ 64 = ring.2 then s.statLose p r.ctx word
        else
          match s.ringPut p r.ctx (ring.1 + 64 + 16 * (x.statWr % ring.2)) r.bytes with
          | (false, s) => s.statLose p r.ctx word
          | (true, s) =>
            let s := s.onCtx r.ctx fun x => { x with statWr := x.statWr + 1 }
            (s.ringPut p r.ctx ring.1 (toBytes 8 (x.statWr + 1))).2

/-- Drains the oldest statistics record of a core (14 R338). -/
def State.statStep (s : State) (p : Nat) : State :=
  let c := s.getCore p
  match c.eng.statq with
  | [] => s
  | r :: rs => (s.setCore { c with eng := { c.eng with statq := rs } }).statWrite p r

/-- Drains every record of a core (14 R339, 17 R393). -/
def State.statAll (s : State) (p : Nat) : State :=
  ((s.getCore p).eng.statq).foldl (fun s _ => s.statStep p) s

/-! ## Messages of an engine (14 R335, R336) -/

/-- Queues a message of an engine of core p for a logical core of a context. -/
def State.engineSend (s : State) (p ctx l : Nat) (b : Body) (handle : Nat) (bundle : Word) (task src : Nat) : State :=
  let s := match Tab.get s.ctxs ctx with
    | some x => s.addPending x l 1
    | none => s
  let c := s.getCore p
  s.setCore { c with port := { c.port with
    window := c.port.window ++ [(Msg.mk c.port.seq ctx l b .sent handle bundle task src true none)]
    seq := c.port.seq + 1 } }

/-- Whether n more messages find room in the window of core p (14 R336). -/
def State.windowFits (s : State) (p n : Nat) : Bool := decide ((s.getCore p).inWindow + n ≤ 32)

/-- The updates of barriers that an engine of a logical core sends as messages: those aimed at other logical cores, and
at its own while that one moves. -/
def State.postMsgs (s : State) (ctx l : Nat) (bs : List BarRef) : Nat :=
  (bs.filter fun b => b.lcore != l || decide (s.place ctx l = .moving)).length

/-- Whether bytes that end before an address and those from there on share 64 bytes, or an aligned 8-byte word, with what
began at o. -/
def goesOn (o off : Nat) : Bool := decide (o / 64 = off / 64) || decide ((off - 1) / 8 = off / 8)

/-- Bytes of an engine command of a logical core, by its number, for another logical core's scratchpad, as a remote store
(13 R300; 10 R234): joined to the last message for that logical core where it is the command's and they go on in the same 64
bytes, so that an aligned 8-byte word goes whole (12 R275; log 92). -/
def State.sendStore (s : State) (p ctx src task seq : Nat) (bundle : Word) (l off : Nat) (bs : List Byte) (bad : Bool)
    (crd : List Nat) (handle : Nat) : State :=
  let c := s.getCore p
  let w := c.port.window
  let el := StoreEl.mk off bad crd
  let new := s.engineSend p ctx l (.store seq off bs [el]) handle bundle task src
  let last := ((List.range w.length).filter fun i => ((w[i]?).map fun m => m.ctx == ctx && m.lcore == l).getD false).getLast?
  match last.bind fun i => (w[i]?).map fun m => (i, m) with
  | some (i, m) =>
    match m.body with
    | .store n o b els =>
      if m.st = .sent ∧ m.dest = none ∧ n = seq ∧ o + b.length = off ∧ goesOn o off = true then
        s.setCore { c with port := { c.port with window := setNth w i { m with body := .store n o (b ++ bs) (els ++ [el]) } } }
      else new
    | _ => new
  | none => new

/-- Whether an engine command of core p has bytes under way to another scratchpad (13 R292). -/
def State.storing (s : State) (p seq : Nat) : Bool :=
  (s.getCore p).port.window.any fun m => m.st != .accepted && (match m.body with
    | .store n _ _ _ => n == seq
    | _ => false)

/-- What whole coverage of words and of a loaf does at a logical core (09 R198, R215; 17 R394). -/
def State.coverSp (s : State) (ctx l loaf : Nat) (ws : List Nat) (whole : Bool) : State :=
  match s.place ctx l with
  | .resident p =>
    let c := s.getCore p
    match c.heldLoaf loaf with
    | none => s
    | some f =>
      let c := { c with sp := { c.sp with poison := c.sp.poison.filter fun w => !(ws.any fun k => f * 64 + k == w) } }
      s.setCore (if whole then c.renewLoaf s.tick loaf else c)
  | .absent image =>
    if s.imgLoaf image loaf = 0 then s
    else
      let s := s.updMem fun m => { m with
        poison := m.poison.filter fun x => !(ws.any fun k => image / 64 + loaf * 64 + k == x)
        sys := m.sys.map fun e =>
          if ws.any fun k => image / 64 + loaf * 64 + k == e.1 then (e.1, { e.2 with poison := false }) else e }
      if whole then s.divert ctx (loafEntry image loaf) [(0, 1, 1)] else s
  | _ => s

/-! ## Posts (13 R292, R299; 16 R371) -/

/-- An update of a barrier by an engine of core p for a logical core: of that one's own barrier at once, of another's
as a message (14 R335, R336). -/
def State.post (s : State) (p ctx l : Nat) (b : BarRef) (u : BarUpdate) (handle : Nat) (bundle : Word)
    (task : Nat) : State :=
  if b.lcore ≠ l then s.engineSend p ctx b.lcore (.barrier b.idx u) handle bundle task l
  else
    match s.barUpdate ctx b.lcore b.idx u with
    | (.landed, s) => s
    | (.refused, s) => s.engineSend p ctx b.lcore (.barrier b.idx u) handle bundle task l
    | (_, s) => s.copyFault ctx l 1 handle bundle 0 [] noPos

end Sys2Proof.Machine
end

