-- ==== Sys2Proof/Machine/Matrix.lean ====
section
/-! DEFINITION. The matrix unit: the arithmetic of group sums (02 R37 to R48), the command queue, the scale FIFO's
popper, and the matrix instructions (10 R216 to R240). -/

namespace Sys2Proof.Machine

/-! ## Arithmetic (02 R37 to R45) -/

/-- The E2M1 value of a 4-bit code (R39): sign, two exponent bits with bias 1, one fraction bit. -/
def e2m1 (q : Nat) : FVal :=
  .fin (decide (8 ≤ q % 16)) ([0, 1, 2, 3, 4, 6, 8, 12].getD (q % 8) 0) (-1)

/-- An integer as a value. -/
def intVal (x : Int) : FVal := .fin (decide (x < 0)) x.natAbs 0

/-- Bytes of one 32-element group, dense and sparse, by B format (10 R220). -/
def gBytes (bf : Nat) (sparse : Bool) : Nat :=
  match bf with
  | 0 => if sparse then 20 else 32
  | 1 => 32
  | 2 => 64
  | 4 => 12
  | _ => if sparse then 12 else 16

/-- The stored values of a group: 16 sparse or 32 dense (R37, R39; 10 R220). -/
def storedVals (bf n : Nat) (z : Nat) (g : Nat) : List FVal :=
  match bf with
  | 0 => (digits 8 n g).map (FVal.dec FTy.e4m3.fmt)
  | 1 => (digits 8 n g).map (FVal.dec FTy.e5m2.fmt)
  | 2 => (digits 16 n g).map (FVal.dec FTy.bf16.fmt)
  | 3 => (digits 4 n g).map fun q => intVal ((q : Int) - z)
  | 4 => (digits 3 n g).map fun q => intVal ((q : Int) - z)
  | _ => (digits 4 n g).map e2m1

/-- The 32 elements of a group by position codes (R40): none is omitted. -/
def placeSparse (vals : List FVal) (codes : List Nat) : List (Option FVal) :=
  (codes.zip (List.range 8)).flatMap fun x =>
    (List.range 4).map fun i =>
      if x.1 / 4 % 4 = i then vals[2 * x.2 + 1]? else if x.1 % 4 = i then vals[2 * x.2]? else none

/-- The expanded elements of one B group from its bytes (R40, R42; 10 R220). -/
def bGroup (bf : Nat) (sparse : Bool) (z : Nat) (bs : List Byte) : List (Option FVal) :=
  let g := ofBytes bs
  if sparse then placeSparse (storedVals bf 16 z g) (digits 4 8 (g / 2 ^ (8 * (gBytes bf true - 4))))
  else (storedVals bf 32 z g).map some

/-- The scale and the zero point of a scale word (R38, R39). -/
def scaleOf (bf : Nat) (w : Nat) : FVal × Nat :=
  if bf = 5 then (if w % 256 = 255 then .nan false else .fin false 1 ((w % 256 : Nat) - 127), 0)
  else (FVal.dec FTy.bf16.fmt (w % 65536), bits w 23 16)

/-- A product of an A element and a B element (R41, R43). -/
def product (a : FVal) (b : Option FVal) : FVal :=
  match b with
  | none => .fin false 0 0
  | some b => (FVal.mul a b).1

/-- Whether a value is a zero. -/
def FVal.isZero : FVal → Bool
  | .fin _ m _ => decide (m = 0)
  | _ => false

/-- Whether a value is finite. -/
def FVal.isFin : FVal → Bool
  | .fin _ _ _ => true
  | _ => false

/-- The exact sum of finite products truncated toward zero at the granule 2^q (R44). -/
def alignedSum (q : Int) (ps : List FVal) : Int :=
  ps.foldl
    (fun s p =>
      match p with
      | .fin n m e =>
        let t := if q ≤ e then m * 2 ^ (e - q).toNat else m / 2 ^ (q - e).toNat
        if n then s - t else s + t
      | _ => s) 0

/-- The leading-bit exponent of a product, for nonzero ones. -/
def FVal.top : FVal → Option Int
  | .fin _ m e => if m = 0 then none else some (Nat.log2 m + e)
  | _ => none

/-- The group sum of 32 products (R44). -/
def groupSum (ps : List FVal) : FVal :=
  let infs := ps.filterMap fun p => match p with
    | .inf n => some n
    | _ => none
  if ps.any FVal.isNan || (infs.contains true && infs.contains false) then .nan false
  else
    match infs with
    | n :: _ => .inf n
    | [] =>
      match ps.filterMap FVal.top with
      | [] => .fin (ps.all fun p => match p with | .fin n _ _ => n | _ => false) 0 0
      | t :: ts =>
        let q := ts.foldl max t - 28
        let s := alignedSum q ps
        if s = 0 then .fin false 0 0
        else FVal.dec FTy.f32.fmt (rne32 (.fin (decide (s < 0)) s.natAbs q))

/-- The statistics kinds of R48. -/
def kOVERFLOW : Nat := 1
/-- A NaN generated. -/
def kNAN : Nat := 2
/-- Saturation. -/
def kSAT : Nat := 3
/-- Scale mismatch. -/
def kMISMATCH : Nat := 4

/-- Whether an f32 encoding is an infinity. -/
def isInf32 (x : Nat) : Bool := x % 2 ^ 31 == 0x7F800000

/-- One accumulation acc := rne32(acc + s × g) (R45), with its statistics kinds. -/
def accumulate (acc : Nat) (s g : FVal) : Nat × List Nat :=
  let a := FVal.dec FTy.f32.fmt acc
  let sum := FVal.add 0 a (FVal.mul s g).1
  let r := rne32 sum.1
  (r, if sum.1.isNan then (if a.isNan || s.isNan || g.isNan then [] else [kNAN])
    else if isInf32 r && a.isFin && s.isFin && g.isFin then [kOVERFLOW] else [])

/-- One element over one K-group: the group sum, its statistics, the accumulation (R44, R45, R48). A NaN that an infinity
times a zero gives counts as generated only where no operand of the whole group is a NaN: the model's choice (log 129). -/
def accumGroup (acc : Nat × List Nat) (as : List FVal) (bs : List (Option FVal)) (s : FVal) : Nat × List Nat :=
  let ps := List.zipWith product as bs
  let g := groupSum ps
  let nanIn := (as.zip bs).any fun x => match x.2 with
    | some b => x.1.isNan || b.isNan
    | none => false
  let k1 := match g with
    | .inf _ => if ps.all FVal.isFin then [kOVERFLOW] else []
    | .nan _ => if nanIn then [] else [kNAN]
    | _ => []
  let r := accumulate acc.1 s g
  (r.1, acc.2 ++ k1 ++ r.2)

/-! ## Descriptors (10 R228, R229, R233, R234) -/

/-- row_blk of an MMA descriptor. -/
def mRow (x : Word) : Nat := wbits x 50 48
/-- col_blk. -/
def mCol (x : Word) : Nat := wbits x 44 40
/-- N. -/
def mN (x : Word) : Nat := 8 * (wbits x 36 32 + 1)
/-- zero_init. -/
def mZero (x : Word) : Bool := x.getLsbD 26
/-- scales. -/
def mScales (x : Word) : Bool := x.getLsbD 25
/-- G. -/
def mGroup (x : Word) : Nat := 32 * 2 ^ wbits x 24 23
/-- sparse. -/
def mSparse (x : Word) : Bool := x.getLsbD 22
/-- bfmt. -/
def mFmt (x : Word) : Nat := wbits x 21 19
/-- wb_off. -/
def mOff (x : Word) : Nat := wbits x 18 0

/-- The bytes of one B column (10 R219). -/
def colBytes (r : Rec) (x : Word) : Nat := boxOf r 0 / 32 * gBytes (mFmt x) (mSparse x)

/-- The bytes of a weight buffer. -/
def wbSize : Nat := 524288

/-- The checks of R229 on the A record and the descriptor. -/
def mmaOk (r : Rec) (x : Word) : Bool :=
  spaceSp r && decide (rankOf r = 2) && decide (6 ≤ elemOf r ∧ elemOf r ≤ 8) && !sparseOf r && !scaleEn r &&
    decide (mcastOf r = 0) &&
    decide (boxOf r 0 % 32 = 0 ∧ 32 ≤ boxOf r 0 ∧ boxOf r 0 ≤ 256) &&
    decide (boxOf r 1 % 16 = 0 ∧ 16 ≤ boxOf r 1 ∧ boxOf r 1 ≤ 128) &&
    decide (wbits x 63 51 = 0 ∧ wbits x 47 45 = 0 ∧ wbits x 39 37 = 0 ∧ wbits x 31 27 = 0) &&
    decide (mFmt x ≤ 5) && decide (wbits x 24 23 ≠ 3) &&
    (!mSparse x || decide (mFmt x = 0 ∨ mFmt x = 3 ∨ mFmt x = 5)) &&
    (decide (mFmt x ≠ 5) || decide (wbits x 24 23 = 0)) && (mScales x == decide (3 ≤ mFmt x)) &&
    decide (mCol x + mN x / 8 ≤ 24) && decide (16 * mRow x + boxOf r 1 ≤ 128) &&
    decide (mOff x % 4 = 0) && decide (mOff x + mN x * colBytes r x ≤ wbSize)

/-- The checks of WLD (R233). -/
def wldOk (r : Rec) (x : Word) : Bool :=
  let dst := wbits x 18 0
  spaceSp r && decide (mcastOf r = 0) && [6, 7, 8, 11, 12, 13].contains (elemOf r) && decide (dst % 4 = 0) &&
    decide (dst + boxBytes r ≤ wbSize)

/-- row_blk of ACCST, ACCLD and ACCRD (R234, R237). -/
def aRow (x : Word) : Nat := wbits x 2 0
/-- col_blk of ACCST, ACCLD and ACCRD. -/
def aCol (x : Word) : Nat := wbits x 12 8

/-- The checks of ACCST, and of ACCLD with i32 allowed (R234, R235). -/
def accOk (r : Rec) (x : Word) (ld : Bool) : Bool :=
  decide (rankOf r = 2) && (decide (6 ≤ elemOf r ∧ elemOf r ≤ 10) || (ld && decide (elemOf r = 4))) && !sparseOf r &&
    !scaleEn r && decide (boxOf r 0 % 8 = 0 ∧ 8 ≤ boxOf r 0 ∧ boxOf r 0 ≤ 192) &&
    decide (boxOf r 1 % 16 = 0 ∧ 16 ≤ boxOf r 1 ∧ boxOf r 1 ≤ 128) &&
    decide (aCol x + boxOf r 0 / 8 ≤ 24) && decide (16 * aRow x + boxOf r 1 ≤ 128)

/-- The regions that columns c to c + n − 1 lie in, as a mask (R218). -/
def regionMask (c n : Nat) : Nat :=
  ((List.range 4).map fun g => if 48 * g < c + n ∧ c < 48 * (g + 1) then 2 ^ g else 0).foldl (· + ·) 0

/-- The regions that a command writes. -/
def MCmd.writes (m : MCmd) : Nat :=
  match m.kind with
  | .mma => regionMask (8 * mCol m.x) (mN m.x)
  | .accld => regionMask (8 * aCol m.x) (boxOf m.shape 0)
  | .accclr => wbits m.x 3 0
  | _ => 0

/-- The regions that a command reads or writes. -/
def MCmd.touches (m : MCmd) : Nat :=
  match m.kind with
  | .accst => regionMask (8 * aCol m.x) (boxOf m.shape 0)
  | _ => m.writes

/-! ## Outstanding work of a core -/

/-- The gang members' logical cores of the step that holds a logical core (01 R22). -/
def State.membersOf (s : State) (ctx l : Nat) : List Nat :=
  ((s.steps.find? fun t => t.lcores.contains l && ((s.taskOf t.task).map (·.ctx)) == some ctx).map
    (·.lcores)).getD [l]

/-- The barrier to which a follow-on at a logical core posts (13 R298). -/
def CCmd.followBar (c : CCmd) (l : Nat) : Option BarRef :=
  match c.kind with
  | .copym true => some (if c.bar.named then c.bar else (BarRef.mk false l c.bar.idx))
  | _ => none

/-- The follow-on of a COPYM at a logical core (13 R298), whose statistics records go to the queue of core p where that
is another core's (14 R337). -/
def CCmd.follow (c : CCmd) (l : Nat) (p : Option Nat) : MCmd :=
  (MCmd.mk c.seq .mma (c.recs.getD 1 0) (c.ops.getD 2 0) (c.followBar l) c.bundle c.level true c.ctx l c.owner c.gang false
    [] (if l = c.lcore then none else p) 0 false c.tick)

/-- Whether a copy command is a COPYM. -/
def CCmd.isCopym (c : CCmd) : Bool :=
  match c.kind with
  | .copym _ => true
  | _ => false

/-- The committed copy commands of a core: in its drain and in its command buffer. -/
def Core.copies (c : Core) : List CCmd :=
  (c.drain.filterMap fun e => match e.kind with
    | .copy k => some k
    | _ => none) ++ c.eng.bte

/-- The committed matrix commands of a core that have not completed, follow-ons to come included (10 R237, R238). -/
def State.matrixWork (s : State) (p : Nat) : List MCmd :=
  let c := s.getCore p
  let own := c.drain.filterMap fun e => match e.kind with
    | .matrix m => if e.ctx = c.self.1 ∧ e.lcore = c.self.2 then some m else none
    | _ => none
  let follow := (s.allCores.flatMap Core.copies ++ s.kept.map (·.2)).filter fun k =>
    k.isCopym && k.ctx == c.self.1 && k.targets.contains c.self.2 && !k.followed.contains c.self.2
  own ++ c.mx.queue ++ c.mx.pushing.map (·.1) ++ follow.map fun k => k.follow c.self.2 none

/-- Whether a region of core p's accumulators is busy (10 R237). -/
def State.regionBusy (s : State) (p g : Nat) : Bool := (s.matrixWork p).any fun m => m.writes.testBit g

/-- Whether a command satisfies an MWAIT mask (10 R238). -/
def MCmd.inMask (m : MCmd) (mask : Nat) : Bool :=
  mask.testBit 5 || (mask.testBit 4 && decide (m.kind = .wld)) || decide (m.touches &&& (mask % 16) ≠ 0)

/-! ## Running commands -/

/-- Records a COPYFAULT of a matrix command, once for each detail (10 R234, R239). -/
def mxFault (s : State) (m : MCmd) (detail va : Nat) (crd : List Nat) : State × MCmd :=
  if m.faults.contains (cCOPYFAULT, detail) then (s, m)
  else (s.copyFault m.ctx m.lcore detail (handleOf m.shape) m.bundle va crd noPos,
    { m with faults := m.faults ++ [(cCOPYFAULT, detail)] })

/-- Coordinates as the record holds them: i32. -/
def crdBytes (xs : List Int) : List Nat := xs.map (lowBits 32)

/-- Reads unit e of a record for a matrix command of core p (10 R227, R230, R233, R235): its bytes and whether they are
poisoned; what cannot be read, and what lies outside, is the fill pattern. -/
def mxRead (p : Nat) (r : Rec) (a : State × MCmd) (e : Nat) : (List Byte × Bool) × (State × MCmd) :=
  let xs := coords r e
  let n := unitBytes r
  if insideAt r xs = false then ((fillBytes r, false), a)
  else
    let va := addrAt r xs
    if spaceSp r then
      match (a.1.getCore p).engineLoad a.1.tick va n with
      | .ok bs => ((bs, false), a)
      | .error 0 =>
        let b := mxFault a.1 a.2 0 va (crdBytes xs)
        ((fillBytes r, false), (b.1, { b.2 with poisoned := true }))
      | .error _ => ((List.replicate n 0, true), (a.1, { a.2 with poisoned := true }))
    else
      match engineRead a.1 p a.2.ctx a.2.owner a.2.level va n with
      | (.ok x, s) => ((if x.2 then List.replicate n 0 else x.1, x.2), (s, { a.2 with poisoned := a.2.poisoned || x.2 }))
      | (.error d, s) =>
        let b := mxFault s a.2 d.1 d.2 (crdBytes xs)
        ((fillBytes r, false), (b.1, { b.2 with poisoned := true }))

/-- Reads every unit of the box, in box linear order. -/
def mxReadBox (p : Nat) (r : Rec) (a : State × MCmd) : List (List Byte × Bool) × (State × MCmd) :=
  (List.range (boxUnits r)).foldl
    (fun (x : List (List Byte × Bool) × (State × MCmd)) e =>
      let y := mxRead p r x.2 e
      (x.1 ++ [y.1], y.2)) ([], a)

/-- Changes the matrix state of core p. -/
def State.onMx (s : State) (p : Nat) (f : Matrix → Matrix) : State :=
  let c := s.getCore p
  s.setCore { c with mx := f c.mx }

/-- Writes accumulator elements from (row, col) on, with their poison bits (10 R218, R230, R235). -/
def Matrix.writeAcc (m : Matrix) (row col : Nat) (vs : List (Nat × Bool)) : Matrix :=
  let i0 := 192 * row + col
  let is := (List.range vs.length).map (· + i0)
  let bad := (vs.zip is).filterMap fun x => if x.1.2 then some x.2 else none
  { m with
    acc := m.acc.write (4 * i0) (vs.flatMap fun v => toBytes 4 v.1)
    accPoison := NSet.addAll (NSet.delRange m.accPoison i0 vs.length) bad
    markC := m.markC ||| BitVec.ofNat 4 (regionMask col vs.length) }

/-- An accumulator element and its poison bit. -/
def Matrix.accAt (m : Matrix) (row col : Nat) : Nat × Bool :=
  (m.acc.nat (4 * (192 * row + col)) 4, NSet.has m.accPoison (192 * row + col))

/-- The scale words that one scale stream pushes, by the coordinates of the first element each covers (06 R146; 10 R221):
columns ascending, scale groups ascending in K. -/
def scaleCoords (r : Rec) : List (Int × Int) :=
  let g := 32 * 2 ^ groupCode r
  let ks := (List.range (boxOf r 0 / 32)).filterMap fun i =>
    let x0 := crdOf r 0 + 32 * (i : Int)
    if i = 0 ∨ x0 % g = 0 then some x0 else none
  let cols := if rankOf r < 2 then [0] else (List.range (boxOf r 1)).map fun j => crdOf r 1 + (j : Int)
  cols.flatMap fun x1 => ks.map fun x0 => (x0, x1)

/-- The coordinates of the first element that a scale word covers (13 R302): those of the record's rank. -/
def scaleCrd (r : Rec) (x : Int × Int) : List Int :=
  if rankOf r < 2 then [x.1] else [x.1, x.2] ++ (List.range (rankOf r - 2)).map fun k => crdOf r (k + 2)

/-- The address of a scale word (06 R146). -/
def scaleAddr (r : Rec) (x : Int × Int) : Nat :=
  lowBits 64 ((sbaseOf r : Int) + x.2 * (sstrOf r : Int) + x.1 / (32 * 2 ^ groupCode r : Nat) * 4)

/-- Posts the bytes of a matrix command to its barrier (10 R233 to R235; 16 R372). -/
def mxPost (s : State) (p : Nat) (m : MCmd) : State :=
  match m.bar with
  | some b => s.post p m.ctx m.lcore b (.post (boxBytes m.shape) m.poisoned) (handleOf m.shape) m.bundle m.owner.task
  | none => s

/-- A WLD ends its push: it leaves the line, and posts. -/
def endPush (s : State) (p : Nat) (m : MCmd) : State :=
  let s := (s.leaveLine m.id).onMx p fun x => { x with pushing := x.pushing.filter fun q => q.1.id != m.id }
  mxPost s p m

/-- Pushes one scale word of the WLD whose turn it is (10 R221, R233; 13 R301); false when nothing can be pushed. -/
def pushWld (p : Nat) (s : State) : Bool × State :=
  let c := s.getCore p
  match c.mx.pushing.find? fun q => (s.lineOf q.1.ctx q.1.lcore).headD q.1.id == q.1.id with
  | none => (false, s)
  | some (m, k) =>
    let ws := scaleCoords m.shape
    if !(s.windowFits p (s.postMsgs m.ctx m.lcore m.bar.toList)) then (false, s)
    else
      match ws[k]? with
      | none => (true, endPush s p m)
      | some x =>
        if fifoSize ≤ c.eng.fifo.length then (false, s)
        else
          match scaleRead s p m.ctx m.owner m.level (scaleAddr m.shape x) with
          | (.error d, s) =>
            let b := mxFault s m d.1 d.2 (crdBytes (scaleCrd m.shape x))
            let s := if k = 0 then b.1 else b.1.endBatch m.ctx m.lcore
            (true, endPush s p b.2)
          | (.ok v, s) =>
            let s := s.pushScale m.ctx m.lcore (SWord.mk v (decide (k + 1 = ws.length)) false)
            (true, s.onMx p fun y => { y with
              pushing := y.pushing.map fun q => if q.1.id == m.id then (q.1, k + 1) else q })

/-- Pops one scale word for the first command of the queue that needs scales (10 R221, R222). -/
def popScale (p : Nat) (s : State) : Bool × State :=
  let c := s.getCore p
  match c.eng.fifo with
  | [] => (false, s)
  | w :: ws =>
    if (c.mx.queue.any fun m => decide (m.kind = .mma) && mScales m.x) && !((c.mx.batch.getLast?.map (·.stop)).getD false)
    then (true, s.setCore { c with eng := { c.eng with fifo := ws }, mx := { c.mx with batch := c.mx.batch ++ [w] } })
    else (false, s)

/-- Moves scale words through the FIFO as far as they go, at most n of them (10 R222, R233). -/
def pumpScales (p : Nat) : Nat → State → State
  | 0, s => s
  | n + 1, s =>
    match pushWld p s with
    | (true, s) => pumpScales p n s
    | (false, s) =>
      match popScale p s with
      | (true, s) => pumpScales p n s
      | (false, s) => s

/-- Whether a producer of the core's scale words has committed and not finished pushing (10 R222); a WLD behind the
command pushes only after it, in queue order (R225). A copy of its logical core may still run in the engine of the core
that it has left (13 R308). -/
def State.producing (s : State) (c : Core) : Bool :=
  !c.mx.pushing.isEmpty ||
    (s.allCores.flatMap Core.copies ++ s.kept.map (·.2)).any fun k =>
      decide (k.ctx = c.self.1 ∧ k.lcore = c.self.2) && !k.scaleDone && scaleEn (k.recs.headD 0) &&
        (match k.kind with
          | .copys | .copym _ => true
          | _ => false)

/-- The columns of B (10 R219 to R223): by column, its groups with their scales, and whether any byte or any scale word of
it is poisoned. -/
def bColumns (c : Core) (r : Rec) (x : Word) (words : List Nat) (bads : List Bool) :
    List (List (List (Option FVal) × FVal) × Bool) :=
  let ng := boxOf r 0 / 32
  let nh := (boxOf r 0 + mGroup x - 1) / mGroup x
  let gb := gBytes (mFmt x) (mSparse x)
  (List.range (mN x)).map fun j =>
    let base := mOff x + j * colBytes r x
    let poison := ((sectorsOf base (colBytes r x)).any fun w => NSet.has c.mx.wbPoison w) ||
      (mScales x && ((bads.drop (j * nh)).take nh).contains true)
    let gs := (List.range ng).map fun g =>
      let sz := if mScales x then scaleOf (mFmt x) (words.getD (j * nh + 32 * g / mGroup x) 0) else (.fin false 1 0, 0)
      (bGroup (mFmt x) (mSparse x) sz.2 (c.mx.wb.bytes (base + g * gb) gb), sz.1)
    (gs, poison)

/-- The canonical f32 NaN. -/
def nan32 : Nat := FTy.f32.fmt.nanEnc

/-- MMA at the head of the queue (10 R230): the accumulators, statistics kinds and the first poisoned element. -/
def runMma (s : State) (p : Nat) (m : MCmd) (batch : List SWord) : State :=
  let r := m.shape
  let x := m.x
  let k := boxOf r 0
  let nh := (k + mGroup x - 1) / mGroup x
  let u := mN x * nh
  let missing := if mFmt x = 5 then 0xFF else 0x7FC0
  let words := (List.range u).map fun i => ((batch[i]?).map fun w => w.word.toNat).getD missing
  let a := mxReadBox p r (s, m)
  let s := a.2.1
  let m := a.2.2
  let cols := bColumns (s.getCore p) r x words (batch.map (·.bad))
  let fmt := if elemOf r = 6 then FTy.e4m3.fmt else if elemOf r = 7 then FTy.e5m2.fmt else FTy.bf16.fmt
  let rows := (List.range (boxOf r 1)).map fun i =>
    let row := (a.1.drop (i * k)).take k
    let as := row.map fun y => FVal.dec fmt (ofBytes y.1)
    let bad := row.any (·.2)
    (cols.zip (List.range (mN x))).map fun c =>
      let old := (s.getCore p).mx.accAt (16 * mRow x + i) (8 * mCol x + c.2)
      if bad || c.1.2 || (!mZero x && old.2) then ((nan32, true), [])
      else
        let v := (c.1.1.zip (List.range c.1.1.length)).foldl
          (fun acc (g : (List (Option FVal) × FVal) × Nat) =>
            accumGroup acc ((as.drop (32 * g.2)).take 32) g.1.1 g.1.2) (if mZero x then 0 else old.1, [])
        ((v.1, false), v.2)
  let s := s.onMx p fun y => (rows.zip (List.range rows.length)).foldl
    (fun (y : Matrix) q => y.writeAcc (16 * mRow x + q.2) (8 * mCol x) (q.1.map (·.1))) y
  let first := (rows.zip (List.range rows.length)).findSome? fun q =>
    (q.1.zip (List.range q.1.length)).findSome? fun v =>
      if v.1.1.2 then some [8 * mCol x + v.2, 16 * mRow x + q.2] else none
  let s := match first with
    | some crd => (mxFault s m 3 0 crd).1
    | none => s
  let kinds := ((rows.flatMap fun q => q.flatMap (·.2)).foldl (fun l kd => if l.contains kd then l else l ++ [kd]) [])
  let q := m.home.getD p
  let s := kinds.foldl (fun s kd => s.stat q m.ctx kd 0 (handleOf r) m.bundle) s
  let s := if mScales x && decide (batch.length ≠ u) then
      (s.stat q m.ctx kMISMATCH 0 (handleOf r) m.bundle).trapRec m.ctx m.lcore
        (eventRec cDESYNC 0 (handleOf r) 0 s.tick m.bundle 0 [] noPos)
    else s
  match m.bar with
  | some b => s.post p m.ctx m.lcore b .arrive (handleOf r) m.bundle m.owner.task
  | none => s

/-- A record with the group offsets added to its coordinates (10 R232). -/
def shifted (c : Core) (r : Rec) : Rec :=
  let r := recSet r 16 (lowBits 32 (crdOf r 0 + (c.mx.colOff : Int)))
  recSet r 17 (lowBits 32 (crdOf r 1 + (c.mx.rowOff : Int)))

/-- The float format of an element code (06 R144). -/
def fmtOf (el : Nat) : Fmt :=
  match el with
  | 6 => FTy.e4m3.fmt | 7 => FTy.e5m2.fmt | 8 => FTy.bf16.fmt | 9 => FTy.f16.fmt
  | _ => FTy.f32.fmt

/-- Converts an accumulator element for storing (10 R234): round to nearest, subnormals kept; the flag marks a saturation
to e4m3. -/
def accConvert (el v : Nat) : Nat × Bool :=
  let r := cvtFF FTy.f32.fmt (fmtOf el) .rne v
  (r.1, decide (el = 6) && decide (r.2 &&& fOF ≠ 0))

/-- The logical cores that a matrix command's scratchpad record lands at (06 R146). -/
def MCmd.targets (m : MCmd) (r : Rec) : List Nat := if spaceSp r then named m.gang m.lcore (mcastOf r) else []

/-- Writes one element of an ACCST (10 R234): through the matrix path to global memory, into the scratchpad of its own
logical core, and as messages to those of other members that a multicast record names (06 R146; 14 R335). What cannot be
written is skipped. -/
def accWrite (p : Nat) (r : Rec) (a : State × MCmd) (va : Nat) (bs : List Byte) (bad : Bool) (crd : List Nat) :
    State × MCmd :=
  let m := a.2
  let skip := fun (s : State) (d : Nat × Nat) =>
    let b := mxFault s m d.1 d.2 crd
    (b.1, { b.2 with poisoned := true })
  if spaceSp r then
    let s := ((m.targets r).filter (· != m.lcore)).foldl
      (fun s l => s.sendStore p m.ctx m.lcore m.owner.task m.id m.bundle l va bs bad crd (handleOf m.shape)) a.1
    if (m.targets r).contains m.lcore then
      let w := s.landSp m.ctx m.lcore va bs bad
      if w.1 = .ok then (w.2, m) else skip w.2 (1, va)
    else (s, m)
  else
    match engineWrite a.1 p m.ctx m.owner m.level va bs with
    | (.ok parts, s) => (if bad then parts.foldl (fun (s : State) q => s.poisonRange q.1 q.2) s else s, m)
    | (.error d, s) => skip s d

/-- The accumulator element of element e of an ACCST's box. -/
def accOf (c : Core) (m : MCmd) (e : Nat) : Nat × Bool :=
  c.mx.accAt (16 * aRow m.x + e / boxOf m.shape 0) (8 * aCol m.x + e % boxOf m.shape 0)

/-- Element e of an ACCST is converted and written, where it is inside (10 R234); the first that saturates appends the
command's statistics record (02 R48). -/
def accElem (p : Nat) (r : Rec) (a : State × MCmd) (e : Nat) : State × MCmd :=
  let xs := coords r e
  if insideAt r xs = false then a
  else
    let v := accOf (a.1.getCore p) a.2 e
    let c := accConvert (elemOf r) v.1
    let a := if v.2 then
        let b := mxFault a.1 a.2 3 0 [8 * aCol a.2.x + e % boxOf r 0, 16 * aRow a.2.x + e / boxOf r 0]
        (b.1, { b.2 with poisoned := true })
      else a
    let s := if c.2 && !a.2.saturated then a.1.stat p a.2.ctx kSAT 0 (handleOf a.2.shape) a.2.bundle else a.1
    accWrite p r (s, { a.2 with saturated := a.2.saturated || c.2 }) (addrAt r xs) (toBytes (unitBytes r) c.1) v.2
      (crdBytes xs)

/-- Writes elements of an ACCST, at most n of them, as long as its messages find room (14 R336). -/
def accElems (p : Nat) (r : Rec) : Nat → State × MCmd → State × MCmd
  | 0, a => a
  | n + 1, a =>
    if boxUnits r ≤ a.2.moved || !(a.1.windowFits p ((a.2.targets r).filter (· != a.2.lcore)).length) then a
    else
      let b := accElem p r a a.2.moved
      accElems p r n (b.1, { b.2 with moved := b.2.moved + 1 })

/-- The bank words that an ACCST has written whole with new data are clean, element by element though it writes them (09
R215). In global memory its elements, and the lanes of a VSTX, count singly for a sector written whole: the model's choice
(log 131). -/
def accClean (s : State) (p : Nat) (r : Rec) (m : MCmd) : State :=
  let c := s.getCore p
  let ins := (List.range (boxUnits r)).filter fun e => insideAt r (coords r e)
  let range := fun (e : Nat) => (addrAt r (coords r e), unitBytes r)
  let bad := (ins.filter fun e => (accOf c m e).2).flatMap fun e => sectorsOf (range e).1 (range e).2
  let words := (wholeUnits 64 (ins.map range)).filter fun w => !(bad.contains w)
  (m.targets r).foldl (fun s l => words.foldl (fun s w => s.coverSp m.ctx l (w / 64) [w % 64] false) s) s

/-- ACCST at the head of the queue (10 R234): its elements are written as they can be; none while some of them, or the
messages that carry them, are under way; at the end it posts. -/
def runAccst (s : State) (p : Nat) (m : MCmd) : Option MCmd × State :=
  let r := shifted (s.getCore p) m.shape
  let a := accElems p r (boxUnits r) (s, m)
  if a.2.moved < boxUnits r ∨ a.1.storing p m.id = true then (some a.2, a.1)
  else (none, mxPost (accClean a.1 p r a.2) p a.2)

/-- The f32 value of a loaded element (10 R235). -/
def accLoad (el v : Nat) : Nat :=
  if el = 4 then (cvtIF .i32 FTy.f32.fmt .rne v).1 else (cvtFF (fmtOf el) FTy.f32.fmt .rne v).1

/-- ACCLD at the head of the queue (10 R235). -/
def runAccld (s : State) (p : Nat) (m : MCmd) : State :=
  let r := shifted (s.getCore p) m.shape
  let n0 := boxOf r 0
  let a := mxReadBox p r (s, m)
  let vs := a.1.map fun y => if y.2 then (nan32, true) else (accLoad (elemOf r) (ofBytes y.1), false)
  let s := a.2.1.onMx p fun y => (List.range (boxOf r 1)).foldl
    (fun (y : Matrix) i => y.writeAcc (16 * aRow m.x + i) (8 * aCol m.x) ((vs.drop (i * n0)).take n0)) y
  let first := (vs.zip (List.range vs.length)).findSome? fun v =>
    if v.1.2 then some [8 * aCol m.x + v.2 % n0, 16 * aRow m.x + v.2 / n0] else none
  let b := match first with
    | some crd => mxFault s a.2.2 3 0 crd
    | none => (s, a.2.2)
  mxPost b.1 p b.2

/-- WLD at the head of the queue (10 R233): its bytes are written; with a scale stream it goes on pushing. Its record of
poison names the first unit written poisoned by its first two coordinates (R239; log 105). -/
def runWld (s : State) (p : Nat) (m : MCmd) : State :=
  let r := m.shape
  let dst := wbits m.x 18 0
  let u := unitBytes r
  let a := mxReadBox p r (s, m)
  let s := a.2.1.onMx p fun y =>
    let y := y.writeWb dst (a.1.flatMap (·.1)) false
    (a.1.zip (List.range a.1.length)).foldl
      (fun (y : Matrix) q => if q.1.2 then y.writeWb (dst + q.2 * u) q.1.1 true else y) y
  let b := match (List.range a.1.length).find? fun e => ((a.1[e]?).map (·.2)).getD false with
    | some e => mxFault s a.2.2 3 0 ((crdBytes (coords r e)).take 2)
    | none => (s, a.2.2)
  if scaleEn r then b.1.onMx p fun y => { y with pushing := y.pushing ++ [(b.2, 0)] }
  else mxPost b.1 p b.2

/-- ACCCLR at the head of the queue (10 R236). -/
def runAccclr (s : State) (p : Nat) (m : MCmd) : State :=
  s.onMx p fun y => (List.range 4).foldl
    (fun (y : Matrix) g =>
      if m.x.getLsbD g then
        (List.range 128).foldl (fun (y : Matrix) row => y.writeAcc row (48 * g) (List.replicate 48 (0, false))) y
      else y) y

/-- Notes the tick with each MWAIT of core p whose commands have completed just now (10 R238). -/
def State.noteWaits (s : State) (p : Nat) : State :=
  let c := s.getCore p
  let work := (s.matrixWork p).map (·.id)
  s.setCore { c with pend := c.pend.map fun q =>
    match q.wait with
    | .mwait ids none => if ids.any work.contains then q else { q with wait := .mwait ids (some s.tick) }
    | _ => q }

/-- The matrix unit takes up the head of its queue (10 R225, R231). -/
def State.matrixStart (s : State) (p : Nat) : State :=
  let c := s.getCore p
  match c.mx.queue with
  | [] => (pumpScales p 2048 s).noteWaits p
  | _ :: _ => (pumpScales p 2048 (s.onMx p fun y => { y with running := true })).noteWaits p

/-- Whether the running head has every scale word it can get (10 R222). -/
def State.batchReady (s : State) (c : Core) : Bool :=
  match c.mx.queue with
  | [] => false
  | m :: _ =>
    !(decide (m.kind = .mma) && mScales m.x) || ((c.mx.batch.getLast?.map (·.stop)).getD false) ||
      (c.eng.fifo.isEmpty && !(s.producing c))

/-- The running head completes, one command at a time in queue order (10 R225, R230 to R236); an ACCST stays there while
its messages are under way. -/
def State.matrixComplete (s : State) (p : Nat) : State :=
  let s := pumpScales p 2048 s
  let c := s.getCore p
  match c.mx.queue with
  | [] => s
  | m :: ms =>
    if !c.mx.running || !(s.batchReady c) || !(s.windowFits p (s.postMsgs m.ctx m.lcore m.bar.toList)) then s
    else
      let scales := decide (m.kind = .mma) && mScales m.x
      let batch := if scales then c.mx.batch else []
      let s := s.setCore { c with mx := { c.mx with
        queue := ms, running := false, batch := if scales then [] else c.mx.batch } }
      let s := match m.kind with
        | .wld => runWld s p m
        | .mma => runMma s p m batch
        | .accst =>
          match runAccst s p m with
          | (none, s) => s
          | (some m, s) => s.onMx p fun y => { y with queue := m :: y.queue, running := true }
        | .accld => runAccld s p m
        | .accclr => runAccclr s p m
        | .mgrp => s.onMx p fun y => { y with rowOff := wbits m.x 15 0, colOff := wbits m.x 31 16 }
      (pumpScales p 2048 s).noteWaits p

/-- A committed matrix command enters the queue of core p (10 R225), and the line of the scale FIFO if it produces. -/
def State.matrixEnter (s : State) (p : Nat) (m : MCmd) : State :=
  let s := s.onMx p fun y => { y with queue := y.queue ++ [m] }
  if decide (m.kind = .wld) && scaleEn m.shape then s.joinLine m.ctx m.lcore m.id else s

/-! ## Instructions -/

/-- The swap of an E-format slot, unless the bundle's swaps are done (06 R147, R148). -/
def State.swapFor (s : State) (h : Fin 8) (sw : Bool) : State :=
  if sw && !s.core.iss.swapped then s.upd fun c => { c with arch := c.arch.swap h } else s

/-- The layout checks of a record, then a requirement of the instruction (06 R149). -/
def withRec (s : State) (r : Rec) (ok : Bool) (k : State → State) : State :=
  if recCheck s.gangSize r ≠ 0 then s.trap tSHAPE (recCheck s.gangSize r) 0
  else if ok then k s else s.trap tSHAPE 13 0

/-- A matrix command as issued (10 R228): its entry holds the record copy. -/
def matrixCmd (s : State) (k : MKind) (r : Rec) (x : Word) (bar : Option BarOp) : State :=
  let cmd := fun (b : Option BarRef) =>
    EKind.matrix (MCmd.mk 0 k r x b s.core.pc s.core.level false s.core.self.1 s.core.self.2 s.core.owner
      (s.gangOf s.core) false [] none 0 false 0)
  match bar with
  | none => s.withhold (cmd none)
  | some b => withBar s b true fun ref => s.withhold (cmd (some ref))

/-- WLD (R233). -/
def execWld (h : Fin 8) (sw : Bool) (bar : Option BarOp) (x : SSrc) (s : State) : Res :=
  let s := s.swapFor h sw
  let r := s.core.arch.d[h]
  .next (withRec s r (wldOk r (s.core.sx x)) fun s => matrixCmd s .wld r (s.core.sx x) bar)

/-- MMA (R228, R229). -/
def execMma (h : Fin 8) (sw : Bool) (bar : Option BarOp) (x : SSrc) (s : State) : Res :=
  let s := s.swapFor h sw
  let r := s.core.arch.d[h]
  .next (withRec s r (mmaOk r (s.core.sx x)) fun s => matrixCmd s .mma r (s.core.sx x) bar)

/-- ACCST (R234). -/
def execAccst (h : Fin 8) (sw : Bool) (bar : Option BarOp) (x : SSrc) (s : State) : Res :=
  let s := s.swapFor h sw
  let r := s.core.arch.d[h]
  .next (withRec s r (accOk r (s.core.sx x) false) fun s => matrixCmd s .accst r (s.core.sx x) bar)

/-- ACCLD (R235). -/
def execAccld (h : Fin 8) (sw : Bool) (bar : Option BarOp) (x : SSrc) (s : State) : Res :=
  let s := s.swapFor h sw
  let r := s.core.arch.d[h]
  .next (withRec s r (accOk r (s.core.sx x) true) fun s => matrixCmd s .accld r (s.core.sx x) bar)

/-- ACCCLR (R236). -/
def execAccclr (a : SSrc) (s : State) : Res := .next (matrixCmd s .accclr 0 (s.core.sx a) none)

/-- Whether MGRP's offsets are well formed (R232). -/
def mgrpOk (x : Word) : Bool :=
  decide (wbits x 63 32 = 0) && decide (wbits x 15 0 % 16 = 0 ∧ wbits x 15 0 ≤ 384) &&
    decide (wbits x 31 16 % 8 = 0 ∧ wbits x 31 16 ≤ 576)

/-- MGRP (R232). -/
def execMgrp (a : SSrc) (s : State) : Res :=
  let x := s.core.sx a
  .next (if mgrpOk x then matrixCmd s .mgrp 0 x none else s.trap tSHAPE 13 0)

/-- A block of the accumulators (R218), unless an element is poisoned: then its offset. -/
def Core.block (c : Core) (rb cb : Nat) : Except Nat VWord :=
  let at_ := fun i => (16 * rb + i / 8, 8 * cb + i % 8)
  match (List.range 128).find? fun i => (c.mx.accAt (at_ i).1 (at_ i).2).2 with
  | some i => .error (4 * (192 * (at_ i).1 + (at_ i).2))
  | none => .ok (ofElems 32 ((List.range 128).map fun i => (c.mx.accAt (at_ i).1 (at_ i).2).1))

/-- ACCRD (R237): 4 beats from an idle region; else pending. -/
def execAccrd (n : Bool) (d : VDst) (a : SSrc) (s : State) : Res :=
  let x := s.core.sx a
  .next (if 24 ≤ aCol x then s.trap tSHAPE 13 0
    else if s.regionBusy s.core.pcore (aCol x / 6) then
      s.addPend (pendV n d) (.accrd (aRow x) (aCol x)) s.core.mLatch false
    else
      match s.core.block (aRow x) (aCol x) with
      | .ok v => s.retMv 4 n d v
      | .error o => s.consume 7 o o)

/-- MWAIT (R238): pending until the commands of its mask have completed. -/
def execMwait (d : SDst) (a : SSrc) (s : State) : Res :=
  let mask := wbits (s.core.sx a) 5 0
  let ids := ((s.matrixWork s.core.pcore).filter fun m => m.inMask mask).map (·.id)
  s.whenOk (decide (d ≠ 0)) (s.addPend (.x d) (.mwait ids none) s.core.mLatch false)

end Sys2Proof.Machine
end

