-- ==== Sys2Proof/Machine/Copy.lean ====
section
/-! DEFINITION. The block-transfer engine: the copy instructions, starting, moving elements, halting, completing,
queries and CPCAN (13 R287 to R310), with the copy records of an image (17 R390, R396). -/

namespace Sys2Proof.Machine

/-! ## Issue (13 R294, R295) -/

/-- A register of an operand group. -/
def Core.group (c : Core) (x : SDst) (i : Nat) : Word := c.xn (x.val + i)

/-- A record without sparse storage and without a scale stream (R295). -/
def plainRec (r : Rec) : Bool := !sparseOf r && !scaleEn r

/-- The alignment of a dense address (R295). -/
def denseAlign (r : Rec) : Nat := if grouped r then 4 else unitBytes r

/-- Whether a multicast mask names only gang members (R295). -/
def maskOk (s : State) (m : Nat) : Bool := decide (m < 2 ^ s.gangSize)

/-- The requirements on a weight copy (R295, R297). -/
def weightOk (s : State) (r : Rec) (x : Word) : Bool :=
  decide (mcastOf r = 0) && !spaceSp r && [6, 7, 8, 11, 12, 13].contains (elemOf r) && decide (wbits x 18 0 % 4 = 0) &&
    decide (wbits x 18 0 + boxBytes r ≤ wbSize) && maskOk s (wbits x 63 48)

/-- The range of B bytes that a descriptor reads lies within what a weight copy writes (R295). -/
def followOk (w : Rec) (x : Word) (a : Rec) (d : Word) : Bool :=
  mmaOk a d && decide (wbits x 18 0 ≤ mOff d) &&
    decide (mOff d + mN d * colBytes a d ≤ wbits x 18 0 + boxBytes w)

/-- Whether REDC can reduce a format (R295). -/
def redcFmt (r : Rec) : Bool := decide (elemOf r = 4 ∨ elemOf r = 8 ∨ elemOf r = 10)

/-- A copy command as issued (R288): its records, operands and barrier. -/
def copyCmd (s : State) (k : CKind) (recs : List Rec) (ops : List Word) (bar : BarOp) : State :=
  withBar s bar true fun b =>
    s.withhold (.copy
      { pos := 0, ctx := s.core.self.1, lcore := s.core.self.2, owner := s.core.owner,
        gang := s.gangOf s.core, level := s.core.level, state := .waiting, kind := k,
        recs := recs, ops := ops, notBefore := (ops.getD 1 0).toNat, progress := 0, bundle := s.core.pc, bar := b,
        seq := 0, pushed := 0, scaleDone := false, table := [], reported := [], poisoned := false, skip := none,
        failSrc := false, stats := [], cover := [], bad := [], followed := [],
          posted := false, lost := false, tick := 0, notes := [] })

/-- The checks of a primary record and its form, then of a dense address, then the command (R295). -/
def copyForm (s : State) (k : CKind) (r : Rec) (ok : Bool) (recs : List Rec) (ops : List Word) (dense : Option Nat)
    (bar : BarOp) : State :=
  withRec s r ok fun s =>
    match dense with
    | some a => if a % denseAlign r ≠ 0 then s.trap tALIGN 0 a else copyCmd s k recs ops bar
    | none => copyCmd s k recs ops bar

/-- The operands X(xa) and X(xa+1), or all four of a group. -/
def Core.opsOf (c : Core) (x : SDst) (n : Nat) : List Word := (List.range n).map fun i => c.group x i

/-- A dense scratchpad side that the step's loaf space holds (R295). -/
def denseOk (glob : Bool) (a : Nat) (r : Rec) : Bool := glob || decide (a + boxBytes r ≤ 3145728)

/-- COPY.out (R294 to R296). -/
def execCopyOut (h : Fin 8) (sw : Bool) (bar : BarOp) (dense : Bool) (x : SDst) (s : State) : Res :=
  let s1 := s.swapFor h sw
  let r := s1.core.arch.d[h]
  let a := (s1.core.group x 0).toNat
  s.whenOk (decide (x.val % 2 = 0))
    (copyForm s1 (.copyOut dense) r (plainRec r && decide (mcastOf r = 0) && denseOk dense a r) [r] (s1.core.opsOf x 2)
      (some a) bar)

/-- COPY.in (R294 to R296). -/
def execCopyIn (h : Fin 8) (sw : Bool) (bar : BarOp) (dense : Bool) (x : SDst) (s : State) : Res :=
  let s1 := s.swapFor h sw
  let r := s1.core.arch.d[h]
  let a := (s1.core.group x 0).toNat
  s.whenOk (decide (x.val % 2 = 0))
    (copyForm s1 (.copyIn dense) r (plainRec r && denseOk dense a r) [r] (s1.core.opsOf x 2) (some a) bar)

/-- COPYM (R294, R295, R298): the layout checks of both records, then what the form requires. -/
def execCopym (h : Fin 8) (sw : Bool) (bar : BarOp) (post : Bool) (x : SDst) (s : State) : Res :=
  let s1 := s.swapFor h sw
  let r := s1.core.arch.d[h]
  let a := s1.core.arch.d[Fin.ofNat 8 (wbits (s1.core.group x 3) 2 0)]
  let ops := s1.core.opsOf x 4
  let bad := recCheck s1.gangSize a
  s.whenOk (decide (x.val % 4 = 0))
    (withRec s1 r true fun s =>
      if bad ≠ 0 then s.trap tSHAPE bad 0
      else if weightOk s1 r (ops.getD 0 0) && followOk r (ops.getD 0 0) a (ops.getD 2 0) then
        copyCmd s (.copym post) [r, a] ops bar
      else s.trap tSHAPE 13 0)

/-- COPYS (R294, R295, R297). -/
def execCopys (h : Fin 8) (sw : Bool) (bar : BarOp) (x : SDst) (s : State) : Res :=
  let s1 := s.swapFor h sw
  let r := s1.core.arch.d[h]
  let ops := s1.core.opsOf x 2
  s.whenOk (decide (x.val % 2 = 0)) (copyForm s1 .copys r (weightOk s1 r (ops.getD 0 0)) [r] ops none bar)

/-- COPYX (R294, R295, R305). -/
def execCopyx (h : Fin 8) (sw : Bool) (bar : BarOp) (x : SDst) (s : State) : Res :=
  let s1 := s.swapFor h sw
  let r := s1.core.arch.d[h]
  let d := s1.core.arch.d[Fin.ofNat 8 (wbits (s1.core.group x 0) 2 0)]
  let bad := recCheck s1.gangSize d
  let ok := plainRec r && decide (mcastOf r = 0) && plainRec d && decide (boxElems r = boxElems d) &&
    (decide (elemOf r = elemOf d) || (!grouped r && !grouped d))
  s.whenOk (decide (x.val % 2 = 0))
    (withRec s1 r true fun s =>
      if bad ≠ 0 then s.trap tSHAPE bad 0
      else if ok then copyCmd s .copyx [r, d] (s1.core.opsOf x 2) bar
      else s.trap tSHAPE 13 0)

/-- GATH (R294, R295, R307). -/
def execGath (h : Fin 8) (sw : Bool) (bar : BarOp) (dense : Bool) (x : SDst) (s : State) : Res :=
  let s1 := s.swapFor h sw
  let r := s1.core.arch.d[h]
  let ops := s1.core.opsOf x 3
  let ok := plainRec r && decide (mcastOf r = 0) && decide (2 ≤ rankOf r) && decide ((ops.getD 2 0).toNat % 4 = 0)
  s.whenOk (decide (x.val % 4 = 0)) (copyForm s1 (.gath dense) r ok [r] ops (some (ops.getD 0 0).toNat) bar)

/-- REDC (R294, R295, R306): 0 add, 1 max, 2 min. -/
def redc (op : Nat) (h : Fin 8) (sw : Bool) (bar : BarOp) (x : SDst) (s : State) : Res :=
  let s1 := s.swapFor h sw
  let r := s1.core.arch.d[h]
  let ops := s1.core.opsOf x 2
  let ok := plainRec r && decide (mcastOf r = 0) && redcFmt r && decide ((ops.getD 0 0).toNat % unitBytes r = 0)
  s.whenOk (decide (x.val % 2 = 0)) (copyForm s1 (.redc op) r ok [r] ops none bar)

/-- REDC.add. -/
def execRedcAdd (h : Fin 8) (sw : Bool) (bar : BarOp) (x : SDst) (s : State) : Res := redc 0 h sw bar x s

/-- REDC.max. -/
def execRedcMax (h : Fin 8) (sw : Bool) (bar : BarOp) (x : SDst) (s : State) : Res := redc 1 h sw bar x s

/-- REDC.min. -/
def execRedcMin (h : Fin 8) (sw : Bool) (bar : BarOp) (x : SDst) (s : State) : Res := redc 2 h sw bar x s

/-! ## Queries (13 R309) -/

/-- The entries of a logical core in a command buffer. -/
def Core.ownCopies (c : Core) : List CCmd := c.eng.bte.filter fun k => k.ctx == c.self.1 && k.lcore == c.self.2

/-- CPQ's summary (R309). -/
def summaryWord (c : Core) : Nat :=
  let n := fun (st : CState) => (c.ownCopies.filter fun k => k.state = st).length
  n .running % 128 * 2 ^ 16 + n .halted % 128 * 2 ^ 8 + c.ownCopies.length % 128

/-- CPQ's view of one position (R309). -/
def entryWord (c : Core) (pos : Nat) : Nat :=
  match c.ownCopies.find? fun k => k.pos == pos with
  | none => 0
  | some k =>
    (match k.state with | .waiting => 1 | .running => 2 | .halted => 3) * 2 ^ 62 + handleOf (k.recs.headD 0) * 2 ^ 32 +
      k.progress % 2 ^ 32

/-- CPQ mode 0 (R309). -/
def execCpqSummary (n : Bool) (d : SDst) (s : State) : Res :=
  .next (s.retMx 4 n d (BitVec.ofNat 64 (summaryWord s.core)))

/-- CPQ mode 1 (R309). -/
def execCpqEntry (n : Bool) (d : SDst) (a : SSrc) (s : State) : Res :=
  .next (s.retMx 4 n d (BitVec.ofNat 64 (entryWord s.core (wbits (s.core.sx a) 5 0))))

/-- CPCAN (R310). -/
def execCpcan (a : SSrc) (b : SSrc) (s : State) : Res :=
  let v := s.core.sx a
  .next (s.withhold (.cpcan (wbits v 5 0) (wbits v 9 8) (s.core.sx b)))

/-! ## The command buffer (13 R289, R290) -/

/-- Changes the command at a position of core p's buffer. -/
def State.onCmd (s : State) (p pos : Nat) (f : CCmd → CCmd) : State :=
  let c := s.getCore p
  s.setCore { c with eng := { c.eng with bte := c.eng.bte.map fun k => if k.pos == pos then f k else k } }

/-- The command at a position. -/
def Core.cmdAt (c : Core) (pos : Nat) : Option CCmd := c.eng.bte.find? fun k => k.pos == pos

/-- Removes the command at a position. -/
def State.dropCmd (s : State) (p pos : Nat) : State :=
  let c := s.getCore p
  s.setCore { c with eng := { c.eng with bte := c.eng.bte.filter fun k => k.pos != pos } }

/-- The first free position of a command buffer. -/
def Core.freePos (c : Core) : Option Nat :=
  (List.range 64).find? fun i => !(c.eng.bte.any fun k => k.pos == i)

/-- Whether a command pushes a scale stream (R297). -/
def CCmd.streams (c : CCmd) : Bool :=
  match c.kind with
  | .copys | .copym _ => scaleEn (c.recs.headD 0) && !c.scaleDone
  | _ => false

/-- The trap records of a command, as far as they still stand, name a new command-buffer position (13 R308). -/
def State.renumber (s : State) (k : CCmd) (new : Nat) : State :=
  (k.notes.filter fun r => s.pnat r 1 == cCOPYFAULT && s.pnat (r + 16) 8 == k.bundle.toNat).foldl
    (fun (s : State) r => s.dput (r + 52) 4 new) s

/-- A committed copy command enters the buffer of core p (R289); none when it is full. A scale stream aimed at its own
core alone takes its place in the line there (R301). One that comes back from an image, its old position counted from 64 on,
gives its records the new one (R308). -/
def State.copyEnter (s : State) (p : Nat) (k : CCmd) : Option State :=
  let c := s.getCore p
  match c.freePos with
  | none => none
  | some i =>
    let s := s.setCore { c with eng := { c.eng with bte := c.eng.bte ++ [{ k with pos := i }] } }
    let s := if 64 ≤ k.pos then s.renumber k i else s
    some (if k.streams && !k.multi then s.joinLine k.ctx k.lcore k.seq else s)

/-- The ready entry that starts next (R290). -/
def Core.nextCopy (c : Core) (tick : Nat) : Option CCmd :=
  (sortBy (·.notBefore) (c.eng.bte.filter fun k => k.state = .waiting && decide (k.notBefore ≤ tick))).head?

/-- The scratchpad bytes of a logical core for its own copy (13 R303, 17 R395); none while it is moving. -/
def State.ownSp (s : State) (ctx l off n : Nat) : Option (Except Nat (List Byte)) :=
  match s.place ctx l with
  | .resident p => some ((s.getCore p).engineLoad s.tick off n)
  | .absent image => some (s.imgLoad image off n)
  | .moving => none
  | .unused => some (.error 0)

/-- Reads the index table of GATH (R307): by row, a code of 0 with the index, or 1 + the detail of the failure. -/
def State.gathTable (s : State) (k : CCmd) : List (Nat × Int) :=
  let off := (k.ops.getD 2 0).toNat
  (List.range (boxOf (k.recs.headD 0) 1)).map fun i =>
    match (s.ownSp k.ctx k.lcore (off + 4 * i) 4).getD (.error 0) with
    | .ok bs => (0, sval (ofBytes bs) 32)
    | .error d => (1 + d, 0)

/-- Whether a command reads an index table as it starts, which it has not read yet (R307). -/
def CCmd.readsTable (k : CCmd) : Bool :=
  match k.kind with
  | .gath _ => k.table = []
  | _ => false

/-- Starts the entry whose turn it is, while a running slot is free (R290); a GATH waits while the index table that it reads
is moving (17 R395), and a multicast scale stream takes its places now (R301). -/
def State.copyStart (s : State) (p : Nat) : State :=
  let c := s.getCore p
  if 8 ≤ (c.eng.bte.filter fun k => k.state = .running).length then s
  else
    match c.nextCopy s.tick with
    | none => s
    | some k =>
      if k.readsTable && s.place k.ctx k.lcore = .moving then s
      else
        let table := if k.readsTable then s.gathTable k else k.table
        let s := s.onCmd p k.pos fun k => { k with state := .running, reported := [], table := table }
        if k.streams && k.multi then k.targets.foldl (fun s l => s.joinStarted k.ctx l k.seq) s else s

/-- Starts every entry of core p whose turn has come, as far as running slots are free. -/
def State.startAll (s : State) (p : Nat) : State := (List.range 8).foldl (fun s _ => s.copyStart p) s

/-! ## Reports and halting (13 R303, R304; 16 R372; 17 R396) -/

/-- Reports a failure of the command at a position, once per code and detail in a run (R303), and notes with the command
where the record stands (R308). -/
def State.copyReport (s : State) (p : Nat) (k : CCmd) (detail va : Nat) (r : Rec) (crd : List Nat) : State :=
  if ((((s.getCore p).cmdAt k.pos).getD k).reported).contains (cCOPYFAULT, detail) then s
  else
    let note := (((Tab.get s.ctxs k.ctx).map fun x => s.freeRecs x k.lcore).getD []).take 1
    (s.copyFault k.ctx k.lcore detail (handleOf r) k.bundle va crd k.pos).onCmd p k.pos
      fun k => { k with reported := k.reported ++ [(cCOPYFAULT, detail)], notes := k.notes ++ note }

/-- The opcode and opt bits of a copy command (17 R390). -/
def CKind.code : CKind → Nat
  | .copyOut g => 0x30 + b2n g * 512
  | .copyIn g => 0x30 + b2n g * 512 + 256
  | .copym post => 0x31 + b2n post * 256
  | .copys => 0x32
  | .copyx => 0x33
  | .gath g => 0x34 + b2n g * 512
  | .redc op => 0x35 + op % 4 * 256

/-- The kind that an image's op and opt bits name. -/
def CKind.ofCode (v : Nat) : Option CKind :=
  let opt := bits v 9 8
  match bits v 6 0 with
  | 0x30 => some (if opt % 2 = 1 then .copyIn (decide (2 ≤ opt)) else .copyOut (decide (2 ≤ opt)))
  | 0x31 => some (.copym (opt % 2 == 1))
  | 0x32 => some .copys
  | 0x33 => some .copyx
  | 0x34 => some (.gath (decide (2 ≤ opt)))
  | 0x35 => some (.redc opt)
  | _ => none

/-- A copy record of an image (17 R390). -/
def CCmd.record (k : CCmd) : List (Nat × Nat × Nat) :=
  [(0, 2, k.kind.code), (2, 1, if k.state = .halted then 3 else 1), (3, 1, k.recs.length), (4, 4, k.progress),
    (8, 8, k.notBefore), (16, 8, k.bundle.toNat), (24, 8, barImage k.bar),
    (32, 32, undigits 64 ((List.range 4).map fun i => (k.ops.getD i 0).toNat)), (64, 64, 0),
    (128, 256, undigits 1024 (k.recs.map (·.toNat))), (384, 128, 0)]

/-- The address of a copy record in an image. -/
def copyRecord (image i : Nat) : Nat := image + 0x314000 + 512 * i

/-- The scale word due before element e (R297, R301; 06 R146): the coordinates of the first element that it covers; a
record of rank 1 has column 0 only (06 R142). -/
def CCmd.scaleAt (k : CCmd) (e : Nat) : Option (Int × Int) :=
  let r := k.recs.headD 0
  if k.streams then
    let ix := boxIndex r e
    let x0 := crdOf r 0 + (ix.headD 0 : Int)
    if (ix.drop 2).all (· == 0) && (decide (ix.headD 0 = 0) || decide (x0 % (32 * 2 ^ groupCode r : Nat) = 0)) then
      some (x0, if rankOf r < 2 then 0 else crdOf r 1 + (ix.getD 1 0 : Int))
    else none
  else none

/-- The scale words due before the first n elements. -/
def CCmd.scalesBefore (k : CCmd) (n : Nat) : Nat := ((List.range n).filter fun j => (k.scaleAt j).isSome).length

/-- The coordinates of element e of a command's primary record; GATH takes dimension 1 from its table (R307). -/
def CCmd.coords (k : CCmd) (e : Nat) : List Int :=
  let r := k.recs.headD 0
  let xs := Machine.coords r e
  match k.kind with
  | .gath _ => xs.set 1 (crdOf r 1 + ((k.table.getD ((boxIndex r e).getD 1 0) (1, 0)).2))
  | _ => xs

/-- Where a destination element goes. -/
inductive Side where
  | sp (off : Nat)
  | glob (va : Nat)
  | wb (off : Nat)
  | redc (va : Nat)
  | none
  deriving DecidableEq, Repr

/-- The destination record of a command, where it has one. -/
def CCmd.dstRec (k : CCmd) : Rec :=
  match k.kind with
  | .copyx => k.recs.getD 1 0
  | _ => k.recs.headD 0

/-- The place of element e on the destination side (R291, R293, R297, R306): none outside its tensor. -/
def CCmd.dest (k : CCmd) (e : Nat) : Side :=
  let r := k.dstRec
  let n := unitBytes r
  let a := ((k.ops.headD 0).toNat + e * n) % 2 ^ 64
  let inRec :=
    let xs := Machine.coords r e
    if insideAt r xs then (if spaceSp r then .sp (addrAt r xs) else .glob (addrAt r xs)) else .none
  match k.kind with
  | .copyOut g => if g then .glob a else .sp a
  | .gath g => if g then .glob a else .sp a
  | .copyIn _ => inRec
  | .copyx => inRec
  | .copym _ => .wb (wbits (k.ops.headD 0) 18 0 + e * n)
  | .copys => .wb (wbits (k.ops.headD 0) 18 0 + e * n)
  | .redc _ => if insideAt r (k.coords e) then .redc a else .none

/-- The address of element e on the source side, where one is read. -/
def CCmd.srcAt (k : CCmd) (e : Nat) : Option Nat :=
  let r := k.recs.headD 0
  match k.kind with
  | .copyIn _ => some (((k.ops.headD 0).toNat + e * unitBytes r) % 2 ^ 64)
  | _ => if insideAt r (k.coords e) then some (addrAt r (k.coords e)) else none

/-- The address of element e on the destination side, where one is written. -/
def CCmd.dstAt (k : CCmd) (e : Nat) : Option Nat :=
  match k.dest e with
  | .sp a | .glob a | .wb a | .redc a => some a
  | .none => none

/-- The failures recorded for a command that comes back from a reflection (13 R308): the records that its handle, its bundle
and its element name; where the element's source address is not known, its handle and bundle alone. -/
def State.notesOf (s : State) (x : Ctx) (k : CCmd) : List Nat :=
  let near := fun (a : Option Nat) (n va : Nat) => (a.map fun a => decide (a ≤ va) && decide (va < a + n)).getD false
  let gath := match k.kind with
    | .gath _ => true
    | _ => false
  (s.trapRecs x k.lcore).filter fun r =>
    s.pnat r 1 == cCOPYFAULT && s.pnat (r + 16) 8 == k.bundle.toNat && (k.recs.map handleOf).contains (s.pnat (r + 2) 2) &&
      (gath || near (k.srcAt k.progress) (unitBytes (k.recs.headD 0)) (s.pnat (r + 24) 8) ||
        near (k.dstAt k.progress) (unitBytes k.dstRec) (s.pnat (r + 24) 8))

/-- Whether the side that halts a command can be its source, and its destination: what lies in global memory (13 R303). -/
def CCmd.haltSides (k : CCmd) : Bool × Bool :=
  match k.kind with
  | .copyIn g => (g, !spaceSp (k.recs.headD 0))
  | .copyOut g | .gath g => (!spaceSp (k.recs.headD 0), g)
  | .copyx => (!spaceSp (k.recs.headD 0), !spaceSp (k.recs.getD 1 0))
  | .redc _ => (!spaceSp (k.recs.headD 0), true)
  | .copym _ | .copys => (true, false)

/-- Whether the source side halted a command that comes back from a reflection (13 R304, R310): the one that can halt it;
where both can, the destination if a record of the failure names its element there (log 133). -/
def State.failedSource (s : State) (x : Ctx) (k : CCmd) : Bool :=
  match k.haltSides with
  | (src, false) => src
  | (false, true) => false
  | (true, true) => !((s.notesOf x k).any fun r => (k.dstAt k.progress).any fun a =>
      decide (a ≤ s.pnat (r + 24) 8) && decide (s.pnat (r + 24) 8 < a + unitBytes k.dstRec))

/-- Writes a copy record into an image, in its first empty place (17 R390, R396); what the record does not hold of the
command the device keeps beside it (log 93). -/
def State.putRecord (s : State) (image : Nat) (k : CCmd) : Option State :=
  ((List.range 64).find? fun i => s.pnat (copyRecord image i + 2) 1 == 0).map fun i =>
    let a := copyRecord image i
    let s := s.stream a k.record
    { s with kept := Tab.put s.kept a k }

/-- The step that holds a logical core. -/
def State.ownerOf (s : State) (ctx l : Nat) : Owner :=
  ((s.steps.find? fun t => t.lcores.contains l && ((s.taskOf t.task).map (·.ctx)) == some ctx).map
    fun t => (Owner.mk t.task t.wid)).getD (Owner.mk 0 0)

/-- The command of an image's copy record, for a logical core (17 R390, R397): none where the place is empty. What the
device kept of it, it has again; else its stream has pushed the words due up to the element at which it halted, and the
side that halted it and the records of its failure follow from the image. -/
def State.getRecord (s : State) (image i ctx l : Nat) : Option CCmd :=
  let a := copyRecord image i
  let st := s.pnat (a + 2) 1
  match CKind.ofCode (s.pnat a 2) with
  | none => none
  | some k =>
    if st ≠ 1 ∧ st ≠ 3 then none
    else
      let c : CCmd :=
        { pos := 0, ctx := ctx, lcore := l, owner := s.ownerOf ctx l, gang := s.membersOf ctx l, level := .u
          state := if st = 3 then .halted else .waiting, kind := k
          recs := (List.range (s.pnat (a + 3) 1 % 3)).map fun j => BitVec.ofNat 1024 (s.pnat (a + 128 + 128 * j) 128)
          ops := (List.range 4).map fun j => BitVec.ofNat 64 (s.pnat (a + 32 + 8 * j) 8)
          notBefore := s.pnat (a + 8) 8, progress := s.pnat (a + 4) 4, bundle := BitVec.ofNat 64 (s.pnat (a + 16) 8)
          bar := barOfImage (s.pnat (a + 24) 8) l, seq := 0, pushed := 0, scaleDone := false, table := [], reported := []
          poisoned := false, skip := none, failSrc := false, stats := [], cover := [], bad := [], followed := []
          posted := false, lost := false, tick := 0, notes := [] }
      some (match Tab.get s.kept a with
        | some q =>
          { c with
            pos := q.pos, seq := q.seq, pushed := q.pushed, scaleDone := q.scaleDone, table := q.table
            poisoned := q.poisoned, skip := q.skip, failSrc := q.failSrc, stats := q.stats, cover := q.cover, bad := q.bad
            followed := q.followed, posted := q.posted, tick := q.tick, level := q.level, notes := q.notes }
        | none =>
          let x := Tab.get s.ctxs ctx
          { c with
            pushed := if st = 3 ∨ 0 < c.progress then c.scalesBefore (c.progress + 1) else 0
            failSrc := (x.map fun x => s.failedSource x c).getD true
            notes := if st = 3 then (x.map fun x => s.notesOf x c).getD [] else [] })

/-- The halted commands that name a barrier (16 R372): in every buffer and in every image of the context. -/
def State.haltedOn (s : State) (ctx : Nat) (b : BarRef) : Bool :=
  let names := fun (k : CCmd) => k.haltedOn ctx b
  (s.allCores.any fun c => c.eng.bte.any names) ||
    match Tab.get s.ctxs ctx with
    | none => false
    | some x =>
      (List.range x.lcores).any fun l => s.divState x l == 2 &&
        ((List.range 64).any fun i => ((s.getRecord (s.imageOf x l) i ctx l).map names).getD false)

/-- Sets fault_pending of every barrier that a command names to what R372 says of it. -/
def State.faultPendings (s : State) (k : CCmd) : State :=
  k.bars.foldl (fun s b => s.setFault k.ctx b (s.haltedOn k.ctx b)) s

/-- A copy command that comes to a core (R308): into its command buffer, or ahead of everything that the core still drains
until a place is free there. Its position counts from 64 on until it has one. -/
def State.copyBack (s : State) (p : Nat) (k : CCmd) : State :=
  match s.copyEnter p k with
  | some t => t
  | none =>
    let c := s.getCore p
    let isBack := fun (e : Entry) => match e.kind with
      | .copy q => decide (64 ≤ q.pos)
      | _ => false
    s.setCore { c with drain :=
      c.drain.takeWhile isBack ++ [Entry.mk (.copy k) k.level k.bundle k.ctx k.lcore k.owner k.tick] ++ c.drain.dropWhile isBack }

/-- Halts a command at its element (R304), as it stands in the buffer by now. One of an absent logical core leaves for its
image (17 R396), and one whose logical core is on another core by now goes there, as a saved one would (R308). -/
def State.copyHalt (s : State) (p : Nat) (k : CCmd) (detail va : Nat) (r : Rec) (crd : List Nat) (src : Bool) : State :=
  let s := (s.copyReport p k detail va r crd).onCmd p k.pos fun k => { k with state := .halted, failSrc := src }
  let k := ((s.getCore p).cmdAt k.pos).getD k
  let s := if (s.stepOf k.owner.task k.owner.wid).isNone then s else match s.place k.ctx k.lcore with
    | .absent image =>
      match s.putRecord image k with
      | some s => s.dropCmd p k.pos
      | none => s
    | .resident q =>
      if q = p then s
      else
        (s.dropCmd p k.pos).copyBack q { k with pos := k.pos + 64 }
    | _ => s
  s.faultPendings k

/-! ## One element (13 R291 to R307) -/

/-- What the source side of an element gives. -/
inductive Got where
  /-- Bytes, or zero bytes of a poisoned source. -/
  | bytes (bs : List Byte) (bad : Bool)
  /-- A failed read: the fill pattern. -/
  | fill
  | halt (detail va : Nat)
  | wait
  deriving DecidableEq, Repr

/-- A failure to report: its detail and address. -/
abbrev Report := Option (Nat × Nat)

/-- Reads n bytes of a command's source side (R303): scratchpad of its logical core, or global memory. -/
def State.copyRead (s : State) (p : Nat) (k : CCmd) (sp : Bool) (a n : Nat) : Got × Report × State :=
  if sp then
    match s.ownSp k.ctx k.lcore a n with
    | none => (.wait, none, s)
    | some (.ok bs) => (.bytes bs false, none, s)
    | some (.error 0) => (.fill, some (0, a), s)
    | some (.error d) => (.bytes (List.replicate n 0) true, some (d, a), s)
  else
    match engineRead s p k.ctx k.owner k.level a n with
    | (.error d, s) => (.halt d.1 d.2, none, s)
    | (.ok x, s) =>
      if x.2 then (.bytes (List.replicate n 0) true, some (3, a), s) else (.bytes x.1 false, none, s)

/-- The source side of element e (R291, R296, R305 to R307). -/
def State.copySource (s : State) (p : Nat) (k : CCmd) (e : Nat) : Got × Report × State :=
  let r := k.recs.headD 0
  let n := unitBytes r
  let xs := k.coords e
  match k.kind with
  | .copyIn glob => s.copyRead p k (!glob) (((k.ops.headD 0).toNat + e * n) % 2 ^ 64) n
  | .gath _ =>
    let i1 := (boxIndex r e).getD 1 0
    let row := k.table.getD i1 (1, 0)
    let ta := (k.ops.getD 2 0).toNat + 4 * i1
    match row.1 with
    | 0 =>
      if insideAt r xs then s.copyRead p k (spaceSp r) (addrAt r xs) n else (.bytes (fillBytes r) false, none, s)
    | 1 => (.fill, some (0, ta), s)
    | d + 2 => (.bytes (List.replicate n 0) true, some (d + 1, ta), s)
  | _ => if insideAt r xs then s.copyRead p k (spaceSp r) (addrAt r xs) n else (.bytes (fillBytes r) false, none, s)

/-- The element type of an ungrouped format (06 R144). -/
def elTyOf (el : Nat) : ElTy :=
  match el with
  | 0 => .i .i8 | 1 => .i .n8 | 2 => .i .i16 | 3 => .i .n16 | 4 => .i .i32 | 5 => .i .n32
  | 6 => .f .e4m3 | 7 => .f .e5m2 | 8 => .f .bf16 | 9 => .f .f16
  | _ => .f .f32

/-- The conversion of COPYX (R305): the element, and whether it saturated. -/
def copyConvert (src dst : ElTy) (v : Nat) : Nat × Bool :=
  let r := cvt src dst .rne v
  match src, dst with
  | .f f, .i _ => (r.1, decide (r.2 &&& fNV ≠ 0) && !(FVal.dec f.fmt v).isNan)
  | .i a, .i b => (r.1, decide (b.sat (a.val v) ≠ a.val v))
  | _, .f .e4m3 => (r.1, decide (r.2 &&& fOF ≠ 0))
  | _, _ => (r.1, false)

/-- Marks n bytes at an offset of a 4096-byte frame as written by a command (09 R198): the command, the 64-byte words of
the frame that it has now written whole and unpoisoned, and whether the frame became whole just now. -/
def CCmd.mark (k : CCmd) (frame off n : Nat) (bad : Bool) : CCmd × List Nat × Bool :=
  let old := ((Tab.get k.cover frame).getD 0).toNat
  let new := old ||| ((2 ^ n - 1) <<< off) % 2 ^ 4096
  let ws := sectorsOf off n
  let badSet := if bad then NSet.addAll k.bad (ws.map fun w => frame * 64 + w) else k.bad
  let full := ws.filter fun w => bits new (64 * w + 63) (64 * w) == 2 ^ 64 - 1 && !NSet.has badSet (frame * 64 + w)
  ({ k with cover := Tab.put k.cover frame (BitVec.ofNat 4096 new), bad := badSet }, full,
    old != 2 ^ 4096 - 1 && new == 2 ^ 4096 - 1)

/-- A range cut at 4096-byte boundaries, with the offset into the bytes. -/
def frameParts (a n : Nat) : List (Nat × Nat × Nat) :=
  let k := min n (4096 - a % 4096)
  (a, 0, k) :: if k < n then [(a + k, k, n - k)] else []

/-- The frame of a scratchpad loaf, of the weight buffer, and of global memory. -/
def spFrame (l loaf : Nat) : Nat := 1024 * l + loaf
/-- The frame of a weight-buffer offset. -/
def wbFrame (l off : Nat) : Nat := 2 ^ 20 + 128 * l + off / 4096
/-- The frame of a physical address. -/
def memFrame (pa : Nat) : Nat := 2 ^ 22 + pa / 4096

/-- Clears the poison of weight-buffer words at a logical core. -/
def State.coverWb (s : State) (ctx l base : Nat) (ws : List Nat) : State :=
  if ws = [] then s
  else
    match s.place ctx l with
    | .resident p => s.onMx p fun m =>
      { m with wbPoison := m.wbPoison.filter fun w => !(ws.any fun k => base / 64 + k == w) }
    | .absent image =>
      let old := s.pnat (image + 0x3E0000) 1024
      s.divert ctx image [(0x3E0000, 1024, ws.foldl (fun v k => setBits v (base / 64 + k) (base / 64 + k) 0) old)]
    | _ => s

/-- Lands the bytes of an element at one logical core's scratchpad, part by part. -/
def landSpParts (ctx l a : Nat) (bs : List Byte) (bad : Bool) (x : Land × CCmd × State) : Land × CCmd × State :=
  (frameParts a bs.length).foldl
    (fun (x : Land × CCmd × State) q =>
      let r := x.2.2.landSp ctx l q.1 ((bs.drop q.2.1).take q.2.2) bad
      match r.1 with
      | .ok =>
        let m := x.2.1.mark (spFrame l (q.1 / 4096)) (q.1 % 4096) q.2.2 bad
        (x.1, m.1, r.2.coverSp ctx l (q.1 / 4096) m.2.1 m.2.2)
      | st => (st, x.2.1, r.2)) x

/-- Lands the bytes of an element at one logical core's weight buffer. -/
def landWbParts (ctx l a : Nat) (bs : List Byte) (bad : Bool) (x : Land × CCmd × State) : Land × CCmd × State :=
  (frameParts a bs.length).foldl
    (fun (x : Land × CCmd × State) q =>
      let r := x.2.2.landWb ctx l q.1 ((bs.drop q.2.1).take q.2.2) bad
      match r.1 with
      | .ok =>
        let m := x.2.1.mark (wbFrame l q.1) (q.1 % 4096) q.2.2 bad
        (x.1, m.1, r.2.coverWb ctx l (q.1 / 4096 * 4096) m.2.1)
      | st => (st, x.2.1, r.2)) x

/-- Writes an element to global memory: its parts, poisoned where asked, and the sectors written whole made clean. -/
def landGlob (p : Nat) (va : Nat) (bs : List Byte) (bad : Bool) (k : CCmd) (s : State) :
    Except (Nat × Nat) CCmd × State :=
  match engineWrite s p k.ctx k.owner k.level va bs with
  | (.error e, s) => (.error e, s)
  | (.ok parts, s) =>
    let r := parts.foldl
      (fun (x : CCmd × State) q =>
        let s := if bad then x.2.poisonRange q.1 q.2 else x.2
        if hostBase ≤ q.1 then (x.1, s)
        else
          let m := x.1.mark (memFrame q.1) (q.1 % 4096) q.2 bad
          (m.1, m.2.1.foldl
            (fun s w => s.updMem fun y =>
              let sec := q.1 / 4096 * 64 + w
              { y with
                poison := NSet.del y.poison sec
                sys := y.sys.map fun e => if e.1 == sec then (e.1, { e.2 with poison := false }) else e }) s)) (k, s)
    (.ok r.1, r.2)

/-- One reduction (R306): the new element and its statistics kinds (02 R48). -/
def reduce (op el d x : Nat) : Nat × List Nat :=
  if el = 4 then
    let a := sval d 32
    let b := sval x 32
    match op with
    | 0 =>
      let r := satInt true 32 (a + b)
      (lowBits 32 r, if r ≠ a + b then [kSAT] else [])
    | 1 => (lowBits 32 (max a b), [])
    | _ => (lowBits 32 (min a b), [])
  else
    let f := fmtOf el
    match op with
    | 0 =>
      let r := f.addF .rne d x
      let a := FVal.dec f d
      let b := FVal.dec f x
      (r.1, if (FVal.dec f r.1).isNan then (if a.isNan || b.isNan then [] else [kNAN])
        else if a.isFin && b.isFin && !(FVal.dec f r.1).isFin then [kOVERFLOW] else [])
    | o => ((f.minmaxF .rne (decide (o = 1)) d x).1, [])

/-- Appends the statistics kinds of a command that it has not appended yet (02 R48). -/
def State.copyStats (s : State) (p pos source : Nat) (kinds : List Nat) : State :=
  kinds.foldl
    (fun s kd =>
      match (s.getCore p).cmdAt pos with
      | none => s
      | some k =>
        if NSet.has k.stats kd then s
        else (s.stat p k.ctx kd source (handleOf (k.recs.headD 0)) k.bundle).onCmd p pos
          fun k => { k with stats := NSet.add k.stats kd }) s

/-- Counts the peer's sectors that a REDC moves, each once, and notes them with the command (R306; 16 R377; log 94). -/
def CCmd.meterPeer (k : CCmd) (p base : Nat) (parts : List (Nat × Nat)) (s : State) : CCmd × State :=
  ((parts.filter fun q => nodeOf q.1 = 1).flatMap fun q => sectorsOf q.1 q.2).foldl
    (fun (a : CCmd × State) sec =>
      let f := base + sec / 64
      let old := ((Tab.get a.1.cover f).getD 0).toNat
      if old.testBit (sec % 64) then a
      else ({ a.1 with cover := Tab.put a.1.cover f (BitVec.ofNat 4096 (old + 2 ^ (sec % 64))) },
        a.2.meter (a.2.payerOf p a.1.ctx a.1.owner) 1)) (k, s)

/-- Where a REDC notes the peer's sectors that it has read as its source, and those of its destination. -/
def srcNotes : Nat := 2 ^ 44
/-- See srcNotes. -/
def dstNotes : Nat := 2 ^ 45

/-- One update of the link engine (R306): the destination element, or its sector poisoned. A host destination halts with
ACCESS, whatever ATS answers. -/
def linkUpdate (p : Nat) (k : CCmd) (va op : Nat) (bs : List Byte) (bad : Bool) (s : State) :
    Except (Nat × Nat) CCmd × State :=
  match engineParts p k.ctx k.level .atomic [(va, bs.length)] s with
  | (.error e, s) => (.error (if e.1 = TFail.detail .host .atomic then TFail.detail .rights .atomic else e.1, e.2), s)
  | (.ok parts, s) =>
    match parts with
    | [] => (.ok k, s)
    | q :: _ =>
      if 2 ≤ nodeOf q.1 then (.error (TFail.detail .rights .atomic, va), s)
      else
        let r := k.meterPeer p dstNotes parts s
        let k := r.1
        let s := r.2
        if bad then (.ok k, s.poisonRange q.1 q.2)
        else
          let who := s.payerOf p k.ctx k.owner
          let was := (poisonOf s q.1 q.2).isSome
          let s := touch who q.1 q.2 false s
          let r := reduce op (elemOf (k.recs.headD 0)) (s.pnat q.1 q.2) (ofBytes bs)
          let s := if nodeOf q.1 = 0 then dirtyLog s k.ctx va q.2 else s
          let s := s.pwrite who q.1 (toBytes q.2 r.1) none
          (.ok k, (if was then s.poisonRange q.1 q.2 else s).copyStats p k.pos 2 r.2)

/-- The source side of a REDC's element at an address: its sectors in the peer's memory are counted (R306; 16 R377). -/
def State.meterSource (s : State) (p : Nat) (k : CCmd) (va n : Nat) : State :=
  match engineParts p k.ctx k.level .read (pageParts va n) s with
  | (.ok parts, s) =>
    let r := k.meterPeer p srcNotes parts s
    r.2.onCmd p k.pos fun o => { o with cover := r.1.cover }
  | (.error _, s) => s

/-- The targets of the current element, and whether any of them is moving. -/
def State.anyMoving (s : State) (k : CCmd) (ls : List Nat) : Bool := ls.any fun l => s.place k.ctx l = .moving

/-- The scale words of a command's stream. -/
def CCmd.scaleCount (k : CCmd) : Nat := (scaleCoords (k.recs.headD 0)).length

/-- Pushes the scale word due before element e, if any (R301, R302); none while a receiver cannot take it. -/
def State.copyScale (s : State) (p : Nat) (k : CCmd) (e : Nat) : Option State :=
  match k.scaleAt e with
  | none => some s
  | some x =>
    if k.pushed ≠ k.scalesBefore e then some s
    else
      let ls := k.targets
      if ls.any fun l => s.scaleRoom k.ctx l k.seq = .wait then none
      else
        match scaleRead s p k.ctx k.owner k.level (scaleAddr (k.recs.headD 0) x) with
        | (.error d, s) =>
          let s := s.copyReport p k d.1 d.2 (k.recs.headD 0) (crdBytes (scaleCrd (k.recs.headD 0) x))
          let s := if k.pushed = 0 then s else ls.foldl (fun s l => s.endBatch k.ctx l) s
          some ((s.onCmd p k.pos fun k => { k with scaleDone := true }).leaveLine k.seq)
        | (.ok v, s) =>
          let last := decide (k.pushed + 1 = k.scaleCount)
          let s := ls.foldl (fun s l => s.pushScale k.ctx l (SWord.mk v last false)) s
          let s := s.onCmd p k.pos fun k => { k with pushed := k.pushed + 1, scaleDone := last }
          some (if last then s.leaveLine k.seq else s)

/-- Advances a command past its element, keeping what the element did to it. -/
def State.copyNext (s : State) (p : Nat) (k : CCmd) : State :=
  s.onCmd p k.pos fun o => { o with
    progress := k.progress + 1, skip := none, lost := false, cover := k.cover, bad := k.bad, poisoned := k.poisoned }

/-- The bytes to write for an element (R303, R305), and whether a conversion saturated. -/
def CCmd.output (k : CCmd) (bs : List Byte) (bad : Bool) : List Byte × Bool :=
  let r := k.recs.headD 0
  let d := k.dstRec
  if bad then (List.replicate (unitBytes d) 0, false)
  else
    match k.kind with
    | .copyx =>
      if elemOf r = elemOf d then (bs, false)
      else
        let v := copyConvert (elTyOf (elemOf r)) (elTyOf (elemOf d)) (ofBytes bs)
        (toBytes (unitBytes d) v.1, v.2)
    | _ => (bs, false)

/-- Writes the destination side of the element at hand and advances, or halts (R299, R303). An element outside its tensor,
whose write is suppressed, is converted all the same and can count as the command's saturation: the model's choice (log
134). -/
def State.copyWrite (s : State) (p : Nat) (k : CCmd) (bs : List Byte) (bad : Bool) : State :=
  let e := k.progress
  let out := k.output bs bad
  let crd := crdBytes (match k.kind with
    | .copyx => Machine.coords k.dstRec e
    | _ => k.coords e)
  let k := { k with poisoned := k.poisoned || bad }
  let s := if out.2 then s.copyStats p k.pos 1 [kSAT] else s
  let many := fun (f : Nat → Land × CCmd × State → Land × CCmd × State) (a : Nat) =>
    let r := k.targets.foldl (fun x l => f l x) ((Land.ok, k, s) : Land × CCmd × State)
    let s := match r.1 with
      | .unheld | .lost => r.2.2.copyReport p k 1 a k.dstRec crd
      | _ => r.2.2
    s.copyNext p r.2.1
  match k.dest e with
  | .none => s.copyNext p k
  | .sp a =>
    let s := (k.targets.filter (· != k.lcore)).foldl
      (fun s l => s.sendStore p k.ctx k.lcore k.owner.task k.seq k.bundle l a out.1 bad crd (handleOf k.dstRec)) s
    let r := if k.targets.contains k.lcore then landSpParts k.ctx k.lcore a out.1 bad (Land.ok, k, s) else (Land.ok, k, s)
    let s := match r.1 with
      | .unheld | .lost => r.2.2.copyReport p k 1 a k.dstRec crd
      | _ => r.2.2
    s.copyNext p r.2.1
  | .wb a => many (fun l x => landWbParts k.ctx l a out.1 bad x) a
  | .glob va =>
    match landGlob p va out.1 bad k s with
    | (.error d, s) => s.copyHalt p k d.1 d.2 k.dstRec crd false
    | (.ok k, s) => s.copyNext p k
  | .redc va =>
    match k.kind with
    | .redc op =>
      match linkUpdate p k va op out.1 bad s with
      | (.error d, s) => s.copyHalt p k d.1 d.2 k.dstRec crd false
      | (.ok k, s) => s.copyNext p k
    | _ => s

/-- Whether the destination side of the element takes a source read (R291): a dense source, only when it is inside; a
REDC, only when its own element is inside. -/
def CCmd.reads (k : CCmd) (e : Nat) : Bool :=
  match k.kind with
  | .copyIn _ => k.dest e != .none
  | .redc _ => k.dest e != .none
  | _ => true

/-- The messages that the next element sends (R300): one for each other logical core whose scratchpad it lands in. -/
def CCmd.remotes (k : CCmd) : Nat :=
  match k.dest k.progress with
  | .sp _ => (k.targets.filter (· != k.lcore)).length
  | _ => 0

/-- The engine reports a failure of the source side, and writes what stands for the element; the command is taken as it
stands in the buffer by now. -/
def State.copyPut (s : State) (p : Nat) (k : CCmd) (rep : Report) (bs : List Byte) (bad : Bool) : State :=
  let s := match rep with
    | some x => s.copyReport p k x.1 x.2 (k.recs.headD 0) (crdBytes (k.coords k.progress))
    | none => s
  s.copyWrite p (((s.getCore p).cmdAt k.pos).getD k) bs bad

/-- The global address that the source side of element e reads; none where it reads the scratchpad. -/
def CCmd.source (k : CCmd) (e : Nat) : Option Nat :=
  match k.kind with
  | .copyIn glob => if glob then k.srcAt e else none
  | _ => if spaceSp (k.recs.headD 0) then none else k.srcAt e

/-- The link engine counts the sectors of the peer that it reads for an element of a REDC (R306). -/
def State.countSource (s : State) (p : Nat) (k : CCmd) (e : Nat) : State :=
  match k.kind, k.srcAt e with
  | .redc _, some a => if spaceSp (k.recs.headD 0) then s else s.meterSource p k a (unitBytes (k.recs.headD 0))
  | _, _ => s

/-- The engine moves the next element of the command at a position (R291); one whose read the bridge lost comes poisoned (18
R415). -/
def State.copyOne (s : State) (p pos : Nat) : State :=
  match (s.getCore p).cmdAt pos with
  | none => s
  | some k =>
    let e := k.progress
    if k.state ≠ .running ∨ boxUnits (k.recs.headD 0) ≤ e then s
    else if s.anyMoving k (k.lcore :: k.targets) || !(s.windowFits p k.remotes) then s
    else
      match s.copyScale p k e with
      | none => s
      | some s =>
        match (s.getCore p).cmdAt pos with
        | none => s
        | some k =>
          let r := k.recs.headD 0
          if k.skip = some (e, false) then s.copyNext p k
          else if k.reads e = false then s.copyNext p k
          else if k.skip = some (e, true) then s.copyWrite p k (fillBytes r) false
          else if k.lost then s.copyPut p k (some (3, (k.srcAt e).getD 0)) (List.replicate (unitBytes r) 0) true
          else
            match s.copySource p k e with
            | (.wait, _, s) => s
            | (.halt d va, _, s) => if s.storing p k.seq then s else s.copyHalt p k d va r (crdBytes (k.coords e)) true
            | (.fill, rep, s) => s.copyPut p k rep (fillBytes r) false
            | (.bytes bs bad, rep, s) => (s.countSource p k e).copyPut p k rep bs bad

/-- Whether n bytes at an address and what follows at another share an aligned 8-byte word. -/
def sameWord (a b : Option Nat) (n : Nat) : Bool :=
  match a, b with
  | some a, some b => decide ((a + n - 1) / 8 = b / 8)
  | _, _ => false

/-- Whether element e and the next share an aligned 8-byte word on either side: the engine moves such a word at once (12
R275). -/
def CCmd.joined (k : CCmd) (e : Nat) : Bool :=
  sameWord (k.srcAt e) (k.srcAt (e + 1)) (unitBytes (k.recs.headD 0)) ||
    sameWord (k.dstAt e) (k.dstAt (e + 1)) (unitBytes k.dstRec)

/-- The engine moves elements of the command at a position until it has moved whole words, n elements at most. -/
def State.copyRun (p pos : Nat) : Nat → State → State
  | 0, s => s
  | n + 1, s =>
    match (s.getCore p).cmdAt pos with
    | none => s
    | some k =>
      let t := s.copyOne p pos
      match (t.getCore p).cmdAt pos with
      | none => t
      | some j =>
        if j.progress = k.progress + 1 ∧ j.progress < boxUnits (j.recs.headD 0) ∧ k.joined k.progress = true then
          State.copyRun p pos n t
        else t

/-- The engine reaches the next elements of the command at a position (R291). -/
def State.copyElement (s : State) (p pos : Nat) : State :=
  match (s.getCore p).cmdAt pos with
  | none => s
  | some k => State.copyRun p pos (boxUnits (k.recs.headD 0)) s

/-! ## Completion (13 R292, R298, R299) -/

/-- Whether a logical core can take a follow-on now (10 R226; 17 R394). -/
def State.followRoom (s : State) (ctx l : Nat) : Bool :=
  match s.place ctx l with
  | .resident p => decide ((s.getCore p).mx.queue.length < 8)
  | .absent image => decide (s.pnat (mxBlock image + 6) 2 < 8)
  | .moving => false
  | .unused => true

/-- The follow-ons of a COPYM enter the queues that have room (R298). -/
def State.copyFollow (s : State) (p : Nat) (k : CCmd) : State :=
  if !k.isCopym then s
  else
    (k.targets.filter fun l => !(k.followed.contains l)).foldl
      (fun (s : State) l =>
        if s.followRoom k.ctx l then
          (s.landFollow k.ctx l (k.follow l (some p))).2.onCmd p k.pos fun k => { k with followed := k.followed ++ [l] }
        else s) s

/-- The bytes of a command are posted, once (R292, R299), when its messages find room. -/
def State.copyPost (s : State) (p : Nat) (k : CCmd) : State :=
  if k.posted || !(s.windowFits p (s.postMsgs k.ctx k.lcore k.bars)) then s
  else
    let n := boxBytes (match k.kind with
      | .redc _ => k.recs.headD 0
      | _ => k.dstRec)
    let s := k.bars.foldl
      (fun s b => s.post p k.ctx k.lcore b (.post n k.poisoned) (handleOf (k.recs.headD 0)) k.bundle k.owner.task) s
    s.onCmd p k.pos fun k => { k with posted := true }

/-- Whether nothing of a command is left to do. -/
def CCmd.finished (k : CCmd) : Bool := k.posted && (!k.isCopym || k.targets.all fun l => k.followed.contains l)

/-- A command whose elements have all moved, those of its messages included, completes (R292, R298): its follow-ons enter
as their queues take them, its bytes are posted, the entry leaves. -/
def State.copyComplete (s : State) (p pos : Nat) : State :=
  match (s.getCore p).cmdAt pos with
  | none => s
  | some k =>
    if k.state ≠ .running ∨ k.progress < boxUnits (k.recs.headD 0) ∨ s.storing p k.seq = true then s
    else
      let s := ((s.leaveLine k.seq).copyFollow p k).copyPost p k
      match (s.getCore p).cmdAt pos with
      | none => s
      | some k => if k.finished then s.dropCmd p pos else s

/-! ## CPCAN (13 R304, R310) -/

/-- The base of the side that halted a command, patched (R304). -/
def CCmd.patch (k : CCmd) (v : Word) : CCmd :=
  let setBase := fun (r : Rec) => recSet r 0 v.toNat
  match k.kind, k.failSrc with
  | .copyIn _, true => { k with ops := k.ops.set 0 v }
  | .copyIn _, false => { k with recs := k.recs.set 0 (setBase (k.recs.headD 0)) }
  | .copyx, false => { k with recs := k.recs.set 1 (setBase (k.recs.getD 1 0)) }
  | _, true => { k with recs := k.recs.set 0 (setBase (k.recs.headD 0)) }
  | _, false => { k with ops := k.ops.set 0 v }

/-- The committed effect of CPCAN of a logical core (R310). A cancelled scale stream that has begun ends its batch with the
word pushed last: the model's choice (log 135). -/
def State.cpcan (s : State) (p ctx l pos act : Nat) (v : Word) : State :=
  match (s.getCore p).cmdAt pos with
  | none => s
  | some k =>
    if k.ctx ≠ ctx ∨ k.lcore ≠ l then s
    else
      match act with
      | 0 =>
        let begun := k.streams && decide (0 < k.pushed)
        let s := (if begun then k.targets.foldl (fun s l => s.endBatch ctx l) s else s).leaveLine k.seq
        (s.dropCmd p pos).faultPendings k
      | _ =>
        if k.state ≠ .halted then s
        else (s.onCmd p pos fun k =>
          let k := { k with state := .waiting }
          match act with
          | 1 => k
          | 2 => { k with skip := some (k.progress, k.failSrc) }
          | _ => k.patch v).faultPendings k

end Sys2Proof.Machine
end

