-- ==== Sys2Proof/Machine/Registers.lean ====
section
/-! DEFINITION. The device registers of node 3: the tenancy, governor, bridge, mailbox and translation pages (11 R242;
15 R351, R363 to R365; 16 R375; 18 R412, R416). -/

namespace Sys2Proof.Machine

/-- The physical address of node 3 (15 R363). -/
def regBase : Nat := 0x600000000000

/-! ## Virtual interfaces (15 R364) -/

/-- A virtual interface entry as memory holds it. -/
def viAt (m : Mem) (a : Nat) : Vi :=
  let g := fun (o n : Nat) => m.nat (a + o) n
  { enabled := g 0 1 % 2 == 1, isolated := g 0 1 / 2 % 2 == 1, unsigned := g 0 1 / 4 % 2 == 1, island := g 1 1 % 4,
    lclusters := g 2 1, lcores := g 3 1 % 16 + 1, mask := BitVec.ofNat 8 (g 4 1), prioCap := g 5 1 % 4,
    buShare := g 6 2 % 512, memQuota := g 8 2, ctxBase := g 10 2, ctxCount := g 12 2, vector := g 14 2,
    ctxTable := g 16 8, queueTable := g 24 8, ring := g 32 8, ringSize := g 40 1, keys := g 48 8, keyCount := g 56 1 }

/-- The interfaces as last loaded, with their numbers. -/
def State.loaded (s : State) : List (Nat × Vi) :=
  (List.range 64).filterMap fun i => (s.vitNext[Fin.ofNat 64 i]).map fun v => (i, v)

/-- Whether two context ranges overlap. -/
def ctxOverlap (a b : Vi) : Bool := decide (a.ctxBase < b.ctxBase + b.ctxCount) && decide (b.ctxBase < a.ctxBase + a.ctxCount)

/-- The clusters of a mask. -/
def maskClusters (m : BitVec 8) : List Nat := (List.range 8).filter fun i => m.getLsbD i

/-- Whether the load of an entry is refused (15 R364): the ranges of enabled entries must not overlap; isolated entries count
whether they are enabled or not (07 R158). -/
def State.viRefused (s : State) (vi : Nat) (v : Vi) : Bool :=
  let all := (s.loaded.filter fun e => e.1 != vi).map (·.2)
  let o := all.filter (·.enabled)
  let iso := all.filter (·.isolated)
  decide ((maskClusters v.mask).length < v.lclusters) || (v.enabled && o.any (ctxOverlap v)) ||
    (v.isolated && (decide (4 ≤ iso.length) || iso.any fun e => e.island == v.island)) ||
    (v.isolated && (maskClusters v.mask).any fun c => s.islandOf c != v.island) ||
    s.ctxs.any fun x => x.2.vi == vi && !(decide (v.ctxBase ≤ x.1) && decide (x.1 < v.ctxBase + v.ctxCount))

/-- The entry in force after a load: the fields that wait for an interval boundary keep their values (15 R364). -/
def Vi.loadOver (new : Vi) (old : Option Vi) : Vi :=
  match old with
  | some o => { new with enabled := o.enabled, isolated := o.isolated, island := o.island, buShare := o.buShare }
  | none => { new with enabled := false, isolated := false, island := 0, buShare := 0 }

/-- vit.status after a load or a matrix write (15 R363). -/
def State.vitDone (s : State) (vi st : Nat) : State :=
  { s with ten := { s.ten with seq := (s.ten.seq + 1) % 256, lastVi := vi, status := st } }

/-- A load of entry vi (15 R364). -/
def State.vitLoad (s : State) (vi : Nat) : State :=
  let v := viAt s.mem.bytes (s.ten.vitBase.toNat + 64 * vi)
  if s.viRefused vi v then s.vitDone vi 1
  else
    { s with
      vitNext := vmod s.vitNext vi fun _ => some v
      vit := vmod s.vit vi fun old => some (v.loadOver old) }.vitDone vi 0

/-- The clusters whose field differs in a written matrix from the rails they are on (15 R365). -/
def Tenancy.changed (t : Tenancy) (v : Nat) : List Nat :=
  (List.range 8).filter fun c => v / 4 ^ c % 4 != t.rail.toNat / 4 ^ c % 4

/-- A matrix with the fields of some clusters taken from another. -/
def railsFrom (old : BitVec 16) (v : Nat) (cs : List Nat) : BitVec 16 :=
  BitVec.ofNat 16 (cs.foldl (fun r c => setBits r (2 * c + 1) (2 * c) (v / 4 ^ c % 4)) old.toNat)

/-- A write of the island switch matrix (15 R365): it changes only the clusters whose field differs, so that a change
held for another cluster stays (01 R13). One that moves a cluster out from under an isolated interface, enabled or not, is
refused whole. -/
def State.matrixWrite (s : State) (v : Nat) : State :=
  let changed := s.ten.changed v
  let under := s.loaded.any fun e => e.2.isolated && changed.any fun c => e.2.mask.getLsbD c
  if under then s.vitDone s.ten.lastVi 2
  else
    { s with ten := { s.ten with
      railNew := railsFrom s.ten.railNew v changed
      railPend := s.ten.railPend ||| BitVec.ofNat 8 ((changed.map fun c => 2 ^ c).foldl (· + ·) 0) } }.vitDone s.ten.lastVi 0

/-! ## The registers -/

/-- mbox.ctl (18 R412). -/
def Mbox.ctl (m : Mbox) : Nat :=
  m.repRd % 16 * 2 ^ 28 + m.repWr % 16 * 2 ^ 24 + m.reqRd % 16 * 2 ^ 20 + m.reqWr % 16 * 2 ^ 16 + b2n m.busy

/-- A write of req_wr: ignored when it would lower the outstanding count (18 R412). -/
def Mbox.postTo (m : Mbox) (wr : Nat) : Mbox :=
  if (wr + 16 - m.reqRd) % 16 < (m.reqWr + 16 - m.reqRd) % 16 then m else { m with reqWr := wr % 16 }

/-- A write of rep_rd: ignored when it would raise the unread count (18 R412). -/
def Mbox.consumeTo (m : Mbox) (rd : Nat) : Mbox :=
  if (m.repWr + 16 - m.repRd) % 16 < (m.repWr + 16 - rd % 16) % 16 then m else { m with repRd := rd % 16 }

/-- The 8-byte register at an offset of a node-3 page (15 R363): every other offset reads zero. -/
def State.reg8 (s : State) (page o : Nat) : Nat :=
  if page = 0 then
    match o with
    | 0 => s.ten.vitBase.toNat
    | 0x10 => s.ten.seq * 256 + s.ten.lastVi * 4 + s.ten.status
    | 0x18 => s.ten.railPend.toNat * 65536 + s.ten.rail.toNat
    | _ => 0
  else if page = 0x20 then
    match o with
    | 0 => s.govNext.watts
    | 0x10 | 0x18 | 0x20 | 0x28 => (s.govNext.cost[Fin.ofNat 4 ((o - 0x10) / 8)]).toNat
    | 0x40 => s.govNext.pairUj * 2 ^ 32 + s.govNext.leakMw
    | _ => 0
  else if page = 0x30 then
    match o with
    | 0 => s.bridge.rx.step % 4 * 1024 + s.bridge.tx.step % 4 * 256 + b2n s.bridge.rx.up * 2 + b2n s.bridge.tx.up
    | 8 => s.bridge.marginHigh * 65536 + s.bridge.marginLow
    | 0x10 => s.bridge.maxStep * 2
    | 0x20 => s.bridge.backoff
    | _ => 0
  else if 0x40 ≤ page ∧ page < 0x80 then
    let m := s.mbox[Fin.ofNat 64 (page - 0x40)]
    if o = 0 then m.ctl else if 0x400 ≤ o ∧ o < 0xC00 then m.page.nat o 8 else 0
  else if 0x100 ≤ page ∧ page < 0x140 then
    let x := s.xlt[Fin.ofNat 64 (page - 0x100)]
    match o with
    | 0 => x.addr.toNat
    | 0x10 => b2n x.err * 2 ^ 63 + x.count
    | _ => 0
  else 0

/-- Starts a translation command (15 R351): kind, context, range, with the address as it stands. -/
def State.xltStart (s : State) (vi kind ctx range : Nat) : State :=
  { s with xlt := vmod s.xlt vi fun x => { x with cmds := x.cmds ++ [(kind, ctx, range, x.addr.toNat)] } }

/-- Whether the bridge may train: from the step of bring-up that trains it on (18 R423, step 5), where the board configuration
block names it; one that is ignored disables it (R421). -/
def State.bridgeAllowed (s : State) : Bool := decide (5 ≤ s.bring) && (s.board.bind (·.bridge)).isSome

/-- Starts bridge training at a step (18 R415, R416). -/
def State.train (s : State) (step : Nat) : State :=
  { s with bridge := { s.bridge with
    maxStep := step, tx := { s.bridge.tx with retrain := some step }, rx := { s.bridge.rx with retrain := some step } } }

/-- A write of the whole 8-byte register at an offset of a node-3 page; act tells whether the half that holds its
starting field is written (11 R242; 15 R363: every other offset ignores writes). -/
def State.setReg8 (s : State) (page o v : Nat) (act : Bool) : State :=
  if page = 0 then
    match o with
    | 0 => { s with ten := { s.ten with vitBase := BitVec.ofNat 64 (bits v 47 6 * 64) } }
    | 8 => if act then s.vitLoad (v % 64) else s
    | 0x18 => s.matrixWrite v
    | _ => s
  else if page = 0x20 then
    match o with
    | 0 => if 300 ≤ v % 1024 ∧ v % 1024 ≤ 750 then { s with govNext := { s.govNext with watts := v % 1024 } } else s
    | 0x10 | 0x18 | 0x20 | 0x28 =>
      { s with govNext := { s.govNext with cost := vmod s.govNext.cost ((o - 0x10) / 8) fun _ => BitVec.ofNat 64 v } }
    | 0x40 => { s with govNext := { s.govNext with pairUj := bits v 63 32, leakMw := bits v 15 0 } }
    | _ => s
  else if page = 0x30 then
    match o with
    | 8 => { s with bridge := { s.bridge with marginHigh := bits v 31 16, marginLow := bits v 15 0 } }
    | 0x10 =>
      if act && v % 2 == 1 && s.bridgeAllowed then s.train (bits v 2 1) else { s with bridge := { s.bridge with maxStep := bits v 2 1 } }
    | 0x20 => if 16 ≤ bits v 15 0 then { s with bridge := { s.bridge with backoff := bits v 15 0 } } else s
    | _ => s
  else if 0x40 ≤ page ∧ page < 0x80 then
    { s with mbox := vmod s.mbox (page - 0x40) fun m =>
      if o = 0 then (m.postTo (bits v 19 16)).consumeTo (bits v 31 28)
      else if 0x400 ≤ o ∧ o < 0xC00 then { m with page := m.page.putN o 8 v } else m }
  else if 0x100 ≤ page ∧ page < 0x140 then
    let vi := page - 0x100
    match o with
    | 0 => { s with xlt := vmod s.xlt vi fun x => { x with addr := BitVec.ofNat 64 v } }
    | 8 => if act then s.xltStart vi (bits v 13 12) (bits v 9 0) (bits v 23 16) else s
    | 0x10 => if bits v 63 63 = 1 then { s with xlt := vmod s.xlt vi fun x => { x with err := false } } else s
    | _ => s
  else s

/-- A read of n = 4 or 8 bytes of node 3 (11 R242). -/
def State.regRead (s : State) (pa n : Nat) : Nat :=
  let a := pa % 2 ^ 45
  s.reg8 (a / 4096) (a % 4096 / 8 * 8) / 2 ^ (8 * (a % 8)) % 2 ^ (8 * n)

/-- A write of n = 4 or 8 bytes of node 3 (11 R242): a half write keeps the other half, with W1C fields as zero. -/
def State.regWrite (s : State) (pa n v : Nat) : State :=
  let a := pa % 2 ^ 45
  let page := a / 4096
  let o := a % 4096 / 8 * 8
  if n = 8 then s.setReg8 page o v true
  else
    let keep := if 0x100 ≤ page ∧ o = 0x10 then s.reg8 page o % 2 ^ 63 else s.reg8 page o
    if a % 8 = 0 then s.setReg8 page o (keep / 2 ^ 32 * 2 ^ 32 + v % 2 ^ 32) true
    else s.setReg8 page o (keep % 2 ^ 32 + v % 2 ^ 32 * 2 ^ 32) false

/-- Whether an access at a level through the tables of a context may reach a page of node 3 (15 R363): H firmware every
page, the steward of an interface its own mailbox and translation pages (log 95). -/
def State.ownPage (s : State) (lv : Level) (ctx pa : Nat) : Bool :=
  let page := pa % 2 ^ 45 / 4096
  match lv, Tab.get s.ctxs ctx with
  | .h, _ => true
  | _, some x => page == 0x40 + x.vi || page == 0x100 + x.vi
  | _, none => false

/-- A load of a core from node 3: a page that is not its own reads zero. -/
def State.regLoad (s : State) (lv : Level) (ctx pa n : Nat) : Nat := if s.ownPage lv ctx pa then s.regRead pa n else 0

/-- A store of a core to node 3: a page that is not its own ignores it. -/
def State.regStore (s : State) (lv : Level) (ctx pa n v : Nat) : State :=
  if s.ownPage lv ctx pa then s.regWrite pa n v else s

/-! ## Writes of registers as events -/

/-- VIT_LOAD (15 R364): a write of vit.load. -/
def execVitLoad (vi : Nat) (s : State) : Res := .next (s.regWrite (regBase + 8) 8 (vi % 64))

/-- ISL_MATRIX_WRITE (15 R365). -/
def execIslMatrixWrite (v : Word) (s : State) : Res := .next (s.regWrite (regBase + 0x18) 8 v.toNat)

/-- GOV_LIMIT_WRITE (16 R375; 01 R17). -/
def execGovLimitWrite (v : Word) (s : State) : Res := .next (s.regWrite (regBase + 0x20000) 8 v.toNat)

/-- FAB_BACKOFF_WRITE (18 R416). -/
def execFabBackoffWrite (v : Word) (s : State) : Res := .next (s.regWrite (regBase + 0x30020) 8 v.toNat)

/-- BRIDGE_TRAIN_GO (18 R416): a write of brg.train with go. -/
def execBridgeTrainGo (step : BitVec 2) (s : State) : Res := .next (s.regWrite (regBase + 0x30010) 8 (step.toNat * 2 + 1))

/-- MAILBOX_REQUEST_POST (18 R412): a write of req_wr. -/
def execMailboxRequestPost (vi : Nat) (wr : BitVec 4) (s : State) : Res :=
  .next { s with mbox := vmod s.mbox vi fun m => m.postTo wr.toNat }

/-- MAILBOX_REPLY_CONSUME (18 R412): a write of rep_rd. -/
def execMailboxReplyConsume (vi : Nat) (rd : BitVec 4) (s : State) : Res :=
  .next { s with mbox := vmod s.mbox vi fun m => m.consumeTo rd.toNat }

/-- DEVICE_REGISTER_WRITE (11 R242, 15 R363): a naturally aligned write of 32 or 64 bits by the steward or H firmware. -/
def execDeviceRegisterWrite (a : Nat) (wide : Bool) (v : Word) (s : State) : Res :=
  let n := if wide then 8 else 4
  .next (if nodeOf a = 3 ∧ a % n = 0 then s.regWrite a n v.toNat else s)

/-- The word of an xlt.cmd write (15 R351). -/
def xltWord (kind ctx range : Nat) : Nat := range % 256 * 65536 + kind % 4 * 4096 + ctx % 1024

/-- The address of an interface's xlt.cmd (15 R363). -/
def xltCmdAt (vi : Nat) : Nat := regBase + 0x100000 + 4096 * (vi % 64) + 8

/-- XLT_INVALIDATE_RANGE (15 R351): a write of xlt.cmd with kind 0. -/
def execXltInvalidateRange (vi : Nat) (ctx : Nat) (range : Nat) (s : State) : Res :=
  .next (s.regWrite (xltCmdAt vi) 8 (xltWord 0 ctx range))

/-- XLT_INVALIDATE_CONTEXT (15 R351): kind 1. -/
def execXltInvalidateContext (vi : Nat) (ctx : Nat) (s : State) : Res :=
  .next (s.regWrite (xltCmdAt vi) 8 (xltWord 1 ctx 0))

/-- XLT_RELOAD_DESCRIPTOR (15 R351): kind 2. -/
def execXltReloadDescriptor (vi : Nat) (ctx : Nat) (s : State) : Res :=
  .next (s.regWrite (xltCmdAt vi) 8 (xltWord 2 ctx 0))

/-- XLT_CMD_RESERVED_KIND (15 R351): kind 3. -/
def execXltCmdReservedKind (vi : Nat) (s : State) : Res := .next (s.regWrite (xltCmdAt vi) 8 (xltWord 3 0 0))

/-! ## Completing translation commands (15 R351, R352, R357) -/

/-- A context descriptor as memory holds it, with an interface's shaping fields: none when it breaks a rule of R357. The rule
gives the PASID bits 19:0 of its word and does not speak of bits 31:20: the model refuses a descriptor in which one of them
is set, its own choice (log 140). -/
def descriptorAt (m : Mem) (a vi : Nat) (v : Vi) : Option Ctx :=
  let g := fun (o n : Nat) => m.nat (a + o) n
  let root := g 0 8
  let size := g 32 1
  let zero := decide (bits root 63 48 = 0 ∧ bits root 11 1 = 0) && decide (g 8 4 < 2 ^ 20) && g 14 2 == 0 && g 33 7 == 0 &&
    g 56 8 == 0
  let ok := zero && decide (1 ≤ g 12 2 ∧ g 12 2 ≤ 1024) && decide (g 16 8 % 64 = 0) &&
    decide (16 ≤ size ∧ size ≤ 40) && decide (g 24 8 % 2 ^ size = 0) && decide (g 40 8 % 4096 = 0) &&
    decide (g 48 8 % 4096 = 0)
  if ok then
    some
      { vi := vi, desc := a, root := root, pasid := g 8 4, lcores := g 12 2, logBase := g 16 8, logWin := g 24 8, logSize := size,
        map := g 40 8, div := g 48 8, memQuota := v.memQuota, prioCap := v.prioCap, lclCores := v.lcores,
        lclusters := v.lclusters, state := 0, paired := false, statRing := 0, statWr := 0, statLost := 0, joule := 0,
        stopping := [], memUsed := 0, resumed := false, stopAt := 0, pins := [] }
  else none

/-- The address of a context's descriptor (15 R357). -/
def descriptorAddr (v : Vi) (ctx : Nat) : Nat := v.ctxTable + 64 * (ctx - v.ctxBase)

/-- Whether a command covers an address (15 R351). -/
def xltCovers (kind range addr va : Nat) : Bool :=
  decide (kind ≠ 0) || decide (va / 2 ^ range = addr / 2 ^ range)

/-- Whether a command covers a translation: some address of its page. -/
def Tlb.coveredBy (t : Tlb) (ctx kind range addr : Nat) : Bool :=
  t.ctx == ctx &&
    (decide (kind ≠ 0) ||
      (let lo := addr / 2 ^ range * 2 ^ range
       decide (t.va < lo + 2 ^ range) && decide (lo < t.va + t.size)))

/-- The virtual addresses that an entry accesses (15 R352). -/
def EKind.vas (k : EKind) : List Nat :=
  match k with
  | .gStore cs _ => cs.map (·.va)
  | .stf va _ _ _ => [va]
  | .atom _ va _ _ _ _ _ _ _ _ => [va]
  | _ => []

/-- The virtual addresses that a pending result reads, a prefetch that an acquire holds back among them. -/
def Wait.vas (w : Wait) : List Nat :=
  match w with
  | .load ps _ _ _ _ => ps.map (·.va)
  | .future va _ _ _ _ _ => [va]
  | .pref va _ _ => [va]
  | _ => []

/-- Whether the translation of an address is covered by a command (15 R352): the address itself, or a page that holds it
and reaches into the command's range, in a buffer or as the tables give it now. -/
def State.covered (s : State) (ctx kind range addr va : Nat) : Bool :=
  let page := fun (t : Tlb) => t.covers ctx va && t.coveredBy ctx kind range addr
  xltCovers kind range addr va || (s.ctlb.any fun t => page t.2) || s.atc.any page ||
    (s.allCores.any fun c => c.port.tlb.any page) ||
    (match (Tab.get s.ctxs ctx).map fun x => walk s x va with
      | some (.leaf e a) =>
        let sz := pageSize (bits e 11 8)
        page (Tlb.mk ctx (va / sz * sz) sz 0 0 a)
      | _ => false)

/-- Whether a core holds an uncommitted access that may have used a covered translation (15 R352): every core of the
context with a withheld access is rolled back, which the rule allows, and one whose pending result reads by such an entry. -/
def State.holdsAccess (s : State) (c : Core) (ctx kind range addr : Nat) : Bool :=
  decide (c.self.1 = ctx) && c.seat.isSome &&
    ((c.cbuf.any fun e => e.kind.vas != []) ||
      (c.pend.flatMap fun q => q.wait.vas).any (s.covered ctx kind range addr))

/-- Whether a committed access that used a covered translation is still draining (15 R352). -/
def State.stillDraining (s : State) (ctx kind range addr : Nat) : Bool :=
  s.allCores.any fun c => c.drain.any fun e => e.ctx == ctx && e.kind.vas.any (s.covered ctx kind range addr)

/-- Removes the covered translations everywhere (15 R352). -/
def State.dropTlb (s : State) (ctx kind range addr : Nat) : State :=
  let keep := fun (t : Tlb) => !t.coveredBy ctx kind range addr
  let f := fun (c : Core) => { c with port := { c.port with tlb := c.port.tlb.filter keep } }
  { s with
    core := f s.core, others := s.others.map f, ctlb := s.ctlb.filter fun t => keep t.2, atc := s.atc.filter keep }

/-- Rolls a core back at a bundle boundary, without a trap (15 R352). -/
def State.rollbackAt (s : State) (p : Nat) : State := (s.setCore (s.getCore p).rollback).cancelLdf p

/-- Invalidates for a command, rolling back the cores that hold covered accesses (15 R352). -/
def State.invalidate (s : State) (ctx kind range addr : Nat) : State :=
  let ps := (s.allCores.filter fun c => s.holdsAccess c ctx kind range addr).map (·.pcore)
  (ps.foldl State.rollbackAt s).dropTlb ctx kind range addr

/-- The pinned entries of a context's map that are effective now (15 R351, R358): those of entries that are not bound as
the steward has written them, the others as they were, whatever the steward has written there: the device keeps which
entries are bound. -/
def State.pinsOf (s : State) (ctx : Nat) (x : Ctx) : Tab Nat :=
  (List.range x.lcores).filterMap fun l =>
    let e := s.mapEntry x l
    if (s.residentCore ctx l).isSome then (Tab.get x.pins l).map fun p => (l, p)
    else if bits e 29 29 = 1 then some (l, e % 128)
    else none

/-- A kind 2 command's new descriptor, when it is accepted (15 R351, R357): read where the context's own stands. -/
def State.reloaded (s : State) (vi ctx : Nat) : Option Ctx :=
  match Tab.get s.ctxs ctx, s.viOf vi with
  | some x, some v =>
    match descriptorAt s.mem.bytes x.desc vi v with
    | some d =>
      if d.lcores = x.lcores ∧ d.map = x.map ∧ d.div = x.div then
        some { x with
          root := d.root, pasid := d.pasid, logBase := d.logBase, logWin := d.logWin, logSize := d.logSize
          pins := s.pinsOf ctx x }
      else none
    | none => none
  | _, _ => none

/-- Whether an interface holds a context id (15 R364). -/
def State.ctxInVi (s : State) (vi ctx : Nat) : Bool :=
  match s.viOf vi with
  | none => false
  | some v => decide (v.ctxBase ≤ ctx) && decide (ctx < v.ctxBase + v.ctxCount)

/-- Completes the oldest command of an interface (15 R351, R352): a rejected one sets err; one whose covered accesses
still drain waits. -/
def State.xltComplete (s : State) (vi : Nat) : State :=
  let x := s.xlt[Fin.ofNat 64 vi]
  let done := fun (s : State) (bad : Bool) =>
    { s with xlt := vmod s.xlt vi fun x => { x with
      cmds := x.cmds.tail, count := (x.count + 1) % 2 ^ 32, err := x.err || bad } }
  match x.cmds with
  | [] => s
  | (kind, ctx, range, addr) :: _ =>
    if !(s.ctxInVi vi ctx) || kind == 3 || (kind == 0 && !(decide (12 ≤ range ∧ range ≤ 57))) then done s true
    else if s.stillDraining ctx kind range addr then s
    else if kind = 2 then
      match s.reloaded vi ctx with
      | none => done s true
      | some d =>
        let s := s.invalidate ctx kind range addr
        done { s with ctxs := Tab.put s.ctxs ctx d, naming := s.naming.filter fun e => e.ctx != ctx } false
    else done (s.invalidate ctx kind range addr) false

/-- XLT_CMD_COMPLETE (15 R351, R352). -/
def execXltCmdComplete (vi : Nat) (s : State) : Res := .next (s.xltComplete (vi % 64))

end Sys2Proof.Machine
end

