-- ==== Sys2Proof/Machine/Landing.lean ====
section
/-! DEFINITION. Results arriving at a core: fixed-latency results (03 R72), and the variable-latency results of loads,
futures, barriers, pipes, matrix waits and FREEZE (03 R73; 11 R254 to R259; 16 R374; 14 R332; 10 R237, R238; 07 R166). -/

namespace Sys2Proof.Machine

/-- The current core up to the present of its sleep: the cycles that it has slept are beats in which its results in flight
land, no bundle issuing in them (04 R110; log 97). -/
def State.slept (s : State) : State :=
  match s.core.sleep with
  | none => s
  | some t =>
    let n := (s.tick - t.2) * 4845 / s.cycle s.core.pcore
    s.upd fun c => { c with beat := c.beat + n, sleep := some (t.1, max t.2 s.tick) }

/-- RESULT_LANDING (03 R72, R74; 04 R110): every result of core c that is due lands. -/
def execResultLanding (c : Nat) (s : State) : Res := .next ((s.switch c).slept.upd Core.landDue)

/-! ## Loads (11 R243, R244, R254) -/

/-- Reads the parts of a range that forwarding does not cover wholly, sector by sector (08 R174). -/
def readUncovered (useL1 : Bool) (pa : Nat) (fwd : List (Option Byte)) :
    List (Nat × Nat) → State → Except Poisoned (List Byte) × State
  | [], s => (.ok [], s)
  | p :: ps, s =>
    let here := (fwd.drop (p.1 - pa)).take p.2
    let r := if here.all Option.isSome then (.ok (List.replicate p.2 0), s) else readSector s useL1 p.1 p.2
    match r with
    | (.error e, s) => (.error e, s)
    | (.ok bs, s) =>
      match readUncovered useL1 pa fwd ps s with
      | (.ok cs, s) => (.ok (bs ++ cs), s)
      | (.error e, s) => (.error e, s)

/-- The bytes of a range with those that were forwarded to it in their places (08 R174). -/
def forwarded (fwd : List (Option Byte)) (bs : List Byte) : List Byte :=
  List.zipWith (fun (o : Option Byte) b => o.getD b) fwd bs

/-- The bytes of one piece of a load, at its landing; device registers are read once (11 R242), and what the bridge lost is
poisoned data of the peer (18 R415). -/
def State.readPiece (s : State) (useL1 : Bool) (q : Piece) : Except Poisoned (List Byte) × State :=
  let n := q.fwd.length
  if q.lost then (.error (Poisoned.mk 8 q.pa), s)
  else if nodeOf q.pa = 3 then (.ok (forwarded q.fwd (toBytes n (s.regLoad s.core.level s.core.self.1 q.pa n))), s)
  else
    match readUncovered useL1 q.pa q.fwd (sectorParts q.pa n) s with
    | (.ok bs, s) => (.ok (forwarded q.fwd bs), s)
    | (.error e, s) => (.error e, s)

/-- The bytes of the pieces of a load, or the poison with the address consumed. -/
def readPieces (useL1 : Bool) : List Piece → State → Except (Poisoned × Nat) (List Byte) × State
  | [], s => (.ok [], s)
  | q :: qs, s =>
    match s.readPiece useL1 q with
    | (.error e, s) => (.error (e, q.va + (e.pa - q.pa)), s)
    | (.ok bs, s) =>
      match readPieces useL1 qs s with
      | (.ok cs, s) => (.ok (bs ++ cs), s)
      | (.error e, s) => (.error e, s)

/-- What a load delivers: a scalar by its size code, gathered elements by their width, or raw bytes. -/
def loadValue (dst : PDst) (sx w : Nat) (bs : List Byte) : VWord :=
  if w ≠ 0 then ofElems w (digits w 64 (ofBytes bs))
  else
    match dst with
    | .v _ | .sd _ => BitVec.ofNat 4096 (ofBytes bs)
    | _ => if bs.length ≤ 8 then (loadExt sx (ofBytes bs)).setWidth 4096 else BitVec.ofNat 4096 (ofBytes bs)

/-- An acquire lands on the current core (11 R244). -/
def State.acquired (s : State) (acq : Option Scope) : State :=
  match acq with
  | some sc => if empties sc then s.emptyL1 else s
  | none => s

/-- Whether a command writes the scratchpad, the weight buffer or a barrier of a logical core (12 R285). -/
def CCmd.aims (k : CCmd) (l : Nat) : Bool := k.targets.contains l || k.bars.any fun b => b.lcore == l

/-- Whether a matrix command does: by its barrier, or as an ACCST into the scratchpad. -/
def MCmd.aims (m : MCmd) (l : Nat) : Bool :=
  (m.bar.map fun b => b.lcore == l).getD false || (decide (m.kind = .accst) && (m.targets m.shape).contains l)

/-- Whether a committed entry writes the scratchpad or a barrier of a logical core (12 R285). -/
def Entry.aims (e : Entry) (l : Nat) : Bool :=
  match e.kind with
  | .spStore _ | .spMgmt _ _ _ _ => e.lcore == l
  | .barrier b _ => b.lcore == l
  | .copy k => k.aims l
  | .matrix m => m.aims l
  | .spawn _ post => (post.map fun b => b.lcore == l).getD false
  | _ => false

/-- Whether a write aimed at a logical core and committed by a tick has not landed (12 R285): as a message, in a drain, as
a copy command in a buffer or beside an image, or as a command of a matrix unit. -/
def State.aimedAt (s : State) (ctx l until_ : Nat) : Bool :=
  let late := fun (k : CCmd) => k.ctx == ctx && decide (k.tick ≤ until_) && k.aims l
  (match Tab.get s.ctxs ctx with
    | some x => s.divPending x l != 0
    | none => false) ||
    (s.allCores.any fun c =>
      (c.drain.any fun e => e.ctx == ctx && decide (e.tick ≤ until_) && e.aims l) || c.eng.bte.any late ||
        (c.mx.queue ++ c.mx.pushing.map (·.1)).any fun m => m.ctx == ctx && decide (m.tick ≤ until_) && m.aims l) ||
    s.kept.any fun e => late e.2

/-- Whether an acquire of the kernel on a core may land: at IMAGE scope, once every write aimed at its logical core before
the context last stopped has landed (12 R285). -/
def State.acquireReady (s : State) (c : Core) (acq : Option Scope) : Bool :=
  match acq with
  | some .image =>
    match Tab.get s.ctxs c.self.1 with
    | some x => !x.resumed || !(s.aimedAt c.self.1 c.self.2 x.stopAt)
    | none => true
  | _ => true

/-- Whether a pending result that later loads wait for stands before result k (11 R255, R263; 12 R273). -/
def Core.blockedAt (c : Core) (k : Nat) : Bool := (c.pend.take k).any fun q => q.block

/-- Whether two physical ranges meet. -/
def meets (a n b m : Nat) : Bool := decide (a < b + m) && decide (b < a + n)

/-- Whether an earlier load of the core is still to land (log 9), or an earlier future of a word that the load reads (12
R270: two loads of one location land in program order). -/
def Core.loadBefore (c : Core) (k : Nat) (ps : List Piece) : Bool :=
  (c.pend.take k).any fun q => match q.wait with
    | .load _ _ _ _ _ => true
    | .future _ pa _ _ _ _ => ps.any fun x => meets pa 8 x.pa x.fwd.length
    | _ => false

/-- Whether an earlier read of a word is still to be performed (12 R270): a load to land, or a future that its slice has
neither answered nor deferred. -/
def Core.readBefore (c : Core) (k pa : Nat) : Bool :=
  (c.pend.take k).any fun q => match q.wait with
    | .load ps _ _ _ _ => ps.any fun x => meets pa 8 x.pa x.fwd.length
    | .future _ a _ deferred _ _ => !deferred && a == pa
    | _ => false

/-- Whether an earlier result that later accesses wait for, an acquiring load or what comes before an acquiring fence, is
still to land (12 R273). A wait on a barrier does not hold a later one. -/
def Core.loadHolds (c : Core) (k : Nat) : Bool :=
  (c.pend.take k).any fun q => q.block && (match q.wait with
    | .barrier _ _ => false
    | _ => true)

/-- Whether a committed atomic of the kernel on a core leaves a byte of a piece unread until it is performed (08 R174, 12
R270). -/
def Core.awaitsAtom (c : Core) (q : Piece) : Bool :=
  c.committed.any fun e => match e.kind with
    | .atom _ _ a n _ _ _ _ _ _ =>
      (List.range q.fwd.length).any fun i =>
        decide (a ≤ q.pa + i) && decide (q.pa + i < a + n) && ((q.fwd.getD i none).isNone)
    | _ => false

/-- Whether a committed write of a device register is still to be performed (11 R242: in issue order). -/
def Core.writesRegs (c : Core) : Bool :=
  c.drain.any fun e => match e.kind with
    | .gStore cs _ => cs.any fun k => nodeOf k.pa == 3
    | _ => false

/-- The current core consumes the poison that a landing met, as the slot that issued it (08 R188). -/
def State.consumeAt (s : State) (q : Pend) (src pa va : Nat) : State :=
  (s.upd fun c => { c with pc := q.bundle, iss := { c.iss with pos := q.slot } }).consume src pa va

/-- A load lands on the current core. -/
def State.landLoad (s : State) (k : Nat) (q : Pend) (ps : List Piece) (sx w : Nat) (acq : Option Scope) (l1 : Bool) :
    State :=
  if s.core.loadBefore k ps || s.core.blockedAt k || ps.any s.core.awaitsAtom || !(s.acquireReady s.core acq) ||
    (ps.any (fun p => nodeOf p.pa == 3) && s.core.writesRegs) then s
  else
    match readPieces l1 ps s with
    | (.error e, s) => s.consumeAt q e.1.src e.1.pa e.2
    | (.ok bs, s) => (s.acquired acq).upd fun c => c.landPend k (loadValue q.dst sx w bs)

/-! ## Futures (11 R256 to R259) -/

/-- Whether a word is full. -/
def State.fullWord (s : State) (pa : Nat) : Bool := NSet.has s.mem.full (pa / 8)

/-- Whether the bridge can carry an access to an address (18 R415). -/
def State.reaches (s : State) (pa : Nat) : Bool :=
  nodeOf pa != 1 || (s.bridge.opened && s.bridge.tx.up && s.bridge.rx.up)

/-- The capacity of a slice's deferral buffer (11 R241). -/
def deferSize : Nat := 32

/-- Changes what a future of core p waits for. -/
def State.setWait (s : State) (p k : Nat) (w : Wait) : State :=
  let c := s.getCore p
  match c.pend[k]? with
  | some q => s.setCore { c with pend := setNth c.pend k { q with wait := w } }
  | none => s

/-- Whether a future of core p may land: an acquire when it is ready (12 R285), any after the older results for its register
(03 R73). -/
def State.futureReady (s : State) (p k : Nat) (acq : Option Scope) : Bool :=
  let c := s.getCore p
  s.acquireReady c acq && !(((c.pend[k]?).map c.laterFixed).getD false)

/-- The answer of a future comes to core p, whose cache keeps no older copy of its word (12 R270), and lands; one that may
not land yet is held (12 R285; 03 R73). -/
def State.landFuture (s : State) (p k pa : Nat) (v : Word) (acq : Option Scope) : State :=
  let c := s.getCore p
  let s := s.setCore { c with port := { c.port with l1d := Tab.del c.port.l1d (pa / 64) } }
  if s.futureReady p k acq then
    let c := (s.getCore p).landPend k (v.setWidth 4096)
    s.setCore (if (acq.map empties).getD false then { c with port := { c.port with l1d := [] } } else c)
  else s.setWait p k (.futureFwd v acq)

/-- A forwarded future lands on core p (08 R174). -/
def State.landForwarded (s : State) (p k : Nat) (v : Word) (acq : Option Scope) : State :=
  if s.futureReady p k acq then
    let c := (s.getCore p).landPend k (v.setWidth 4096)
    s.setCore (if (acq.map empties).getD false then { c with port := { c.port with l1d := [] } } else c)
  else s

/-- The word of a future with the bytes that were forwarded to it (08 R174). -/
def futureWord (fwd : List (Option Byte)) (v : Nat) : Word := BitVec.ofNat 64 (ofBytes (forwarded fwd (toBytes 8 v)))

/-- Whether a committed write of the kernel on a core to a word is still to be performed (12 R270). -/
def Core.writesWord (c : Core) (pa : Nat) : Bool :=
  let meets := fun (a n : Nat) => decide (a < pa + 8) && decide (pa < a + n)
  c.committed.any fun e => match e.kind with
    | .gStore cs _ => cs.any fun k => meets k.pa k.bytes.length
    | .stf _ a _ _ => meets a 8
    | .atom _ _ a n _ _ _ _ _ _ => meets a n
    | _ => false

/-- Whether a slice still drops a request, since it has refused an earlier one of the core (14 R335). -/
def Core.refusedBefore (c : Core) (k pa : Nat) : Bool :=
  (c.pend.take k).any fun q => q.refused && (match q.wait with
    | .future _ a _ _ _ _ => nodeOf a == nodeOf pa && sliceOf a == sliceOf pa
    | _ => false)

/-- The requests that wait at a slice (11 R241). -/
def Memory.deferredAt (m : Memory) (pa : Nat) : Nat :=
  (m.defer.filter fun d => nodeOf d.pa == nodeOf pa && d.slice == sliceOf pa).length

/-- A request of core p's k-th pending result reaches its home slice (11 R257, R259): answered, deferred or refused; one
that is refused keeps its place in the replay window (14 R336). -/
def State.resolveFuture (s : State) (p k : Nat) : State :=
  let c := s.getCore p
  match c.pend[k]? with
  | none => s
  | some q =>
    match q.wait with
    | .futureFwd v acq => s.landForwarded p k v acq
    | .future va pa acq deferred retry fwd =>
      if s.tick < retry || deferred || c.blockedAt k || c.writesWord pa || c.readBefore k pa || c.refusedBefore k pa ||
        !(s.acquireReady c acq) || (retry == 0 && !c.windowRoom) then s
      else if s.fullWord pa || !(s.reaches pa) then
        match fetchPoison (s.payer p) pa 8 s with
        | (some src, s) => (s.switch p).consumeAt q src pa va
        | (none, s) => s.landFuture p k pa (futureWord fwd (s.pnat pa 8)) acq
      else if deferSize ≤ s.mem.deferredAt pa then
        s.setWait p k (.future va pa acq false (s.tick + s.bridge.backoff) fwd)
      else
        let s := touch (s.payer p) pa 8 false s
        (s.updMem fun m => { m with defer := m.defer ++ [(Deferred.mk (sliceOf pa) pa p)] }).setWait p k
          (.future va pa acq true 0 fwd)
    | _ => s

/-- LDF_REQUEST_RESOLVE (11 R257). -/
def execLdfRequestResolve (c : Nat) (k : Nat) (s : State) : Res := .next (s.resolveFuture c k)

/-- The pending result of a core that waits for a deferred word, with its ordering and the bytes forwarded to it. -/
def Core.futureAt (c : Core) (pa : Nat) : Option (Nat × Option Scope × List (Option Byte)) :=
  ((List.range c.pend.length).filterMap fun k =>
    match c.pend[k]? with
    | some q =>
      match q.wait with
      | .future _ a acq true _ fwd => if a = pa then some (k, acq, fwd) else none
      | _ => none
    | none => none).head?

/-- An STF answers every deferred request on its word, in arrival order (11 R258). -/
def State.answerDeferred (s : State) (pa : Nat) (v : Word) : State :=
  let ds := s.mem.defer.filter fun d => d.pa == pa
  let s := s.updMem fun m => { m with defer := m.defer.filter fun d => d.pa != pa }
  ds.foldl
    (fun s d =>
      match (s.getCore d.core).futureAt pa with
      | some x => s.landFuture d.core x.1 pa (futureWord x.2.2 v.toNat) x.2.1
      | none => s) s

/-! ## The other waits -/

/-- The time of the current core, in the unit of its cycles: its own or the chip's, whichever is later (log 13). -/
def State.coreTime (s : State) : Nat := max s.core.ltime (s.tick * 4845)

/-- The time at which a number of beats have passed since a result of the current core was marked pending; a freeze stops
no time (03 R73). -/
def State.beatsAfter (s : State) (q : Pend) (n : Nat) : Nat := q.time + n * s.cycle s.core.pcore

/-- Whether an update of a barrier that the kernel on a core has committed is still to be performed (12 R273: accesses to
one location are in program order). -/
def Core.movesBar (c : Core) (idx : Nat) : Bool :=
  c.committed.any fun e => match e.kind with
    | .barrier b _ => b.lcore == e.lcore && b.idx == idx
    | _ => false

/-- The pending result k of the current core lands, if what it waits for has come and the older results for its register
have landed (03 R73). -/
def State.landOne (s : State) (k : Nat) : State :=
  match s.core.pend[k]? with
  | none => s
  | some q =>
    if s.core.laterFixed q then s else
    let give := fun (s : State) (v : VWord) => s.upd fun c => c.landPend k v
    match q.wait with
    | .load ps sx w acq l1 => s.landLoad k q ps sx w acq l1
    | .future _ _ _ _ _ _ => s
    | .futureFwd v acq => s.landForwarded s.core.pcore k v acq
    | .barrier idx ph =>
      let b := s.core.bar idx
      if barPhase b = ph || s.core.movesBar idx || s.core.loadHolds k || decide (s.coreTime < s.beatsAfter q 2) then s
      else give s.emptyL1 (BitVec.ofNat 4096 (barWord b))
    | .pipe e count vec =>
      let p := s.core.eng.pipes[Fin.ofNat 8 e]
      match p.entries[count - p.base]? with
      | some m => give s (if vec then m else (m.setWidth 64).setWidth 4096)
      | none => s
    | .accrd row col =>
      if s.regionBusy s.core.pcore (col / 6) then s
      else
        match s.core.block row col with
        | .ok v => give s v
        | .error o => s.consumeAt q 7 o o
    | .mwait ids last =>
      let t := s.beatsAfter q 4
      if (s.matrixWork s.core.pcore).any fun m => ids.contains m.id then s
      else if ids = [] then if s.coreTime < t then s else give s (BitVec.ofNat 4096 (t / 4845))
      else give s (BitVec.ofNat 4096 (last.getD s.tick))
    | .pref _ pa l1 =>
      if s.core.blockedAt k then s else (s.prefetch pa l1).upd fun c => { c with pend := dropNth c.pend k }
    | .freeze _ _ _ (some st) => give s (BitVec.ofNat 4096 st)
    | .freeze _ _ _ none => s

/-- VARIABLE_RESULT_LANDING (03 R73): result k of core c. -/
def execVariableResultLanding (c : Nat) (k : Nat) (s : State) : Res := .next ((s.switch c).landOne k)

/-- ACCRD_BUSY_LAND (10 R237): the first ACCRD of core c whose region has become idle. -/
def execAccrdBusyLand (c : Nat) (s : State) : Res :=
  let s := s.switch c
  let ready := (List.range s.core.pend.length).find? fun k =>
    match s.core.pend[k]? with
    | some q =>
      match q.wait with
      | .accrd _ col => !(s.regionBusy c (col / 6))
      | _ => false
    | none => false
  .next (match ready with
    | some k => s.landOne k
    | none => s)

/-- STAT_DRAIN (14 R338): the oldest statistics record of core c. -/
def execStatDrain (c : Nat) (s : State) : Res := .next (s.statStep c)

/-! ## Matrix and copy events -/

/-- MATRIX_CMD_START (10 R225). -/
def execMatrixCmdStart (c : Nat) (s : State) : Res := .next (s.matrixStart c)

/-- MATRIX_CMD_COMPLETE (10 R225, R230). -/
def execMatrixCmdComplete (c : Nat) (s : State) : Res := .next (s.matrixComplete c)

/-- COPY_START (13 R290). -/
def execCopyStart (c : Nat) (s : State) : Res := .next (s.copyStart c)

/-- Whether a command is a reduction. -/
def CCmd.isRedc (k : CCmd) : Bool :=
  match k.kind with
  | .redc _ => true
  | _ => false

/-- Whether the command at a position is a reduction. -/
def State.isRedc (s : State) (c pos : Nat) : Bool := (((s.getCore c).cmdAt pos).map CCmd.isRedc).getD false

/-- COPY_ELEMENT_TRANSFER (13 R291); the elements of a REDC are LINK_REDUCTION_UPDATE's. -/
def execCopyElementTransfer (c : Nat) (pos : Nat) (s : State) : Res :=
  .next (if s.isRedc c pos then s else s.copyElement c pos)

/-- LINK_REDUCTION_UPDATE (13 R306). -/
def execLinkReductionUpdate (c : Nat) (pos : Nat) (s : State) : Res :=
  .next (if s.isRedc c pos then s.copyElement c pos else s)

/-- COPY_COMPLETE (13 R292). -/
def execCopyComplete (c : Nat) (pos : Nat) (s : State) : Res := .next (s.copyComplete c pos)

/-! ## Receiving messages (14 R335; 15 R361) -/

/-- The copy command of a number, and the core whose buffer holds it. -/
def State.cmdOf (s : State) (seq : Nat) : Option (Nat × CCmd) :=
  s.allCores.findSome? fun c => (c.eng.bte.find? fun k => k.seq == seq).map fun k => (c.pcore, k)

/-- The running ACCST of a number, and its core. -/
def State.accstOf (s : State) (id : Nat) : Option (Nat × MCmd) :=
  s.allCores.findSome? fun c => (c.mx.queue.find? fun m => m.id == id && decide (m.kind = .accst)).map fun m => (c.pcore, m)

/-- The elements among the bytes of a remote store, each with its own bytes. -/
def storeParts (off : Nat) (bs : List Byte) : List StoreEl → List (StoreEl × List Byte)
  | [] => []
  | e :: es =>
    let stop := (es.head?.map (·.off)).getD (off + bs.length)
    (e, (bs.drop (e.off - off)).take (stop - e.off)) :: storeParts off bs es

/-- Lands one element of an engine command at another logical core (13 R300; 10 R234; 09 R198): what a copy covers is noted
with the command; what finds no place is reported as the command's, once for each detail (13 R303), and an ACCST's post is
poisoned (16 R372). -/
def State.storeOne (s : State) (m : Msg) (cmd : Nat) (e : StoreEl) (bs : List Byte) : State :=
  match s.cmdOf cmd with
  | some x =>
    let r := landSpParts m.ctx m.lcore e.off bs e.bad (Land.ok, x.2, s)
    let keep := r.2.2.onCmd x.1 x.2.pos fun o => { o with cover := r.2.1.cover, bad := r.2.1.bad }
    if r.1 = .ok then keep else keep.copyReport x.1 x.2 1 e.off x.2.dstRec e.crd
  | none =>
    let r := s.landSp m.ctx m.lcore e.off bs e.bad
    if r.1 = .ok then r.2
    else
      match s.accstOf cmd with
      | some x =>
        let b := mxFault r.2 x.2 1 e.off e.crd
        b.1.onMx x.1 fun y => { y with
          queue := y.queue.map fun q => if q.id == cmd && decide (q.kind = .accst) then { b.2 with poisoned := true } else q }
      | none => r.2.copyFault m.ctx m.src 1 m.handle m.bundle e.off e.crd noPos

/-- The bytes of an engine command land at another logical core, element by element; none while that core moves. -/
def State.storeArrive (s : State) (m : Msg) (cmd off : Nat) (bs : List Byte) (els : List StoreEl) : Arrival × State :=
  if s.place m.ctx m.lcore = .moving then (.refused, s)
  else (.landed, (storeParts off bs els).foldl (fun s e => s.storeOne m cmd e.1 e.2) s)

/-- What a message does where it arrives. -/
def State.arrive (s : State) (m : Msg) : Arrival × State :=
  match m.body with
  | .pipe e v => s.pipeArrive m.ctx m.lcore e v
  | .barrier i u => s.barUpdate m.ctx m.lcore i u
  | .freeNotice e n => s.freeArrive m.ctx m.lcore e n
  | .store n o bs els => s.storeArrive m n o bs els

/-- What a message at its destination comes to: accepted once, dropped with a NACK, which its port replays and resolves
again (14 R335), or dropped and reported, for an unused entry or a barrier with other owners (15 R361, 16 R371). -/
def State.land (s : State) (p k : Nat) (m : Msg) : State :=
  let set := fun (m : Msg) (s : State) => s.onWindow p fun w => setNth w k m
  match s.arrive m with
  | (.landed, s) => set { m with st := .accepted } (s.unpend m.ctx m.lcore)
  | (.refused, s) => set { m with st := .refused (s.tick + s.bridge.backoff), dest := none } s
  | (_, s) =>
    set { m with st := .accepted }
      ((s.unpend m.ctx m.lcore).copyFault m.ctx m.src 1 m.handle m.bundle 0 [] noPos)

/-- The forwarding entry of a core for a logical core, before its expiry (15 R362). -/
def State.fwdAt (s : State) (q : Nat) (m : Msg) : Option Fwd :=
  (s.getCore q).port.fwd.find? fun f => f.ctx == m.ctx && f.lcore == m.lcore && decide (s.tick < f.expiry)

/-- The old core passes a message on, or NACKs it (15 R361, R362). -/
def State.passOn (s : State) (p k q : Nat) (m : Msg) : State :=
  match s.fwdAt q m with
  | some f => s.onWindow p fun w => setNth w k { m with dest := some f.pcore }
  | none => s.onWindow p fun w => setNth w k { m with st := .refused (s.tick + s.bridge.backoff), dest := none }

/-- Message k of core p's window goes on (14 R335): its port resolves it through the naming cache of its cluster (15
R361), to the core where its logical core is resident, or to the image, where it lands at once; at that core it lands, is
passed on by a forwarding entry where its logical core has left (R362), or is NACKed. Behind an earlier one to the same
receiver it waits. -/
def State.receive (s : State) (p k : Nat) : State :=
  let w := (s.getCore p).port.window
  match w[k]? with
  | none => s
  | some m =>
    if m.st ≠ .sent ∨ behind w k m = true then s
    else
      let set := fun (m : Msg) (s : State) => s.onWindow p fun w => setNth w k m
      match m.dest with
      | none =>
        let s := s.lookName (clusterOf p) m.ctx m.lcore
        match s.place m.ctx m.lcore with
        | .resident q => set { m with dest := some q } s
        | _ => s.land p k m
      | some q =>
        match (s.getCore q).seat with
        | some z => if z.ctx = m.ctx ∧ z.lcore = m.lcore then s.land p k m else s.passOn p k q m
        | none => s.passOn p k q m
/-! ## Fabric events (14 R335, R336; 15 R362; 16 R370) -/

/-- FABRIC_MESSAGE_RECEIVE (14 R335): message k of core c's window. -/
def execFabricMessageReceive (c : Nat) (k : Nat) (s : State) : Res := .next (s.receive c k)

/-- FABRIC_ACKNOWLEDGE (14 R335). -/
def execFabricAcknowledge (c : Nat) (k : Nat) (s : State) : Res := .next (s.fabricAck c k)

/-- REPLAY_RESEND (14 R336). -/
def execReplayResend (c : Nat) (s : State) : Res := .next (s.resend c)

/-- FORWARDING_ENTRY_EXPIRE (15 R362): the chip time reaches entry k's expiry, and it is free. -/
def execForwardingEntryExpire (c : Nat) (k : Nat) (s : State) : Res :=
  let x := s.getCore c
  .next (match x.port.fwd[k]? with
    | some f =>
      let s := s.reach f.expiry
      let x := s.getCore c
      s.setCore { x with port := { x.port with fwd := dropNth x.port.fwd k } }
    | none => s)

/-- BARRIER_UPDATE_APPLY (16 R370, R371): an update that names barrier idx of logical core l of a context; one that
nobody takes is reported to that logical core's context as its sender's. -/
def execBarrierUpdateApply (ctx : Nat) (l : Nat) (idx : Nat) (upd : BarUpdate) (s : State) : Res :=
  .next (match s.barUpdate ctx l idx upd with
    | (.landed, s) => s
    | (.refused, s) => s
    | (_, s) => s.copyFault ctx l 1 0 0 0 [] noPos)

/-- WRITE_ACKNOWLEDGE (11 R252): write k of core c is acknowledged. -/
def execWriteAcknowledge (c : Nat) (k : Nat) (s : State) : Res :=
  let x := s.getCore c
  .next (s.setCore { x with port := { x.port with acks := dropNth x.port.acks k } })

end Sys2Proof.Machine
end

