-- ==== Sys2Proof/Machine/Sequencer.lean ====
section
/-! DEFINITION. The sequencer: branches and delay bundles, counted loops, modulo loops and SLEEP (03 R61, R64; 04 R100 to
R106, R110). -/

namespace Sys2Proof.Machine

/-! ## Reading code -/

/-- The opcode of an S-class word, if it is one (03 R62). -/
def sOp (w : Nat) : Option Nat := if bits w 30 29 = 0 then some (bits w 27 21) else none

/-- The sequencer-control slots BR, CALL, RET, JMPX, LOOP, LOOPM, BRKL, CKPT, SLEEP and STEPEND (03 R60). -/
def isSeqControl (w : Nat) : Bool :=
  match sOp w with
  | some op => decide (0x38 ≤ op ∧ op ≤ 0x41)
  | none => false

/-- BR, CALL, RET, JMPX, BRKL, LOOP and LOOPM, which may not end a loop (04 R103). -/
def isLoopEndBarred (w : Nat) : Bool :=
  match sOp w with
  | some op => decide (0x38 ≤ op ∧ op ≤ 0x3E)
  | none => false

/-- The words of the bundle at an address, n at most: up to the first with its end bit (03 R58). -/
def bundleFrom : Nat → Nat → State → Except FetchFail (List Nat) × State
  | 0, _, s => (.ok [], s)
  | n + 1, a, s =>
    match fetchWord s a with
    | (.error e, s) => (.error e, s)
    | (.ok w, s) =>
      if w.toNat ≥ 2 ^ 31 then (.ok [w.toNat], s)
      else
        match bundleFrom n ((a + 4) % 2 ^ 64) s with
        | (.error e, s) => (.error e, s)
        | (.ok ws, s) => (.ok (w.toNat :: ws), s)

/-- The words of the bundle at an address (03 R58): at most 8. -/
def bundleAt (s : State) (a : Nat) : Except FetchFail (List Nat) × State := bundleFrom 8 a s

/-- The address of the bundle after the one at an address. -/
def afterBundle (s : State) (a : Nat) : Except FetchFail Nat × State :=
  match bundleAt s a with
  | (.ok ws, s) => (.ok ((a + 4 * ws.length) % 2 ^ 64), s)
  | (.error e, s) => (.error e, s)

/-! ## Branches (04 R100, R101) -/

/-- Whether a branch is taken (03 R64): always with code 15, else lane 0 of the predicate, inverted by negate. -/
def Core.taken (c : Core) (p : PReg) (neg : Bool) : Bool := (decide (p.val = 15) || (c.px p).getLsbD 0) != neg

/-- Records the bundle's branch: its target, or none when it is not taken (03 R61). -/
def State.branchTo (s : State) (t : Option Word) : State := s.upd fun c => { c with iss := { c.iss with branch := some t } }

/-- The target of a J-format displacement (03 R61): words from the bundle's address. -/
def Core.jTarget (c : Core) (disp : BitVec 16) : Word := c.pc + 4 * disp.signExtend 64

/-- The return address (R100): the bundle after the delay bundle; a delay bundle that cannot be read will itself trap. -/
def State.linkOf (s : State) : Word × State :=
  match afterBundle s s.core.iss.nextPc.toNat with
  | (.ok a, s) => (BitVec.ofNat 64 a, s)
  | (.error _, s) => (s.core.iss.nextPc + 4, s)

/-- BR (R100). -/
def execBr (p : PReg) (neg : Bool) (disp : BitVec 16) (s : State) : Res :=
  s.whenOk (branchOk p neg)
    (s.branchTo (if s.core.taken p neg then some (s.core.jTarget disp) else none))

/-- The latency of a link write as bundles count it: the delay bundle reads the old value, the one after it the new (R100;
log 30). -/
def linkLatency : Nat := 2

/-- CALL (R100): an untaken one writes no link. -/
def execCall (n : Bool) (p : PReg) (neg : Bool) (disp : BitVec 16) (s : State) : Res :=
  s.whenOk (branchOk p neg)
    (if s.core.taken p neg then
      let l := s.linkOf
      (l.2.retS linkLatency n 55 l.1).branchTo (some (s.core.jTarget disp))
    else s.branchTo none)

/-- RET (R100, R101): a target that is no multiple of 4 is ILLEGAL. -/
def execRet (a : SSrc) (s : State) : Res :=
  let t := s.core.sx a
  s.whenOk (decide (t.toNat % 4 = 0)) (s.branchTo (some t))

/-- JMPX (R100, R101). -/
def execJmpx (n : Bool) (d : SDst) (a : SSrc) (s : State) : Res :=
  let t := s.core.sx a
  let l := s.linkOf
  s.whenOk (decide (t.toNat % 4 = 0)) ((l.2.retS linkLatency n d l.1).branchTo (some t))

/-! ## Counted loops (04 R102 to R104); the last entry of the stack is its top -/

/-- The address that imm words after the issuing bundle name (R102, R105). -/
def Core.endOf (c : Core) (imm : BitVec 15) : Word := c.pc + 4 * imm.setWidth 64

/-- The next bundle, not by a branch (R102, R106). -/
def State.jumpTo (s : State) (a : Nat) : State :=
  s.upd fun c => { c with iss := { c.iss with jump := some (BitVec.ofNat 64 a) } }

/-- The capacity of the loop stack (R91). -/
def loopDepth : Nat := 6

/-- LOOP (R102). -/
def execLoop (d : SSrc) (imm : BitVec 15) (s : State) : Res :=
  let n := s.core.sx d
  let e := s.core.endOf imm
  s.whenOk (imm != 0)
    (if n = 0 then
      match afterBundle s e.toNat with
      | (.ok a, s) => s.jumpTo a
      | (.error f, s) => s.fetchTrap s.core.iss.pos f
    else if loopDepth ≤ s.core.arch.loops.length then s.trap tLOOPSTK 0 0
    else s.upd fun c => { c with arch := { c.arch with
      loops := c.arch.loops ++ [(LoopEntry.mk c.iss.nextPc e n)] } })

/-- The loop-end rule (R103) for a bundle that issued: the stack and the next bundle. The 64-bit count is lowered before
it is tested, so that a count of 0, which only a patched save area can hold (17 R391), wraps and loops (log 64). -/
def loopEnd (a : Word) : Nat → List LoopEntry → Word → List LoopEntry × Word
  | 0, ls, next => (ls, next)
  | n + 1, ls, next =>
    match ls.getLast? with
    | none => (ls, next)
    | some t =>
      if t.stop ≠ a then (ls, next)
      else if t.count ≠ 1 then (ls.dropLast ++ [{ t with count := t.count - 1 }], t.start)
      else loopEnd a n ls.dropLast next

/-- BRKL (R104): pops the top entry and branches past its end. -/
def execBrkl (neg : Bool) (p : PReg) (s : State) : Res :=
  s.whenOk (branchOk p neg)
    (if !(s.core.taken p neg) then s
    else
      match s.core.arch.loops.getLast? with
      | none => s.trap tLOOPSTK 0 0
      | some t =>
        match afterBundle s t.stop.toNat with
        | (.ok a, s) =>
          (s.upd fun c => { c with arch := { c.arch with loops := c.arch.loops.dropLast } }).branchTo
            (some (BitVec.ofNat 64 a))
        | (.error f, s) => s.fetchTrap s.core.iss.pos f)

/-! ## Modulo loops (04 R105, R106; 17 R391) -/

/-- A modulo body as read from code: the words of its bundles, its last bundle's address, the address after the map and
the map's bytes with their padding. -/
structure LoopBody where
  bundles : List (List Nat)
  stop : Nat
  after : Nat
  map : List Nat
  padding : List Nat
  deriving DecidableEq, Repr

/-- Reads bundles from an address up to one at or past stop, or up to n of them; and the address of the last. -/
def readBundles (stop : Option Nat) : Nat → Nat → State → Except FetchFail (List (List Nat) × Nat) × State
  | 0, a, s => (.ok ([], a), s)
  | n + 1, a, s =>
    match bundleAt s a with
    | (.error e, s) => (.error e, s)
    | (.ok ws, s) =>
      let here := match stop with
        | some e => decide (e ≤ a)
        | none => decide (n = 0)
      if here then (.ok ([ws], a), s)
      else
        match readBundles stop n ((a + 4 * ws.length) % 2 ^ 64) s with
        | (.error e, s) => (.error e, s)
        | (.ok x, s) => (.ok (ws :: x.1, x.2), s)

/-- Reads n words of code. -/
def readWords : Nat → Nat → State → Except FetchFail (List Nat) × State
  | 0, _, s => (.ok [], s)
  | n + 1, a, s =>
    match fetchWord s a with
    | (.error e, s) => (.error e, s)
    | (.ok w, s) =>
      match readWords n ((a + 4) % 2 ^ 64) s with
      | (.error e, s) => (.error e, s)
      | (.ok ws, s) => (.ok (w.toNat :: ws), s)

/-- Reads a body and its stage map (R105). -/
def readBody (s : State) (start : Nat) (stop : Option Nat) (n : Nat) : Except FetchFail LoopBody × State :=
  match readBundles stop n start s with
  | (.error e, s) => (.error e, s)
  | (.ok x, s) =>
    let slots := (x.1.map List.length).foldl (· + ·) 0
    let mapAt := (x.2 + 4 * (x.1.getLastD []).length) % 2 ^ 64
    let words := (slots + 3) / 4
    match readWords words mapAt s with
    | (.error e, s) => (.error e, s)
    | (.ok ws, s) =>
      let bytes := ws.flatMap fun w => digits 8 4 w
      (.ok (LoopBody.mk x.1 x.2 ((mapAt + 4 * words) % 2 ^ 64) (bytes.take slots) (bytes.drop slots)), s)

/-- The checks of R106 on a body for a stage count. -/
def LoopBody.ok (b : LoopBody) (stages : Nat) : Bool :=
  decide (1 ≤ b.bundles.length ∧ b.bundles.length ≤ 16) && decide (b.map.length ≤ 64) &&
    !(b.bundles.any fun ws => ws.any isSeqControl) && (b.map.all fun m => decide (m < stages)) && b.padding.all (· == 0)

/-- LOOPM (R105, R106). An end address at which no bundle of the body starts is ILLEGAL, and a body or map that cannot be
fetched raises FETCH at the LOOPM's own slot (log 66). -/
def execLoopm (d : SSrc) (imm : BitVec 15) (s : State) : Res :=
  let v := s.core.sx d
  let start := s.core.iss.nextPc
  let stop := s.core.endOf imm
  let stages := wbits v 34 32 + 1
  s.whenOk (imm != 0)
    (match readBody s start.toNat (some stop.toNat) 17 with
    | (.error f, s) => s.fetchTrap s.core.iss.pos f
    | (.ok b, s) =>
      if b.stop ≠ stop.toNat ∨ b.ok stages = false then s.illegal
      else if wbits v 31 0 = 0 then s.jumpTo b.after
      else s.upd fun c => { c with arch := { c.arch with
        modq := (Modulo.mk true start b.bundles.length (wbits v 31 0) stages (wbits v 47 40) 0 b.map
          (BitVec.ofNat 64 b.stop) (BitVec.ofNat 64 b.after)) } })

/-- Re-derives what a saved modulo sequencer does not hold, from code (17 R391): none where the code disagrees with the
saved fields, breaks R106 or cannot be read. -/
def deriveModulo (s : State) (q : Modulo) : Option Modulo × State :=
  if !q.active then (some .reset, s)
  else if q.ii = 0 ∨ 16 < q.ii ∨ q.stages = 0 ∨ 8 < q.stages then (none, s)
  else
    match readBody s q.start.toNat none q.ii with
    | (.error _, s) => (none, s)
    | (.ok b, s) =>
      if b.ok q.stages && q.map.take b.map.length == b.map && (q.map.drop b.map.length).all (· == 0) then
        (some { q with map := b.map, stop := BitVec.ofNat 64 b.stop, after := BitVec.ofNat 64 b.after }, s)
      else (none, s)

/-- Whether the slot at a position of the bundle at hand is squashed (R106). Of bundles outside the body, which an ERET or a
loop's end can reach while the sequencer is active, the spec says nothing: the model looks their slots up in the stage map
too, by its choice (log 116). -/
def Core.squashed (c : Core) (pos : Nat) : Bool :=
  let q := c.arch.modq
  if q.active then
    let st := q.map.getD ((c.pc.toNat - q.start.toNat) / 4 + pos) 0
    !(decide (st ≤ q.pass) && decide (q.pass - st < q.n))
  else false

/-- Whether an automatic checkpoint stands before the bundle at hand (R106): the first bundle of such a pass. -/
def Core.autoCkpt (c : Core) : Bool :=
  let q := c.arch.modq
  q.active && decide (c.pc = q.start) && decide (0 < q.k) && decide (0 < q.pass) && decide (q.pass % q.k = 0)

/-- The modulo sequencer and the next bundle after a body bundle issued (R106). -/
def Modulo.advance (q : Modulo) (a next : Word) : Modulo × Word :=
  if a ≠ q.stop then (q, next)
  else if q.pass + 1 < q.n + q.stages - 1 then ({ q with pass := q.pass + 1 }, q.start)
  else (.reset, q.after)

/-- The sequencer after a bundle issued without a trap (03 R61; 04 R102 to R106). The loop-end rule is applied to every
bundle that no taken branch, LOOP or LOOPM sends elsewhere: to a taken branch's own bundle, whose delay bundle is then the
start of that loop, and to the bundles of a modulo body, after the modulo sequencer (log 64). -/
def Core.advance (c : Core) : Core :=
  let a := c.pc
  let delay := match c.iss.branch with
    | some t => Delay.after t
    | none => .none
  match c.delay with
  | .after (some t) => { c with pc := t, delay := delay }
  | _ =>
    match c.iss.jump with
    | some t => { c with pc := t, delay := delay }
    | none =>
      if c.arch.modq.active && decide (c.arch.modq.start ≤ a) &&
          decide (a ≤ c.arch.modq.stop) then
        let r := c.arch.modq.advance a c.iss.nextPc
        let l := loopEnd a loopDepth c.arch.loops r.2
        { c with arch := { c.arch with modq := r.1, loops := l.1 }, pc := l.2, delay := delay }
      else
        let r := loopEnd a loopDepth c.arch.loops c.iss.nextPc
        { c with arch := { c.arch with loops := r.1 }, pc := r.2, delay := delay }

/-- SLEEP (R110): no later bundle issues before the tick of X(a). -/
def execSleep (a : SSrc) (s : State) : Res :=
  let t := (s.core.sx a).toNat
  .next (if s.tick < t then s.upd fun c => { c with sleep := some (t, s.tick) } else s)

/-- NOP (R108). -/
def execNop (s : State) : Res := .next s

end Sys2Proof.Machine
end

