-- ==== Sys2Proof/Machine/Tasks.lean ====
section
/-! DEFINITION. Queues, packets, tasks and the chip walker: notify writes, the packet processor, parameter blocks and
gang descriptors, admission, generation of steps, retirement and completion words (01 R18 to R26; 14 R311 to R324). -/

namespace Sys2Proof.Machine

/-! ## The device's own accesses to a context's space -/

/-- Translates an address of a context for the packet processor or the walker, with the rights of level U (14 R316;
15 R347, R348); an absent host page comes before the rights (11 R254). -/
def State.devAddr (s : State) (ctx va : Nat) (w : Want) : Except TFail Nat × State :=
  match Tab.get s.ctxs ctx with
  | none => (.error .absent, s)
  | some x =>
    match walk s x va with
    | .absent => (.error .absent, s)
    | .bad a => (.error .absent, s.event x.vi (eventRec 0x04 0 0 0 s.tick 0 a [] noPos))
    | .leaf e a =>
      let r := if bits e 46 45 = 2 then ats s x ctx va w else (.ok (leafPa e + va % pageSize (bits e 11 8)), s)
      match r with
      | (.error .host, s) => (.error .host, s)
      | (r, s) => if granted e w .u none then (r, orEntry s a (if w = .write then 192 else 64)) else (.error .rights, s)

/-- Resolves the parts of a device access, or the detail of its failure (08 R179). -/
def devParts (ctx : Nat) (w : Want) : List (Nat × Nat) → State → Except Nat (List (Nat × Nat)) × State
  | [], s => (.ok [], s)
  | x :: xs, s =>
    match s.devAddr ctx x.1 w with
    | (.error f, s) => (.error (f.detail w), s)
    | (.ok pa, s) =>
      if nodeOk s pa x.2 .vector then
        match devParts ctx w xs s with
        | (.ok l, s) => (.ok ((pa, x.2) :: l), s)
        | (.error d, s) => (.error d, s)
      else (.error (TFail.detail .rights w), s)

/-- A read of a context's space by the device: its value, or the detail of what fails, 3 for poison (08 R179). -/
def State.devLook (s : State) (ctx va n : Nat) : Except Nat Nat × State :=
  match devParts ctx .read (pageParts va n) s with
  | (.error d, s) => (.error d, s)
  | (.ok l, s) =>
    if l.any fun x => (poisonOf s x.1 x.2).isSome then (.error 3, s)
    else
      let s := l.foldl (fun s x => touch none x.1 x.2 false s) s
      (.ok (ofBytes (l.flatMap fun x => s.pbytes x.1 x.2)), s)

/-- A read of a context's space by the device; none on a fault, or on poison. -/
def State.devRead (s : State) (ctx va n : Nat) : Option Nat × State := ((s.devLook ctx va n).1.toOption, (s.devLook ctx va n).2)

/-- A write of a context's space by the device; whether it was made. -/
def State.devWrite (s : State) (ctx va n v : Nat) : Bool × State :=
  match devParts ctx .write (pageParts va n) s with
  | (.error _, s) => (false, s)
  | (.ok l, s) =>
    let r := l.foldl
      (fun (a : List Byte × State) x => (a.1.drop x.2, a.2.pwrite none x.1 (a.1.take x.2) (some false)))
      (toBytes n v, if l.any fun x => nodeOf x.1 = 0 then dirtyLog s ctx va n else s)
    (true, r.2)

/-! ## Queue descriptors (14 R312, R313) -/

/-- The address of a queue descriptor. -/
def queueAddr (v : Vi) (q : Nat) : Nat := v.queueTable + 64 * (q % 64)

/-- Stops a queue with an error (14 R312, R314). -/
def State.stopQueue (s : State) (a err : Nat) : State := (s.dput (a + 9) 1 2).dput (a + 32) 1 err

/-- Whether a queue descriptor is malformed (14 R312). -/
def State.queueBad (s : State) (vi a : Nat) : Bool :=
  let g := fun (o n : Nat) => s.pnat (a + o) n
  let base := g 0 8
  g 14 2 != 0 || g 33 31 != 0 || decide (g 8 1 < 6 ∨ 16 < g 8 1) || decide (base % 64 ≠ 0) || !(canonical base) ||
    decide (g 16 8 % 8 ≠ 0) ||
    (match Tab.get s.ctxs (g 10 2) with
      | some x => x.vi != vi
      | none => true)

/-- NOTIFY_WRITE (14 R313): ignored unless the queue runs. -/
def execNotifyWrite (vi : Nat) (q : Nat) (val : BitVec 32) (s : State) : Res :=
  .next (match s.viOf vi with
    | none => s
    | some v =>
      let a := queueAddr v q
      if s.pnat (a + 9) 1 = 1 then s.dput (a + 24) 4 val.toNat else s)

/-- Whether a context is frozen, or resuming: the walker and the packet processor do nothing for it (17 R402, R404). -/
def State.isFrozen (s : State) (ctx : Nat) : Bool :=
  ((Tab.get s.ctxs ctx).map fun x => x.state == 2 || x.state == 3).getD false

/-- The context of a queue (14 R312, R333). -/
def State.queueCtx (s : State) (vi q : Nat) : Option Nat :=
  if q < 64 then (s.viOf vi).map fun v => s.pnat (queueAddr v q + 10) 2 else some (q - 64)

/-- The processor's state of a queue. -/
def State.pq (s : State) (vi q : Nat) : PQueue :=
  (s.pqueues.find? fun p => p.vi == vi && p.q == q).getD (PQueue.mk vi q [] none [] 0)

/-- Replaces the processor's state of a queue. -/
def State.setPq (s : State) (p : PQueue) : State :=
  { s with pqueues := (s.pqueues.filter fun o => !(o.vi == p.vi && o.q == p.q)) ++ [p] }

/-- The number of a context's device queue (14 R333). -/
def deviceQueue (ctx : Nat) : Nat := 64 + ctx

/-- The next packet of a running user queue, read from its ring (14 R312, R314). -/
def State.readPacket (s : State) (vi q : Nat) : State :=
  match s.viOf vi with
  | none => s
  | some v =>
    let a := queueAddr v q
    let p := s.pq vi q
    if s.pnat (a + 9) 1 ≠ 1 ∨ p.current.isSome then s
    else if s.queueBad vi a then s.stopQueue a 3
    else
      let rd := s.pnat (a + 28) 4
      let size := 2 ^ s.pnat (a + 8) 1
      let left := (s.pnat (a + 24) 4 + 2 ^ 32 - rd) % 2 ^ 32
      if left = 0 then s
      else if size < left then s.stopQueue a 1
      else
        match s.devRead (s.pnat (a + 10) 2) (s.pnat a 8 + 64 * (rd % size)) 64 with
        | (none, s) => s.stopQueue a 2
        | (some w, s) => s.setPq { p with current := some (Packet.mk p.next (BitVec.ofNat 512 w) none), next := p.next + 1 }

/-- The next packet of a device queue (14 R333). -/
def State.nextPacket (s : State) (vi q : Nat) : State :=
  let p := s.pq vi q
  match p.queue, p.current with
  | k :: ks, none => s.setPq { p with current := some k, queue := ks }
  | _, _ => s

/-- PACKET_PROCESS (14 R314, R333): the packet processor takes the next packet of a queue, one at a time; none of a frozen
context (17 R402). -/
def execPacketProcess (vi : Nat) (q : Nat) (s : State) : Res :=
  .next (if ((s.queueCtx vi q).map s.isFrozen).getD false then s else if q < 64 then s.readPacket vi q else s.nextPacket vi q)

/-! ## Parameter blocks and gang descriptors (14 R319 to R321) -/

/-- A parameter block as read; a rule is its kind, its level or mask, and its producer's address. -/
structure Block where
  prio : Nat
  restartable : Bool
  cheaper : Bool
  variants : List Variant
  rules : List (Nat × Nat × Nat)
  preloads : List Preload
  tiles : List Nat
  /-- A gang is larger than a logical cluster (R316). -/
  nofit : Bool
  deriving DecidableEq, Repr

/-- Whether no number stands twice in a list. -/
def noDup (l : List (Nat × Nat)) : Bool :=
  match l with
  | [] => true
  | x :: xs => !xs.contains x && noDup xs

/-- Reads a gang descriptor (14 R320): status 4 for a fault, 5 for a malformed one; its reserved bytes are ignored (00 R9). -/
def State.gangAt (s : State) (ctx a cls : Nat) : Except Nat Variant × State :=
  match s.devRead ctx a 8 with
  | (none, s) => (.error 4, s)
  | (some h, s) =>
    let m := h % 256
    let n := bits h 15 8
    if m = 0 ∨ 16 < m ∨ 64 < n then (.error 5, s)
    else
      match s.devRead ctx (a + 8) (16 * m + 8 * n) with
      | (none, s) => (.error 4, s)
      | (some v, s) =>
        let mem := (digits 128 m v)
        let pip := (digits 64 n (v / 2 ^ (128 * m)))
        let members := mem.map fun e => (Member.mk (BitVec.ofNat 64 e) (bits e 79 64) (bits e 95 80))
        let pipes := pip.map fun e => (GPipe.mk (bits e 7 0) (bits e 15 8) (bits e 23 16) (bits e 31 24) (bits e 39 32))
        let ok := (mem.all fun e => bits e 63 0 % 64 == 0 && decide (bits e 79 64 ≤ loafCount) &&
            decide (1 ≤ bits e 95 80 ∧ bits e 95 80 ≤ 4096)) &&
          (pipes.all fun p => decide (p.writer < m ∧ p.reader < m ∧ p.writer ≠ p.reader) &&
            decide (1 ≤ p.depth ∧ p.depth ≤ 16) && decide (p.wEnd < 8 ∧ p.rEnd < 8)) &&
          noDup (pipes.flatMap fun p => [(p.writer, p.wEnd), (p.reader, p.rEnd)])
        (if ok then .ok (Variant.mk cls members pipes) else .error 5, s)

/-- Reads the gang descriptors of variants given by address and class: the lowest failing status, or the variants. -/
def readGangs (ctx : Nat) : List (Nat × Nat) → State → Except Nat (List Variant) × State
  | [], s => (.ok [], s)
  | v :: vs, s =>
    let a := s.gangAt ctx v.1 v.2
    let b := readGangs ctx vs a.2
    (match a.1, b.1 with
      | .ok g, .ok gs => .ok (g :: gs)
      | .error e, .ok _ => .error e
      | .ok _, .error e => .error e
      | .error e, .error f => .error (min e f), b.2)

/-- Whether classes never rise (14 R320). -/
def nonRising : List Nat → Bool
  | a :: b :: l => decide (b ≤ a) && nonRising (b :: l)
  | _ => true

/-- The tile counts of the levels of a block (14 R319); a zero tile counts as malformed elsewhere. -/
def tilesOf (b depth : Nat) : List Nat :=
  (List.range depth).map fun k =>
    let bound := bits b (64 * k + 95) (64 * k + 64)
    let tile := bits b (64 * k + 127) (64 * k + 96)
    (bound + tile - 1) / tile

/-- Whether a level of a block is well formed (14 R319). -/
def levelOk (b k : Nat) : Bool :=
  let bound := bits b (64 * k + 95) (64 * k + 64)
  let tile := bits b (64 * k + 127) (64 * k + 96)
  decide (1 ≤ tile ∧ tile ≤ bound)

/-- The levels of a block are well formed. -/
def levelsOk (b depth : Nat) : Bool := (List.range depth).all fun k => levelOk b k

/-- Whether the header, rules, preloads and variants of a block are well formed, gangs apart (14 R319 to R321); reserved
bytes and bits are ignored (00 R9). Bits that a table calls zero without calling them reserved (flags 7:2, the address of a
chain rule) must be zero: the model's choice (log 120). -/
def blockOk (b : Nat) : Bool :=
  let at_ := fun (o n : Nat) => b / 2 ^ (8 * o) % 2 ^ (8 * n)
  let depth := at_ 0 1
  let nvar := at_ 4 1
  let nrule := at_ 5 1
  let npre := at_ 6 1
  let var := fun i => at_ (56 + 16 * i) 16
  let rule := fun i => at_ (104 + 16 * i) 16
  let pre := fun i => at_ (168 + 16 * i) 16
  decide (at_ 1 1 ≤ 7 ∧ at_ 2 1 ≤ 3 ∧ at_ 3 1 < 4) && decide (1 ≤ nvar ∧ nvar ≤ 3 ∧ nrule ≤ 4 ∧ npre ≤ 8) &&
    levelsOk b depth &&
    ((List.range nvar).all fun i => bits (var i) 63 0 % 64 == 0 && (i == 0 || decide (bits (var i) 71 64 ≤ 7))) &&
    nonRising (at_ 1 1 :: (List.range (nvar - 1)).map fun i => bits (var (i + 1)) 71 64) &&
    ((List.range nrule).all fun i =>
      let k := rule i % 256
      let l := bits (rule i) 15 8
      (k == 1 && decide (l < depth) && bits (rule i) 127 64 == 0) || (k == 2 && decide (l % 64 < 2 ^ depth))) &&
    ((List.range npre).all fun i =>
      let l := bits (pre i) 127 120
      bits (pre i) 95 64 % 64 == 0 && decide (l ≤ 5 ∨ l = 7))

/-- The widths of a launch header (14 R315). -/
def widthsOf (v depth : Nat) : List Nat := digits 6 depth v

/-- Whether a launch header's widths are well formed for a depth (14 R315, R316; 01 R21). -/
def widthsOk (v depth : Nat) : Bool :=
  let ws := widthsOf v depth
  (ws.all fun w => decide (1 ≤ w ∧ w ≤ 32)) && decide (ws.foldl (· + ·) 0 ≤ 64) && decide (v / 2 ^ (6 * depth) = 0)

/-- Whether they are for some depth: what can be said of them before the block is read. -/
def widthsCould (v : Nat) : Bool := (List.range 6).any fun k => widthsOk v (k + 1)

/-- Whether every tile count fits its width, and the task its bitmap (14 R316; 01 R21). -/
def tilesFit (tiles widths : List Nat) : Bool :=
  ((tiles.zip widths).all fun x => decide (x.1 ≤ 2 ^ x.2)) && decide (tiles.foldl (· * ·) 1 ≤ 2 ^ 24)

/-- Whether a block has too many tiles for its widths (14 R316, status 2): at a well-formed level, whatever the others are,
or in all. -/
def tooMany (b depth : Nat) (tiles widths : List Nat) : Bool :=
  ((List.range depth).any fun k => levelOk b k && decide (2 ^ widths.getD k 0 < tiles.getD k 0)) ||
    (levelsOk b depth && !(tilesFit tiles widths))

/-- The bits that n tiles need. -/
def widthFor (n : Nat) : Nat := max 1 (if n ≤ 1 then 1 else Nat.log2 (n - 1) + 1)

/-- Widths for the tasks of a graph, for which no launch header gives any: each at least what its level needs, the rest a
free choice (log 2). -/
def freeWidths : List Nat → Nat → State → List Nat × State
  | [], _, s => ([], s)
  | t :: ts, room, s =>
    let need := widthFor t
    let later := (ts.map widthFor).foldl (· + ·) 0
    let c := s.choose (min (32 - need) (room - need - later) + 1)
    let r := freeWidths ts (room - need - c.1) c.2
    ((need + c.1) :: r.1, r.2)

/-- Reads and checks a parameter block (14 R316, R319 to R321): the first failing status, or the block with the widths
of its task; the producers of its rules and its gangs' sizes (5, 6) are looked at after it. Widths are the packet's, or
none for a node of a graph. -/
def State.blockAt (s : State) (ctx : Nat) (x : Ctx) (widths : Option Nat) (a : Nat) :
    Except Nat (Block × List Nat) × State :=
  if (widths.map fun v => widthsCould v && a % 64 == 0) = some false then (.error 1, s)
  else if a % 64 ≠ 0 then (.error 5, s)
  else
    match s.devRead ctx a 320 with
    | (none, s) => (.error 4, s)
    | (some b, s) =>
      let depth := b % 256
      let prio := bits b 23 16
      let flags := bits b 31 24
      let deep := decide (1 ≤ depth ∧ depth ≤ 6)
      let tiles := tilesOf b (min depth 6)
      if deep && !((widths.map fun v => widthsOk v depth).getD true) then (.error 1, s)
      else if deep && tooMany b depth tiles ((widths.map fun v => widthsOf v depth).getD (tiles.map widthFor)) then (.error 2, s)
      else if prio < x.prioCap then (.error 3, s)
      else
        let nvar := bits b 39 32
        let vars := (List.range (min nvar 3)).map fun i =>
          let e := b / 2 ^ (8 * (56 + 16 * i))
          (bits e 63 0, if i = 0 then bits b 15 8 else bits e 71 64)
        match readGangs ctx vars s with
        | (.error e, s) => (.error e, s)
        | (.ok gs, s) =>
          let pres := (List.range (min (bits b 55 48) 8)).map fun i =>
            let e := b / 2 ^ (8 * (168 + 16 * i))
            (Preload.mk (bits e 63 0) (bits e 95 64) (bits e 105 96) (bits e 119 112) (bits e 127 120))
          let fits := pres.all fun p => gs.all fun g =>
            match g.members with
            | m :: _ => decide (p.first + p.count ≤ m.loaves)
            | [] => false
          if !deep || !(blockOk b) || !fits then (.error 5, s)
          else
            let w := match widths with
              | some v => (widthsOf v depth, s)
              | none => freeWidths tiles 64 s
            let rules := (List.range (bits b 47 40)).map fun i =>
              let e := b / 2 ^ (8 * (104 + 16 * i))
              (e % 256, if e % 256 = 2 then bits e 13 8 else bits e 15 8, bits e 127 64)
            let nofit := gs.any fun g => decide (x.lclCores < g.members.length)
            (.ok (Block.mk prio (flags % 2 == 1) (flags / 2 % 2 == 1) gs rules pres tiles nofit, w.1), w.2)

/-! ## Admission (14 R315 to R317, R320) -/

/-- The task that a tile-wise rule's address names for a consumer in a context (14 R320): the one admitted last, still
active or retired within the consumer's graph instance. -/
def State.producerOf (s : State) (ctx : Nat) (graph : Option Nat) (a : Nat) : Option Task :=
  (s.tasks.filter fun t => t.ctx == ctx && t.pblock.toNat == a && (!t.retired || (graph.isSome && t.graph == graph))).getLast?

/-- The rules of a block, with their producers bound now; none when a producer's depth is not above a masked level. -/
def State.bindRules (s : State) (ctx : Nat) (graph : Option Nat) : List (Nat × Nat × Nat) → Option (List Rule)
  | [] => some []
  | r :: rs =>
    match s.bindRules ctx graph rs with
    | none => none
    | some l =>
      if r.1 = 1 then some (.chain r.2.1 :: l)
      else
        match s.producerOf ctx graph r.2.2 with
        | none => some (.tile (BitVec.ofNat 6 r.2.1) none :: l)
        | some t =>
          if r.2.1 < 2 ^ t.tiles.length then some (.tile (BitVec.ofNat 6 r.2.1) (some t.id) :: l) else none

/-- The launch header's common fields: fences, completion word and its value. -/
structure Launch where
  fences : BitVec 4
  doneAddr : Nat
  doneValue : Word
  queue : Option Nat
  packet : Nat
  post : Option (BarRef × Word × Nat)
  deriving DecidableEq, Repr

/-- The tile indices of the n-th step of a task, level 0 first (01 R20, R21). -/
def indicesOf : List Nat → Nat → List Nat
  | [], _ => []
  | t :: ts, n => n % t :: indicesOf ts (n / t)

/-- A work identifier (01 R21). -/
def widOf : List Nat → List Nat → Nat
  | w :: ws, i :: is => i % 2 ^ w + 2 ^ w * widOf ws is
  | _, _ => 0

/-- The walker area of a context: its address and size (17 R400). -/
def State.walkerOf (s : State) (x : Ctx) : Nat × Nat := (s.pnat (x.header + 16) 8, s.pnat (x.header + 24) 8)

/-- The entry places of a walker area of a size, the bitmaps standing behind them (17 R401; log 26). -/
def walkerPlaces (size : Nat) : Nat := min 4096 (size / 256)

/-- The bytes of a completion bitmap. -/
def bitmapBytes (steps : Nat) : Nat := (steps + 63) / 64 * 8

/-- The first offset from a start on at which n bytes lie clear of taken ranges and below an end. -/
def firstFit (n stop : Nat) : List (Nat × Nat) → Nat → Option Nat
  | [], a => if a + n ≤ stop then some a else none
  | r :: rs, a => if a + n ≤ r.1 then some a else firstFit n stop rs (max a (r.1 + r.2))

/-- A free entry place and a free bitmap range of a context's walker area for a task of some steps (17 R401): a retired task
of a graph instance has no entry any more, but keeps its bitmap (14 R324). -/
def State.walkerPlace (s : State) (ctx : Nat) (x : Ctx) (steps : Nat) : Option (Nat × Nat) :=
  let size := (s.walkerOf x).2
  let mine := s.tasks.filter fun t => t.ctx == ctx
  let taken := sortBy (·.1) (mine.map fun t => (t.bitmap, bitmapBytes t.steps))
  match (List.range (walkerPlaces size)).find? (fun i => !(mine.any fun t => !t.retired && t.slot == i)),
    firstFit (bitmapBytes steps) size taken (128 * walkerPlaces size) with
  | some i, some o => some (i, o)
  | _, _ => none

/-- The lowest WID of a task's generation window (17 R401): of its generated, unreleased steps, else of the next one. -/
def State.lowWid (s : State) (t : Task) : Nat :=
  let ws := (s.steps.filter fun u => u.task == t.id && u.state = .blocked).map (·.wid)
  match ws with
  | [] => widOf t.widths (indicesOf t.tiles t.nextGen)
  | w :: ws => ws.foldl min w

/-- Writes a task's entry into the walker area (17 R401). -/
def State.putEntry (s : State) (x : Ctx) (t : Task) : State :=
  s.stream ((s.walkerOf x).1 + 128 * t.slot)
    [(0, 8, t.pblock.toNat), (8, 8, t.age % 2 ^ 64), (16, 8, t.doneAddr), (24, 8, t.doneValue.toNat), (32, 1, t.fences.toNat),
      (33, 1, b2n (!t.retired)), (34, 2, t.queue.getD 0xFFFF), (36, 4, t.steps), (40, 8, t.bitmap), (48, 8, s.lowWid t)]

/-- A task as it is admitted (14 R316), its place in the walker area apart. -/
def State.newTask (s : State) (ctx : Nat) (l : Launch) (a : Nat) (graph : Option Nat) (b : Block) (widths : List Nat)
    (rules : List Rule) : Task :=
  { id := s.nextTask, ctx := ctx, pblock := BitVec.ofNat 64 a, age := 2 ^ 64 + s.tick, doneAddr := l.doneAddr,
    doneValue := l.doneValue, fences := l.fences, queue := l.queue, post := l.post, packet := l.packet,
    graph := graph, prio := b.prio, restartable := b.restartable, cheaper := b.cheaper, variants := b.variants,
    rules := rules, preloads := b.preloads, widths := widths, tiles := b.tiles, steps := b.tiles.foldl (· * ·) 1,
    nextGen := 0, done := [], retired := false, joule := 0, slot := 0, bitmap := 0 }

/-- The walker's table with one more task. -/
def State.enterTask (s : State) (t : Task) : State := { s with nextTask := s.nextTask + 1, tasks := s.tasks ++ [t] }

/-- Adds a task to the walker's table (14 R316) and to the walker area (17 R401), if it has a place there. -/
def State.addTask (s : State) (x : Ctx) (t : Task) : Option State :=
  (s.walkerPlace t.ctx x t.steps).map fun place =>
    let t := { t with slot := place.1, bitmap := place.2 }
    ((s.enterTask t).putEntry x t).stream ((s.walkerOf x).1 + t.bitmap) [(0, bitmapBytes t.steps, 0)]

/-- The capacity of the walker's task table (14 R311). -/
def taskTable : Nat := 4096

/-- Whether n more tasks fit the walker's table. -/
def State.taskRoom (s : State) (n : Nat) : Bool :=
  decide ((s.tasks.filter fun t => !t.retired).length + n ≤ taskTable)

/-- A node's parameter block with its address and the widths of its task. -/
abbrev NodeBlock := Nat × Block × List Nat

/-- Reads the blocks of a graph's nodes: all of them, or the lowest status that one fails with (14 R316). -/
def readNodes (ctx : Nat) (x : Ctx) : List Nat → State → Except Nat (List NodeBlock) × State
  | [], s => (.ok [], s)
  | a :: as, s =>
    let b := s.blockAt ctx x none a
    let l := readNodes ctx x as b.2
    (match b.1, l.1 with
      | .ok b, .ok l => .ok ((a, b) :: l)
      | .error e, .ok _ => .error e
      | .ok _, .error e => .error e
      | .error e, .error f => .error (min e f), l.2)

/-- The tasks of a graph's nodes (14 R315, R320), each with its rules bound where it stands: tasks of earlier nodes are
there by then, and every edge is a tile-wise rule with mask 0 on the task of its producer. -/
def nodeTasks (ctx gi base : Nat) (l : Launch) (edges : List (Nat × Nat)) : List (NodeBlock × Nat) → State → Option (List Task)
  | [], _ => some []
  | n :: ns, s =>
    match s.bindRules ctx (some gi) n.1.2.1.rules with
    | none => none
    | some own =>
      let into := (edges.filter fun e => e.2 == n.2).map fun e => Rule.tile 0 (some (base + e.1))
      let t := s.newTask ctx l n.1.1 (some gi) n.1.2.1 n.1.2.2 (own ++ into)
      (nodeTasks ctx gi base l edges ns (s.enterTask t)).map fun ts => t :: ts

/-- What became of an admission. -/
inductive Admit where
  | done
  | refused (status : Nat)
  | held
  deriving DecidableEq, Repr

/-- Admits the task of a kind 1 packet (14 R316). -/
def State.admitOne (s : State) (ctx : Nat) (x : Ctx) (l : Launch) (widths a : Nat) : Admit × State :=
  match s.blockAt ctx x (some widths) a with
  | (.error e, s) => (.refused e, s)
  | (.ok b, s) =>
    match s.bindRules ctx none b.1.rules with
    | none => (.refused 5, s)
    | some rules =>
      if b.1.nofit then (.refused 6, s)
      else
        match if s.taskRoom 1 then s.addTask x (s.newTask ctx l a none b.1 b.2 rules) else none with
        | some s => (.done, s)
        | none => (.held, s)

/-- Admits one task for each node of a graph instance (14 R315); an instance whose tasks had all retired is at work again
(01 R18). -/
def State.admitGraph (s : State) (ctx : Nat) (x : Ctx) (l : Launch) (gi : Nat) : Admit × State :=
  match s.graphs.find? fun g => g.ctx == ctx && g.index == gi with
  | none => (.refused 7, s)
  | some g =>
    match readNodes ctx x g.nodes s with
    | (.error e, s) => (.refused e, s)
    | (.ok ns, s) =>
      match nodeTasks ctx gi s.nextTask l g.edges (ns.zip (List.range ns.length)) s with
      | none => (.refused 5, s)
      | some ts =>
        if ns.any fun n => n.2.1.nofit then (.refused 6, s)
        else
          match if s.taskRoom ts.length then ts.foldl (fun (o : Option State) t => o.bind fun s => s.addTask x t) (some s) else none with
          | some s => (.done, { s with graphs := s.graphs.map fun g =>
              if g.ctx = ctx ∧ g.index = gi then { g with retired := false } else g })
          | none => (.held, s)

/-- Whether a packet is malformed by its own fields (14 R315). -/
def packetBad (p : Nat) : Bool :=
  let at_ := fun (o n : Nat) => p / 2 ^ (8 * o) % 2 ^ (8 * n)
  let kind := at_ 0 1
  decide (kind = 0 ∨ 3 < kind) || decide (16 ≤ at_ 1 1) || at_ 2 6 != 0 || at_ 40 24 != 0 || at_ 24 8 % 8 != 0 ||
    (kind == 1 && at_ 8 8 / 2 ^ 36 != 0) || (kind == 3 && at_ 16 8 != 0)

/-- The launch fields of a packet. -/
def launchOf (p : Nat) (queue : Option Nat) (num : Nat) (post : Option (BarRef × Word × Nat)) : Launch :=
  (Launch.mk (BitVec.ofNat 4 (bits p 15 8)) (bits p 255 192) (BitVec.ofNat 64 (bits p 319 256)) queue num post)

/-- Admits the work of a packet (14 R315, R316). -/
def State.admitLaunch (s : State) (ctx : Nat) (p : Nat) (l : Launch) : Admit × State :=
  match Tab.get s.ctxs ctx with
  | none => (.refused 4, s)
  | some x =>
    match p % 256 with
    | 1 => s.admitOne ctx x l (bits p 127 64) (bits p 191 128)
    | 2 => s.admitGraph ctx x l (bits p 191 128)
    | _ => (.refused 1, s)

/-- Writes a completion or status word (14 R316, R318): one that faults is reported to the steward. -/
def State.putDone (s : State) (ctx a : Nat) (v : Nat) : State :=
  if a = 0 then s
  else
    match s.devWrite ctx a 8 v with
    | (true, s) => s
    | (false, s) =>
      match Tab.get s.ctxs ctx with
      | some x => s.event x.vi (eventRec cWRFAIL 3 0 0 s.tick 0 a [] noPos)
      | none => s

/-- The word of a refusal (14 R316). -/
def refusalWord (status : Nat) : Nat := 2 ^ 64 - 256 + status

/-- A packet of a queue completes: it no longer counts as open. -/
def State.closePacket (s : State) (vi q num : Nat) : State :=
  let p := s.pq vi q
  s.setPq { p with open_ := p.open_.filter fun o => o.num != num }

/-- The processor is done with the packet at hand of a queue (14 R314): it moves on, and a user queue's rd_index and its
copy at rd_wb with it. -/
def State.passPacket (s : State) (vi q : Nat) : State :=
  let s := s.setPq { s.pq vi q with current := none }
  match if q < 64 then s.viOf vi else none with
  | none => s
  | some v =>
    let a := queueAddr v q
    let new := (s.pnat (a + 28) 4 + 1) % 2 ^ 32
    let s := s.dput (a + 28) 4 new
    let wb := s.pnat (a + 16) 8
    if wb = 0 then s else (s.devWrite (s.pnat (a + 10) 2) wb 8 new).2

/-- Signals the vector of a queue when its packet asks for it (14 R317); a device queue has none (log 56). -/
def State.queueIrq (s : State) (vi q : Nat) (fences : BitVec 4) : State :=
  if fences.getLsbD 3 && decide (q < 64) then
    match s.viOf vi with
    | some v => { s with msi := s.msi ++ [(vi, s.pnat (queueAddr v q + 12) 2)] }
    | none => s
  else s

/-- The arrival of a SPAWN (14 R333), if it has a barrier: none while that one is moving; one that its target does not
take is reported. -/
def State.arriveFor (s : State) (ctx : Nat) (post : Option (BarRef × Word × Nat)) : Option State :=
  match post with
  | none => some s
  | some p =>
    match s.barUpdate ctx p.1.lcore p.1.idx .arrive with
    | (.landed, s) => some s
    | (.refused, _) => none
    | (_, s) => some (s.copyFault ctx p.2.2 1 0 p.2.1 0 [] noPos)

/-- A packet is refused (14 R316): its status word, its arrival, and the processor moves on; unchanged while its barrier is
moving. -/
def State.refusePacket (s : State) (vi q ctx : Nat) (l : Launch) (status : Nat) : State :=
  match (s.putDone ctx l.doneAddr (refusalWord status)).arriveFor ctx l.post with
  | none => s
  | some t => (t.passPacket vi q).queueIrq vi q l.fences

/-- A packet of a queue is admitted: it counts as open until it completes, and the processor moves on. -/
def State.openPacket (s : State) (vi q : Nat) (p : Packet) : State :=
  let pq := s.pq vi q
  (s.setPq { pq with open_ := pq.open_ ++ [p] }).passPacket vi q

/-- PACKET_ADMIT (14 R315 to R317, R333): the packet at hand is refused, waits, or its work is admitted; a marker is
admitted as work that MARKER_COMPLETE ends. -/
def State.packetAdmit (s : State) (vi q : Nat) : State :=
  match s.queueCtx vi q, (s.pq vi q).current with
  | some ctx, some p =>
    let w := p.bytes.toNat
    let l := launchOf w (if q < 64 then some q else none) p.num p.post
    if packetBad w then s.refusePacket vi q ctx l 1
    else if l.fences.getLsbD 2 && !(s.pq vi q).open_.isEmpty then s
    else if w % 256 = 3 then s.openPacket vi q p
    else
      match s.admitLaunch ctx w l with
      | (.done, s) => s.openPacket vi q p
      | (.refused st, s) => s.refusePacket vi q ctx l st
      | (.held, _) => s
  | _, _ => s

/-- PACKET_ADMIT (14 R316). -/
def execPacketAdmit (vi : Nat) (q : Nat) (s : State) : Res :=
  .next (if ((s.queueCtx vi q).map s.isFrozen).getD false then s else s.packetAdmit vi q)

/-- MARKER_COMPLETE (14 R315): the oldest open packet of the queue, if it is a marker. -/
def State.markerComplete (s : State) (vi q : Nat) : State :=
  match s.queueCtx vi q, (s.pq vi q).open_ with
  | some ctx, p :: _ =>
    let w := p.bytes.toNat
    if w % 256 = 3 then
      let l := launchOf w none p.num p.post
      match (s.putDone ctx l.doneAddr l.doneValue.toNat).arriveFor ctx p.post with
      | none => s
      | some t => (t.closePacket vi q p.num).queueIrq vi q l.fences
    else s
  | _, _ => s

/-- MARKER_COMPLETE (14 R315). -/
def execMarkerComplete (vi : Nat) (q : Nat) (s : State) : Res := .next (s.markerComplete vi q)

/-! ## Generation (14 R320, R322) -/

/-- The predecessors of a step through a rule whose bits are not set (14 R320, R322). -/
def State.unmet (s : State) (t : Task) (idx : List Nat) (r : Rule) : Nat :=
  match r with
  | .chain k =>
    let i := idx.getD k 0
    if i = 0 ∨ NSet.has t.done (numberOf t.tiles (idx.set k (i - 1))) = true then 0 else 1
  | .tile _ none => 0
  | .tile mask (some p) =>
    match s.taskOf p with
    | none => 0
    | some u =>
      let inside := (List.range u.tiles.length).all fun k => !(mask.getLsbD k) || decide (idx.getD k 0 < u.tiles.getD k 0)
      if inside then
        ((List.range u.tiles.length).map fun k => if mask.getLsbD k then 1 else u.tiles.getD k 0).foldl (· * ·) 1 -
          (u.done.filter fun n => agree mask (indicesOf u.tiles n) idx).length
      else 0

/-- The dependence counter of a step (14 R322). -/
def State.counterOf (s : State) (t : Task) (idx : List Nat) : Nat :=
  (t.rules.map (s.unmet t idx)).foldl (· + ·) 0

/-- The window of generated, unreleased steps (14 R322). -/
def windowSize : Nat := 256

/-- The next step of a task from a number on that has not retired (14 R324), at most n of them passed over. -/
def Task.nextUndone (t : Task) : Nat → Nat → Nat
  | 0, k => k
  | n + 1, k => if NSet.has t.done k then t.nextUndone n (k + 1) else k

/-- WALKER_GENERATE (14 R322): the next step of a task, while its window has room; one that has retired is not generated
again after a resume (R324), and nothing is generated for a frozen context (17 R402). -/
def State.generate (s : State) (id : Nat) : State :=
  match (s.taskOf id).map fun t => { t with nextGen := t.nextUndone t.done.length t.nextGen } with
  | none => s
  | some t =>
    if t.steps ≤ t.nextGen ∨ s.isFrozen t.ctx = true ∨ windowSize ≤ (s.steps.filter fun u => u.task == id && u.state = .blocked).length then s
    else
      let idx := indicesOf t.tiles t.nextGen
      let n := s.counterOf t idx
      let step : Step :=
        { task := id, wid := widOf t.widths idx, idx := idx, state := if n = 0 then .ready else .blocked, counter := n,
          lcores := [], cores := [], variant := 0, held := 0, restarts := 0, joule := 0, sectors := 0, sectorsAt := 0, notBefore := (0, 0),
          migrate := none, rotate := false, ended := [], ids := [], parkedAt := 0, residentAt := 0, was := [] }
      ({ s with steps := s.steps ++ [step] }).onTask id fun u => { u with nextGen := t.nextGen + 1 }

/-- WALKER_GENERATE (14 R322). -/
def execWalkerGenerate (task : Nat) (s : State) : Res := .next (s.generate task)

/-! ## Completion (14 R317, R318) -/

/-- The effects of a task that are not acknowledged: entries, writes, messages and engine commands (14 R317; 11 R252). -/
def Core.holdsTask (c : Core) (id : Nat) : Bool :=
  (c.drain.any fun e => e.owner.task == id) || (c.port.acks.any fun a => a.task == id) ||
    (c.port.window.any fun m => m.task == id && m.st != .accepted) || (c.eng.bte.any fun k => k.owner.task == id) ||
    (c.mx.queue.any fun m => m.owner.task == id) || c.mx.pushing.any fun m => m.1.owner.task == id

/-- Whether every step of a task has retired. -/
def Task.finished (t : Task) : Bool := decide (t.steps ≤ t.done.length)

/-- The tasks that one packet admitted: one, or those of a graph instance. -/
def State.siblings (s : State) (t : Task) : List Task :=
  if t.graph = none then [t]
  else s.tasks.filter fun u =>
    u.ctx == t.ctx && u.queue == t.queue && u.packet == t.packet && u.graph == t.graph && !u.retired

/-- Tasks of a context retire (14 R317, R324): their walker entries are free; those of a graph instance stay known. -/
def State.retireTasks (s : State) (ctx : Nat) (ts : List Task) : State :=
  let ids := ts.map (·.id)
  let s := match Tab.get s.ctxs ctx with
    | some x => ts.foldl (fun (s : State) (u : Task) => s.stream ((s.walkerOf x).1 + 128 * u.slot) [(33, 1, 0)]) s
    | none => s
  { s with tasks := (s.tasks.filter fun (u : Task) => !(ids.contains u.id && u.graph == none)).map fun (u : Task) =>
    if ids.contains u.id then { u with retired := true } else u }

/-- A graph instance retires with its last task (01 R18). -/
def State.graphDone (s : State) (ctx : Nat) (graph : Option Nat) : State :=
  if s.tasks.any fun t => t.ctx == ctx && t.graph == graph && !t.retired then s
  else { s with graphs := s.graphs.map fun g => if g.ctx = ctx ∧ some g.index = graph then { g with retired := true } else g }

/-- COMPLETION_WORD_WRITE (14 R317, R318): once every task of the packet has finished, and with rel every write of theirs
is acknowledged, the word is written, the interrupt signalled, the barrier of a SPAWN posted, and the tasks retire. -/
def State.completeTask (s : State) (id : Nat) : State :=
  match s.taskOf id with
  | none => s
  | some t =>
    let ts := s.siblings t
    let ids := ts.map (·.id)
    let held := (s.allCores.any fun c => ids.any c.holdsTask) || s.kept.any fun e => ids.contains e.2.owner.task
    if t.retired || !(ts.all Task.finished) || s.isFrozen t.ctx || (t.fences.getLsbD 1 && held) then s
    else
      match (s.putDone t.ctx t.doneAddr t.doneValue.toNat).arriveFor t.ctx t.post with
      | none => s
      | some s =>
        let s := match Tab.get s.ctxs t.ctx with
          | some x =>
            let q := t.queue.getD (deviceQueue t.ctx)
            (s.closePacket x.vi q t.packet).queueIrq x.vi q t.fences
          | none => s
        (s.retireTasks t.ctx ts).graphDone t.ctx t.graph

/-- COMPLETION_WORD_WRITE (14 R318). -/
def execCompletionWordWrite (task : Nat) (s : State) : Res := .next (s.completeTask task)

/-- SPAWN (14 R333): its packet is read and put into the device queue of its context; one that cannot be read is reported
and admits nothing, its barrier getting its arrival all the same. None while that barrier is moving. -/
def State.spawnPacket (s : State) (ctx l va : Nat) (bundle : Word) (post : Option BarRef) : Option State :=
  let post := post.map fun b => (b, bundle, l)
  match s.devLook ctx va 64 with
  | (.error d, s) => (s.copyFault ctx l d 0 bundle va [] noPos).arriveFor ctx post
  | (.ok w, s) =>
    some (match Tab.get s.ctxs ctx with
      | none => s
      | some x =>
        let p := s.pq x.vi (deviceQueue ctx)
        s.setPq { p with queue := p.queue ++ [Packet.mk p.next (BitVec.ofNat 512 w) post], next := p.next + 1 })

end Sys2Proof.Machine
end

