-- ==== Sys2Proof/Machine/Drain.lean ====
section
/-! DEFINITION. The commit-buffer drain: what each committed entry does, and what makes it wait (08 R172, R177; 11 R252
to R264; 14 R332, R333, R339; 16 R374; 17 R394, R396). -/

namespace Sys2Proof.Machine

/-! ## Reports -/

/-- A WRFAIL record for the logical core that committed a lost write (08 R177, 17 R396). -/
def State.wrfail (s : State) (e : Entry) (detail va : Nat) : State :=
  s.trapRec e.ctx e.lcore (eventRec cWRFAIL detail 0 0 s.tick e.bundle va [] noPos)

/-! ## Scratchpad entries (09 R213; 17 R394) -/

/-- The effect of a management entry on one loaf of an image (17 R394). -/
def State.imgManage (s : State) (image : Nat) (op : SpOp) (v : Word) (l : Nat) : State :=
  let a := loafEntry image l
  let st := s.imgLoaf image l
  match op with
  | .alloc => (s.stream (image + 4096 * l) [(0, 4096, 0)]).stream a [(0, 1, 1), (4, 4, v.toNat)]
  | .free => if st = 0 then s else (s.stream (image + 4096 * l) [(0, 4096, 0)]).stream a [(0, 1, 0)]
  | .renew => if st = 1 then s.stream a [(4, 4, v.toNat)] else s
  | .fill =>
    if st = 0 then s
    else (s.stream (image + 4096 * l) [(0, 4096, undigits 64 (List.replicate 512 v.toNat))]).stream a [(0, 1, 1)]

/-- A committed management entry (09 R213, 17 R394): none while its logical core is moving; one whose logical core is unused
is dropped and reported (15 R361; log 106). -/
def State.drainMgmt (s : State) (e : Entry) (op : SpOp) (f n : Nat) (v : Word) : Option State :=
  match s.place e.ctx e.lcore with
  | .moving => none
  | .unused => some (s.wrfail e 1 (4096 * f))
  | .resident p => some (s.setCore ((s.getCore p).manageRange s.tick e.tick op f n v))
  | .absent image => some (((List.range n).map (· + f)).foldl
      (fun s l => (dirtyImage (dirtyImage s e.ctx (image + 4096 * l) 4096) e.ctx (loafEntry image l) 16).imgManage image op v l) s)

/-- Committed scratchpad stores (17 R394): none while their logical core is moving. The bank words that the entry writes
whole are clean afterwards, lane by lane though it may write them (09 R215). Those whose logical core is unused are dropped
and reported (15 R361; log 106). -/
def State.drainSp (s : State) (e : Entry) (cs : List Chunk) : Option State :=
  if s.place e.ctx e.lcore = .moving then none
  else if s.place e.ctx e.lcore = .unused then some (s.wrfail e 1 ((cs.head?.map (·.va)).getD 0))
  else
    let s := cs.foldl (fun s c => (s.landSp e.ctx e.lcore c.va c.bytes false).2) s
    some ((wholeUnits 64 e.kind.spRanges).foldl (fun s w => s.coverSp e.ctx e.lcore (w / 64) [w % 64] false) s)

/-! ## Global memory (11 R251, R252, R258, R260) -/

/-- Notes a write of the current core that awaits its acknowledgement (11 R252). -/
def State.awaitAck (s : State) (e : Entry) (va pa : Nat) : State :=
  if nodeOf pa = 1 ∨ nodeOf pa = 2 then
    s.upd fun c => { c with port := { c.port with
      acks := c.port.acks ++ [(Ack.mk (nodeOf pa) pa va e.owner.task e.ctx e.lcore e.bundle false)] } }
  else s

/-- One committed write of bytes to global memory, with the full bit it leaves (11 R250, R256; 15 R355). -/
def State.drainWrite (s : State) (e : Entry) (va pa : Nat) (bs : List Byte) (full : Bool) : State :=
  if nodeOf pa = 3 then s.regStore e.level e.ctx pa bs.length (ofBytes bs)
  else if !(s.reaches pa) then s.wrfail e 4 va
  else
    let s := if nodeOf pa = 0 then dirtyLog s e.ctx va bs.length else s
    let s := s.pwrite (s.payerOf s.core.pcore e.ctx e.owner) pa bs (some full)
    (s.upd fun c => updateL1 c pa bs).awaitAck e va pa

/-- Whether a release part lets an entry go now (11 R252, R255). -/
def State.releaseReady (s : State) (e : Entry) (rel : Option Scope) : Bool :=
  match rel with
  | some sc => s.acked e.ctx e.lcore sc
  | none => true

/-- The harvest of a dirty-log word (15 R355, R356): the sectors of the 64 KiB blocks whose bits it gives up have their
dirty_track cleared, as the context's tables place them. -/
def State.harvest (s : State) (pa old : Nat) : State :=
  s.ctxs.foldl
    (fun s e =>
      let x := e.2
      if x.logBase = 0 ∨ pa < x.logBase ∨ 2 ^ x.logSize / 65536 ≤ 8 * (pa - x.logBase) then s
      else
        let first := (pa - x.logBase) * 8
        let pages := (((List.range 64).filter old.testBit).flatMap fun b => (List.range 16).map fun k =>
          x.logWin + 65536 * (first + b) + 4096 * k)
        let secs := pages.flatMap fun va =>
          match walk s x va with
          | .leaf l _ =>
            let sz := pageSize (bits l 11 8)
            sectorsOf (leafPa l + va % sz) 4096
          | _ => []
        s.updMem fun m => { m with dirtyTrack := m.dirtyTrack.filter fun k => !(secs.contains k) }) s

/-- The old value of an atomic lands, when the kernel that committed it still runs on the current core (08 R175; 11
R244, R261). -/
def State.landOld (s : State) (e : Entry) (ord : Ord) (sc : Scope) (dst : Option (Fin 56)) (beat : Nat) (v : Word) :
    State :=
  if s.core.self = (e.ctx, e.lcore) ∧ s.core.seat.isSome then
    let s := if ord = .acq ∧ empties sc = true then s.emptyL1 else s
    s.upd fun c => c.landAtomic dst beat v
  else s

/-- A committed atomic (11 R260, R261); none while its release or its IMAGE acquire waits. One that is lost leaves an
open value in its register. -/
def State.drainAtomic (s : State) (e : Entry) (op : AOp) (va pa n : Nat) (cmp operand : Word) (ord : Ord) (sc : Scope)
    (dst : Option (Fin 56)) (beat : Nat) : Option State :=
  if ord = .rel ∧ s.acked e.ctx e.lcore sc = false then none
  else if ord = .acq ∧ s.acquireReady s.core (some sc) = false then none
  else
    let lost := fun (s : State) (d : Nat) =>
      let r := (s.wrfail e d va).freeWord
      r.2.landOld e ord sc dst beat r.1
    if !(s.reaches pa) then some (lost s 4)
    else
      let who := s.payerOf s.core.pcore e.ctx e.owner
      if (poisonOf s pa n).isSome then some (lost (touch who pa n false s) 3)
      else
        let old := s.pnat pa n
        let s := if nodeOf pa = 0 then dirtyLog s e.ctx va n else s
        let s := s.pwrite who pa (toBytes n (op.apply n cmp.toNat operand.toNat old)) none
        let s := s.upd fun c => { c with port := { c.port with l1d := Tab.del c.port.l1d (pa / 64) } }
        let s := if op = .swap ∧ operand = 0 ∧ n = 8 then s.harvest pa old else s
        some ((s.awaitAck e va pa).landOld e ord sc dst beat (BitVec.ofNat 64 old))

/-! ## Fences (11 R263, R264) -/

/-- Whether every earlier operation of a logical core on an access path has completed (11 R264, 12 R265), on whichever
core it was when it gave it, and whether its commands wait in a buffer or in its image (12 R278, R286), with the messages that
its engines have under way, remote stores and posts (R265); the core path is in order here, and the host path is not a core's. -/
def State.pathDone (s : State) (e : Entry) (path : Nat) : Bool :=
  let own := ((s.allCores.flatMap fun c => c.eng.bte) ++ s.kept.map (·.2)).filter fun k => k.ctx == e.ctx && k.lcore == e.lcore
  let heldOnes := match s.place e.ctx e.lcore with
    | .absent image => decide (0 < s.pnat (mxBlock image + 6) 2)
    | _ => false
  let isRedc := fun (k : CCmd) => match k.kind with
    | .redc _ => true
    | _ => false
  let posted := !(s.allCores.any fun c => c.port.window.any fun m =>
    m.engine && m.st != .accepted && m.ctx == e.ctx && m.src == e.lcore)
  match path with
  | 1 => posted && !(own.any fun k => !(isRedc k))
  | 2 =>
    posted && !((s.allCores.flatMap fun c => c.mx.queue ++ c.mx.pushing.map (·.1)).any fun m => m.ctx == e.ctx && m.lcore == e.lcore) &&
      !(own.any CCmd.isCopym) && !heldOnes
  | 3 => posted && !(own.any isRedc)
  | _ => true

/-! ## Barriers and pipes (16 R371, R374; 14 R332) -/

/-- A committed barrier update (16 R374): on its own barrier store at once; to another logical core by message. -/
def State.drainBarrier (s : State) (e : Entry) (b : BarRef) (u : BarUpdate) : Option State :=
  let arrives := match u with
    | .arrive | .arriveExp _ => true
    | _ => false
  if arrives && !(s.acked e.ctx e.lcore .gang) then none
  else if b.lcore = e.lcore then
    match s.barUpdate e.ctx b.lcore b.idx u with
    | (.landed, s) => some s
    | (.refused, _) => none
    | (_, s) => some (s.copyFault e.ctx e.lcore 1 0 e.bundle 0 [] noPos)
  else if s.core.windowRoom then some (s.send e.ctx b.lcore (.barrier b.idx u) 0 e.bundle e.owner.task e.lcore)
  else none

/-- A committed PIPW (14 R332): the message goes into the window, and the writer's endpoint counts it, wherever that
endpoint is. -/
def State.drainPipe (s : State) (e : Entry) (ep l pe : Nat) (m : VWord) : Option State :=
  if !s.core.windowRoom then none
  else
    let s := s.send e.ctx l (.pipe pe m) 0 e.bundle e.owner.task e.lcore
    match s.place e.ctx e.lcore with
    | .moving => none
    | .unused => some s
    | .resident p =>
      let c := s.getCore p
      some (s.setCore { c with eng := { c.eng with
        pipes := vmod c.eng.pipes (ep % 8) fun q => { q with outstanding := q.outstanding + 1 } } })
    | .absent image =>
      let a := 0x330000 + 64 * (ep % 8)
      some (if s.pnat (image + a) 1 = 1 then s.divert e.ctx image [(a + 4, 1, s.pnat (image + a + 4) 1 + 1)] else s)

/-! ## Engine commands -/

/-- A committed copy command (13 R289): the command buffer, or the image of an absent logical core; none while it finds
no place. It keeps its commit tick (12 R285). One whose step has retired by now enters the buffer of the core that
committed it (12 R283). -/
def State.drainCopy (s : State) (e : Entry) (k : CCmd) : Option State :=
  let k := { k with tick := e.tick }
  if (s.stepOf e.owner.task e.owner.wid).isNone then s.copyEnter s.core.pcore k
  else
    match s.place e.ctx e.lcore with
    | .moving => none
    | .unused => some s
    | .resident p => s.copyEnter p k
    | .absent image => s.putRecord image k

/-- A committed matrix command (10 R225) enters the queue of the core that committed it, after the step has retired there
too (04 R111): none while the queue is full. -/
def State.drainMatrix (s : State) (m : MCmd) : Option State :=
  if s.core.mx.queue.length < 8 then some (s.matrixEnter s.core.pcore m) else none

/-! ## The drain -/

/-- A committed C-class write (07 R160): of the context's ring alone where the kernel that made it is gone. -/
def State.drainCsr (s : State) (e : Entry) (n : Nat) (v : Word) : State :=
  if s.core.self.1 = e.ctx ∧ s.core.seat.isSome then s.csrCommit e.level n v
  else if n = 0x070 then s.onCtx e.ctx fun x => { x with statRing := fieldsOf x.statRing v (csrMask n e.level) }
  else s

/-- The effect of a committed entry of the current core; none while it has to wait. -/
def State.perform (s : State) (e : Entry) : Option State :=
  match e.kind with
  | .spStore cs => s.drainSp e cs
  | .spMgmt op f n v => s.drainMgmt e op f n v
  | .covered ls => if s.place e.ctx e.lcore = .moving then none else
      some (ls.foldl (fun s l => s.coverSp e.ctx e.lcore l [] true) s)
  | .gStore cs rel =>
    if s.releaseReady e rel then some (cs.foldl (fun s c => s.drainWrite e c.va c.pa c.bytes false) s) else none
  | .stf va pa v rel =>
    if s.releaseReady e rel then
      some (if s.reaches pa then (s.drainWrite e va pa (toBytes 8 v.toNat) true).answerDeferred pa v else s.wrfail e 4 va)
    else none
  | .atom op va pa n cmp operand ord sc dst beat => s.drainAtomic e op va pa n cmp operand ord sc dst beat
  | .fenceRel sc => if s.acked e.ctx e.lcore sc then some s else none
  | .fencex sc p q => if s.acked e.ctx e.lcore sc && s.pathDone e p && s.pathDone e q then some s else none
  | .barrier b u => s.drainBarrier e b u
  | .pipw ep l pe m => s.drainPipe e ep l pe m
  | .copy k => s.drainCopy e k
  | .cpcan pos act v => some (s.cpcan s.core.pcore e.ctx e.lcore pos act v)
  | .matrix m => s.drainMatrix { m with tick := e.tick }
  | .spawn va post => s.spawnPacket e.ctx e.lcore va e.bundle post
  | .statfl => some (s.statAll s.core.pcore)
  | .csr n v => some (s.drainCsr e n v)
  | .pairset ctx paired => some (s.onCtx ctx fun x => { x with paired := paired })

/-- Performs the oldest committed entry of the current core, if it can go (08 R177). -/
def State.drainHead (s : State) : State :=
  match s.core.drain with
  | [] => s
  | e :: es =>
    match (s.upd fun c => { c with drain := es }).perform e with
    | some t => t
    | none => s

/-- Whether the oldest committed entry notes the coverage of the store before it (09 R198). -/
def Core.coversNext (c : Core) : Bool :=
  match c.drain with
  | e :: _ => (match e.kind with
    | .covered _ => true
    | _ => false)
  | [] => false

/-- Performs the oldest committed entry of the current core, if it can go, and with a store the coverage that it completes
(08 R177; 09 R198). -/
def State.drainFirst (s : State) : State :=
  let t := s.drainHead
  if t.core.drain.length < s.core.drain.length ∧ t.core.coversNext = true then t.drainHead else t

/-- Commands of the block-transfer engine and of the matrix unit. -/
def EKind.isEngine : EKind → Bool
  | .copy _ | .matrix _ => true
  | _ => false

/-- Plain stores of the core path, for which no engine command of the core waits (12 R277, R280). -/
def EKind.isPassed : EKind → Bool
  | .spStore _ | .covered _ | .gStore _ none => true
  | _ => false

/-- The place of the engine command that may be performed before the plain stores ahead of it in the drain: drain order is
program order for entries of one kind, and R280 orders a command after no write of its own core (12 R269, R277, R280). -/
def Core.overtaker (c : Core) : Option Nat :=
  (c.drain.findIdx? fun e => !e.kind.isPassed).filter fun k =>
    decide (0 < k) && ((c.drain[k]?).map fun e => e.kind.isEngine).getD false

/-- Performs a committed entry of the current core ahead of those before it; none while it has to wait. -/
def State.drainAt (s : State) (k : Nat) : Option State :=
  (s.core.drain[k]?).bind fun e => (s.upd fun c => { c with drain := dropNth c.drain k }).perform e

/-- Performs the next committed entry of the current core, if it can go (08 R177): the oldest, or an engine command that
overtakes plain stores. Which of the two is open (log 2, 32). -/
def State.drainOne (s : State) : State :=
  match s.core.overtaker with
  | none => s.drainFirst
  | some k =>
    let c := s.choose 2
    if c.1 = 1 then (c.2.drainAt k).getD c.2.drainFirst else c.2.drainFirst

/-- Drains up to n entries of the current core, as long as a test holds of what is left. -/
def drainWhile (more : Core → Bool) : Nat → State → State
  | 0, s => s
  | n + 1, s =>
    if more s.core then
      let t := s.drainOne
      if t.core.drain.length < s.core.drain.length then drainWhile more n t else s
    else s

/-- COMMIT_BUFFER_DRAIN (08 R177). -/
def execCommitBufferDrain (c : Nat) (s : State) : Res := .next (s.switch c).drainOne

/-- Whether an entry writes memory or performs an atomic there. -/
def EKind.isWrite : EKind → Bool
  | .gStore _ _ | .stf _ _ _ _ | .atom _ _ _ _ _ _ _ _ _ _ => true
  | _ => false

/-- WRFAIL_REPORT (08 R177; 11 R251): the k-th committed entry of core c, a store or an atomic, is lost on its way and
reported, with detail 4 for the link and 3 for memory. -/
def State.loseWrite (s : State) (k : Nat) (link : Bool) : State :=
  match s.core.drain[k]? with
  | none => s
  | some e =>
    if !e.kind.isWrite then s
    else
      let s := (s.upd fun c => { c with drain := dropNth c.drain k }).wrfail e (if link then 4 else 3) ((e.kind.vas).headD 0)
      match e.kind with
      | .atom _ _ _ _ _ _ ord sc dst beat =>
        let r := s.freeWord
        r.2.landOld e ord sc dst beat r.1
      | _ => s

/-- WRFAIL_REPORT (08 R177). -/
def execWrfailReport (c : Nat) (k : Nat) (link : Bool) (s : State) : Res := .next ((s.switch c).loseWrite k link)

end Sys2Proof.Machine
end

