-- ==== Sys2Proof/Machine/Images.lean ====
section
/-! DEFINITION. Leaving a core for the shadow image and coming back from it: the spill, parking, the merge, and the
delivery of trap records (08 R184 to R187; 09 R203; 10 R240; 13 R308; 17 R388 to R399). -/

namespace Sys2Proof.Machine

/-! ## Trap records (08 R184, R185) -/

/-- Enters the steward with a record: cause from its code and detail, info its address, back at ret (R180, R184, R185). -/
def State.deliver (s : State) (r : Nat) (ret : Word) : State :=
  s.enterTrap (causeWord true (s.pnat (r + 1) 1) 0 (s.pnat r 1)) ret (BitVec.ofNat 64 r) ret

/-- Whether an entry is the steward's for a logical core (R185). -/
def Entry.stewardOf (e : Entry) (k : Nat × Nat) : Bool := e.level != .u && e.ctx == k.1 && e.lcore == k.2

/-- Whether a committed entry of the steward of the kernel on a core is still to be performed there (R185). -/
def Core.stewardDraining (c : Core) : Bool := c.drain.any fun e => e.stewardOf c.self

/-- Whether a committed entry of the steward of the current core's kernel is still to be performed, on any core that the
kernel has been on (R184, R185; 12 R286). -/
def State.stewardDraining (s : State) : Bool := s.allCores.any fun c => c.drain.any fun e => e.stewardOf s.core.self

/-- The oldest record of the kernel on the current core. -/
def State.oldestRec (s : State) : Option Nat :=
  s.core.seat.bind fun z => (Tab.get s.ctxs z.ctx).bind fun x => (s.trapRecs x z.lcore).head?

/-- The record that may be delivered to the kernel on the current core now, the oldest. -/
def State.pendingRec (s : State) : Option Nat :=
  if s.core.level ≠ .u ∨ s.stewardDraining = true then none else s.oldestRec

/-- Whether a record has to wait, at a bundle where it would be delivered, for the steward's entries (R184, R185). -/
def State.recWaits (s : State) : Bool := s.core.level = .u && s.stewardDraining && s.oldestRec.isSome

/-- A delivery that is due before the bundle at hand, once the steward's entries are performed: one that a synchronous trap
came before (08 R185, R186), and, of a step that has come to its core, every record of an event from before that, one for
each entry (R181, R184; 17 R397). -/
def State.lateDelivery (s : State) : State :=
  if s.core.asyncDue && s.core.level = .u && !s.stewardDraining then
    match s.oldestRec with
    | none => s.upd fun c => { c with asyncDue := false, dueBy := 0 }
    | some r =>
      let old := decide (s.pnat (r + 8) 8 < s.core.dueBy)
      if s.core.dueBy = 0 ∨ old = true then
        (s.upd fun c => { c with asyncDue := old }).deliver r s.core.pc
      else s.upd fun c => { c with asyncDue := false, dueBy := 0 }
  else s

/-- A step has come to the current core: the records that wait for it are due before its first bundle (08 R184; 17 R397). -/
def State.deliverAll (s : State) : State := (s.upd fun c => { c with asyncDue := true, dueBy := s.tick + 1 }).lateDelivery

/-- Plain bytes in device memory. -/
def State.patch (s : State) (pa : Nat) (bs : List Byte) : State :=
  if nodeOf pa ≤ 1 then { s with mem := { s.mem with bytes := s.mem.bytes.write pa bs } } else s

/-- Memory as the committed stores of the current core that still drain will leave it: what the device reads of a save
area has every patch of the steward (07 R164). -/
def State.patched (s : State) : State :=
  s.core.drain.foldl
    (fun s e =>
      match e.kind with
      | .gStore cs _ => cs.foldl (fun s c => s.patch c.pa c.bytes) s
      | .stf _ pa v _ => s.patch pa (toBytes 8 v.toNat)
      | _ => s) s

/-! ## The spill (17 R389 to R393) -/

/-- The bytes of a frame that copy commands of a context have written so far and whose coverage goes on (09 R198; 17 R398). -/
def State.coverOf (s : State) (ctx frame : Nat) : Nat :=
  let ks := (s.allCores.flatMap fun c => c.eng.bte) ++ s.kept.map (·.2)
  (ks.filter fun k => k.ctx == ctx).foldl (fun v k => v ||| ((Tab.get k.cover frame).getD 0).toNat) 0

/-- Writes the covered bytes of an expired loaf into its image (17 R398; log 100): the rest of its data is not written (09
R203). -/
def State.spillCovered (s : State) (c : Core) (f a cov : Nat) : State :=
  (List.range 64).foldl
    (fun s w =>
      let m := bits cov (64 * w + 63) (64 * w)
      if m = 0 then s
      else
        let mix := List.zipWith (fun (i : Nat) (b : Byte × Byte) => if m.testBit i then b.1 else b.2) (List.range 64)
          ((c.sp.cells.bytes (f * 4096 + 64 * w) 64).zip (s.mem.bytes.bytes (a + 64 * w) 64))
        let s := s.stream (a + 64 * w) [(0, 64, ofBytes mix)]
        if NSet.has c.sp.poison (f * 64 + w) then s.poisonRange (a + 64 * w) 64 else s) s

/-- Writes the held loaves and the loaf table (09 R203; 17 R390). -/
def State.spillLoaves (s : State) (c : Core) (image : Nat) : State :=
  (List.range c.footprint).foldl
    (fun s l =>
      match c.heldLoaf l with
      | none => s.stream (loafEntry image l) [(0, 1, 0)]
      | some f =>
        let life := (c.sp.loafAt f).life
        if c.sp.live f s.tick then
          let s := s.stream (image + 4096 * l) [(0, 4096, c.sp.cells.nat (f * 4096) 4096)]
          let s := (List.range 64).foldl
            (fun s k => if NSet.has c.sp.poison (f * 64 + k) then s.poisonRange (image + 4096 * l + 64 * k) 64 else s) s
          s.stream (loafEntry image l) [(0, 1, 1), (4, 4, life)]
        else
          (s.spillCovered c f (image + 4096 * l) (s.coverOf c.self.1 (spFrame c.self.2 l))).stream
            (loafEntry image l) [(0, 1, 2), (4, 4, life)]) s

/-- A set of numbers as bits from a first one on. -/
def bitsFrom (l : NSet) (first n : Nat) : Nat :=
  (l.filter fun k => first ≤ k ∧ k < first + n).foldl (fun v k => v + 2 ^ (k - first)) 0

/-- The matrix state as an image holds it (17 R390): offsets, scale FIFO, marks, the marked regions and blocks. -/
def matrixItems (c : Core) : List (Nat × Nat × Nat) :=
  let m := c.mx
  let fifo := c.eng.fifo
  let head := [(0x331000, 2, m.rowOff), (0x331002, 2, m.colOff), (0x331004, 2, fifo.length), (0x331006, 2, 0),
    (0x331008, 2, m.markC.toNat + 256 * m.markW.toNat), (0x331040, 1024, undigits 32 (fifo.map (·.word.toNat))),
    (0x331440, 32, undigits 1 (fifo.map fun w => b2n w.stop))]
  let accs := ((List.range 4).filter fun g => m.markC.getLsbD g).flatMap fun g =>
    (List.range 128).flatMap fun r =>
      [(0x340000 + 4 * (192 * r + 48 * g), 192, m.acc.nat (4 * (192 * r + 48 * g)) 192),
        (0x358000 + 24 * r + 6 * g, 6, bitsFrom m.accPoison (192 * r + 48 * g) 48)]
  let wbs := ((List.range 8).filter fun b => m.markW.getLsbD b).flatMap fun b =>
    [(0x360000 + 65536 * b, 65536, m.wb.nat (65536 * b) 65536), (0x3E0000 + 128 * b, 128, bitsFrom m.wbPoison (1024 * b) 1024)]
  head ++ accs ++ wbs

/-- The pipe endpoints as an image holds them (17 R390). -/
def pipeItems (c : Core) : List (Nat × Nat × Nat) :=
  (List.finRange 8).flatMap fun e =>
    let q := c.eng.pipes[e]
    let h := 0x330000 + 64 * e.val
    [(h, 7, undigits 8 [q.role, q.depth, q.base % 16, q.entries.length, q.outstanding, q.peerMember, q.peerEnd])] ++
      (q.entries.zip (List.range q.entries.length)).map fun x =>
        (0x320000 + 8192 * e.val + 512 * ((q.base + x.2) % 16), 512, x.1.toNat)

/-- Writes the waiting and halted copy entries of the kernel on core p as records, and takes them out of the buffer
(13 R308). -/
def State.spillCopies (s : State) (p image : Nat) : State :=
  let c := s.getCore p
  let mine := fun (k : CCmd) => k.ctx == c.self.1 && k.lcore == c.self.2 && k.state != .running
  let s := s.setCore { c with eng := { c.eng with bte := c.eng.bte.filter fun k => !(mine k) } }
  (c.eng.bte.filter mine).foldl (fun s k => (s.putRecord image k).getD s) s

/-- Sends every message of a core's window again and lets its receivers take it (14 R336). -/
def State.flushWindow (s : State) (p : Nat) : State :=
  let s := s.onWindow p fun w => w.map fun m => if m.st = .accepted then m else { m with st := .sent, dest := none }
  (List.range (s.getCore p).port.window.length).foldl (fun s k => (s.receive p k).receive p k) s

/-- Completes the matrix queue of core p as far as it goes (10 R240; 17 R393), in at most n commands, its messages sent on
the way. -/
def settleMatrix (p : Nat) : Nat → State → State
  | 0, s => s
  | n + 1, s =>
    let c := s.getCore p
    if c.mx.queue.isEmpty && c.mx.pushing.isEmpty then s
    else settleMatrix p n (((s.matrixStart p).matrixComplete p).flushWindow p)

/-- Whether a committed entry of a logical core has to be performed before its core can be left: the atomics whose old
values land (01 R28; 08 R175), and the commands of the engines that are completed first (17 R393). -/
def Core.mustDrain (c : Core) : Bool :=
  c.drain.any fun e => e.ctx == c.self.1 && e.lcore == c.self.2 && (match e.kind with
    | .atom _ _ _ _ _ _ _ _ _ _ | .matrix _ | .cpcan _ _ _ | .statfl | .csr _ _ => true
    | _ => false)

/-- Whether the kernel of a core stands where its core can be left (01 R28; 08 R181, R187; 17 R393). -/
def Core.atBoundary (c : Core) : Bool :=
  c.seat.isSome && c.level = .u && !c.inTrap && (c.phase = .run || c.phase = .halted) && !c.mustDrain

/-- Where the kernel of a core stands that handles a trap, or stopped after a double fault: the steward's segment goes,
and the kernel's state is at trap.save (08 R181, R182). -/
def State.savedState (s : State) (p : Nat) : State :=
  let c := (s.getCore p).rollback
  let save := c.csr.save.toNat % 2 ^ 45
  let m := (s.switch p).patched
  let a := archAt m save c.eng.pipes
  let addr := BitVec.ofNat 64 (m.pnat save 8)
  let csr := { c.csr with status := 0 }
  (s.setCore { c with arch := a, ck := a, ckAddr := addr, pc := addr, level := .u, phase := .run, csr := csr }).cancelLdf p

/-- Notes on a step that the logical core on core c has left it, with its checkpoint identities (07 R166; 01 R24). -/
def State.stepLeft (s : State) (c : Core) (z : Seat) : State :=
  s.onStep z.task z.wid fun t =>
    let cores := t.cores.filter (· != c.pcore)
    { t with
      cores := cores
      ids := (t.ids.filter fun i => i.1 != z.lcore) ++ [(z.lcore, c.ckId, c.frzCk, c.yielded)]
      state := if cores = [] then .parked else t.state
      parkedAt := s.tick
      was := Tab.put t.was z.lcore c.pcore
      rotate := t.rotate && decide (cores ≠ []) }

/-- Performs what the kernel of core p has committed, as far as it goes, and starts its copies whose turn has come, as its
core would have before it is left (08 R177; 13 R290; 22 R442). -/
def State.finishCommitted (s : State) (p : Nat) : State :=
  let q := s.core.pcore
  ((drainWhile (fun c => !c.drain.isEmpty) 8192 (s.switch p)).switch q).startAll p

/-- Makes the logical core on core p absent (17 R392, R393), its kernel standing at its checkpoint; unchanged while its
matrix commands do not complete. A scale word marked poisoned poisons its sector of the image (10 R223). -/
def State.park (s : State) (p : Nat) : State :=
  let c := s.getCore p
  match c.seat with
  | none => s
  | some z =>
    match Tab.get s.ctxs z.ctx with
    | none => s
    | some x =>
      let t := (settleMatrix p 64 (s.finishCommitted p)).statAll p
      let c := t.getCore p
      if !(c.mx.queue.isEmpty && c.mx.pushing.isEmpty) then s
      else
        let s := (t.flushWindow p).cancelLdf p
        let c := s.getCore p
        let image := s.imageOf x z.lcore
        let s := ((c.both.foldl (fun s q => s.noteStay q z none) s).setDiv x z.lcore 3).spillLoaves c image
        let s := s.stream image
          ((c.ck.saveItems c.ckAddr).map (fun i => (0x308000 + i.1, i.2)) ++ matrixItems c ++ pipeItems c)
        let s := (c.eng.fifo.zip (List.range c.eng.fifo.length)).foldl
          (fun (s : State) x => if x.1.bad then s.poisonRange (mxBlock image + 64 + 4 * x.2) 4 else s) s
        let s := (s.spillCopies p image).saveBars c
        let c := s.getCore p
        let s := (s.setCore { c.vacate with eng := { c.eng with fifo := [], pipes := .replicate 8 .reset } }).freeFollower c
        let s := ((s.unbind z.ctx z.lcore p).stepLeft c z)
        let cl := clusterOf p
        let idle := !s.clusterBusy cl
        s.onCluster cl fun k =>
          { k with
            idleSince := if idle then s.tick else k.idleSince
            lease := k.lease.map fun l => { l with frozen := l.frozen || l.owner == Owner.mk z.task z.wid } }

/-- Parks core p with a rollback (08 R187), when it stands at a boundary where that is allowed; else nothing changes. -/
def State.parkBack (s : State) (p : Nat) : State :=
  if (s.getCore p).atBoundary then (s.rollbackAt p).park p else s

/-- Whether a logical core was left. -/
def State.isAbsent (s : State) (ctx l : Nat) : Bool :=
  match s.place ctx l with
  | .absent _ | .unused => true
  | _ => false

/-! ## Taking a core (01 R22, R23; 08 R190; 15 R358; 16 R386) -/

/-- Whether the matrix unit of a core has nothing left of what kernels committed there (10 R225; 04 R111). -/
def Core.matrixIdle (c : Core) : Bool :=
  c.mx.queue.isEmpty && c.mx.pushing.isEmpty && !(c.drain.any fun e => match e.kind with
    | .matrix _ => true
    | _ => false)

/-- Whether a core has no resident step and is no part of a quarantined pair. -/
def Core.vacant (c : Core) : Bool := c.seat.isNone && c.phase = .idle && !c.quarantined

/-- Whether a core is vacant, in paired mode together with its neighbour (22 R440). -/
def State.coreVacant (s : State) (p : Nat) (paired : Bool) : Bool :=
  (s.getCore p).vacant && (!paired || (p % 2 == 0 && (s.getCore (p + 1)).vacant))

/-- Whether a core can take a kernel, in paired mode together with its neighbour; a matrix unit still at work on the
commands of the last kernel finishes them first (log 98). -/
def State.coreFree (s : State) (p : Nat) (paired : Bool) : Bool :=
  let ok := fun (c : Core) => c.vacant && c.matrixIdle
  ok (s.getCore p) && (!paired || (p % 2 == 0 && ok (s.getCore (p + 1))))

/-- A physical loaf that nobody reserves: neither the resident step's footprint nor a proofing area. -/
def Core.spareLoaves (c : Core) : List Nat :=
  let used := c.sp.map.map (·.2) ++ ((c.sp.proof.map fun q => q.map.map (·.2)).getD [])
  (List.range loafCount).filter fun f => !used.contains f

/-- The map of a footprint of n onto the loaves that nobody reserves (09 R196). -/
def Core.mapFor (c : Core) (n : Nat) : Tab Nat := (List.range n).zip c.spareLoaves

/-- Binds a logical core to core p (15 R358, R360). -/
def State.bind (s : State) (x : Ctx) (l p : Nat) : State :=
  (s.dput (x.map + 4 * l) 4 (x.entry l p true)).setDiv x l 1

/-- A cluster takes a kernel: a gated one wakes, and its idle period is recorded when it ends, in 32 bits at most (16 R366,
R386); its island is not idle (16 R382). -/
def State.occupy (s : State) (cl : Nat) : State :=
  let s := s.onIsland (s.islandOf cl) fun i => { i with idleFor := 0 }
  if s.clusterBusy cl then s
  else s.onCluster cl fun k => { k with gated := false, idle := k.idle.drop 1 ++ [min (2 ^ 32 - 1) (s.tick - k.idleSince)] }

/-- The matrix state that a step of a context finds on a core (10 R217). -/
def Matrix.passTo (m : Matrix) (ctx : Nat) : Matrix :=
  let m := { m with batch := [], rowOff := 0, colOff := 0, markC := 0, markW := 0 }
  if m.lastCtx = some ctx ∨ m.lastCtx = none then m else { m with wb := [], wbPoison := [], acc := [], accPoison := [] }

/-- The L1 caches of a core that a step of a context takes: empty after another context's (11 R241). -/
def Port.passTo (q : Port) (last : Option Nat) (ctx : Nat) : Port :=
  if last = some ctx then q else { q with l1d := [], l1i := [] }

/-- A core with the trap registers of an interface: each has its own, and neither reads nor changes another's (07 R158). -/
def Core.csrFor (c : Core) (vi : Nat) : Core :=
  if c.csrVi = vi then c
  else { c with
    csr := (Tab.get c.csrBank vi).getD .reset
    csrVi := vi
    csrBank := Tab.put (Tab.del c.csrBank vi) c.csrVi c.csr }

/-- A core as a kernel of a context takes it: nothing of the last one in its pipeline (01 R18 to R23; 04 R92). -/
def Core.take (c : Core) (x : Ctx) (z : Seat) (a : Arch) (pc : Word) : Core :=
  let c := c.csrFor z.vi
  { c with
    arch := a
    ck := a
    ckAddr := pc
    pc := pc
    level := .u
    phase := .run
    delay := .none
    lat := .replicate 8 0
    fspace := 3
    flight := []
    pend := []
    frzCk := none
    sleep := none
    segBundles := 0
    cbuf := []
    csr := { c.csr with status := 0, statRing := x.statRing }
    paired := x.paired
    mismatches := 0
    sig := 0
    mx := c.mx.passTo z.ctx
    port := c.port.passTo c.mx.lastCtx z.ctx
    seat := some z
    yielded := false
    cleanRerun := []
    asyncDue := false
    dueBy := 0
    preempt := none }

/-- The follower of a core that runs paired (08 R190): it begins as its leader p does. -/
def State.takeFollower (s : State) (p : Nat) (paired : Bool) : State :=
  if paired then
    let c := s.getCore p
    let f := s.getCore (p + 1)
    s.setCore ({ f.csrFor c.csrVi with port := f.port.passTo f.mx.lastCtx c.self.1 }.follow c)
  else s

/-! ## The merge (17 R397) -/

/-- Applies the loaf table of an image to the footprint of the kernel on a core (R397; 09 R198): an expired loaf comes with
what its image holds, which only a whole covering makes readable. -/
def mergeLoaves (s : State) (c : Core) (image : Nat) : Core :=
  (List.range c.footprint).foldl
    (fun c l =>
      let st := s.imgLoaf image l
      match Tab.get c.sp.map l with
      | none => c
      | some f =>
        let life := lifeOf (BitVec.ofNat 64 (s.pnat (loafEntry image l + 4) 4 % 2 ^ 18))
        let clean := c.sp.cleanLoaf f
        if st = 0 then { c with sp := { clean with holder := Tab.del clean.holder f } }
        else
          let bad := (List.range 64).filter fun k => (poisonOf s (image + 4096 * l + 64 * k) 64).isSome
          { c with sp := { clean with
              cells := clean.cells.paste (f * 4096) 4096 (s.mem.bytes.slice (image + 4096 * l) 4096)
              poison := NSet.addAll clean.poison (bad.map fun k => f * 64 + k)
              holder := Tab.put clean.holder f .step
              loaf := Tab.put clean.loaf f (Loaf.mk life (if st = 1 then s.tick + life else 0)) } }) c

/-- The numbers of the set bits of n bits, from a first number on. -/
def setOfBits (v first n : Nat) : NSet := ((List.range n).filter fun i => v.testBit i).map (· + first)

/-- A held follow-on of an image (17 R390). -/
def State.followAt (s : State) (image i ctx l : Nat) : MCmd :=
  let a := mxBlock image + 2048 + 160 * i
  { id := 0, kind := .mma, shape := BitVec.ofNat 1024 (s.pnat a 128), x := BitVec.ofNat 64 (s.pnat (a + 128) 8),
    bar := if s.pnat (a + 152) 1 = 0 then none else some (barOfImage (s.pnat (a + 144) 8) l),
    bundle := BitVec.ofNat 64 (s.pnat (a + 136) 8), level := .u, follow := true, ctx := ctx, lcore := l,
    owner := s.ownerOf ctx l, gang := s.membersOf ctx l, poisoned := false, faults := [], home := none, moved := 0,
    saturated := false, tick := 0 }

/-- Copies the matrix state of an image into a core (R397). A scale word whose sector of the image is poisoned comes marked (10
R223). -/
def mergeMatrix (s : State) (c : Core) (image ctx l : Nat) : Core :=
  let b := mxBlock image
  let marks := s.pnat (b + 8) 2
  let n := min fifoSize (s.pnat (b + 4) 2)
  let regs := (List.range 4).filter fun g => marks.testBit g
  let rows := regs.flatMap fun g => (List.range 128).map fun r => (r, g)
  let blocks := (List.range 8).filter fun k => marks.testBit (8 + k)
  { c with
    mx := { c.mx with
      rowOff := s.pnat b 2
      colOff := s.pnat (b + 2) 2
      markC := BitVec.ofNat 4 marks
      markW := BitVec.ofNat 8 (marks / 256)
      acc := rows.foldl
        (fun m x => m.paste (4 * (192 * x.1 + 48 * x.2)) 192 (s.mem.bytes.slice (image + 0x340000 + 4 * (192 * x.1 + 48 * x.2)) 192)) []
      accPoison := NSet.addAll []
        (rows.flatMap fun x => setOfBits (s.pnat (image + 0x358000 + 24 * x.1 + 6 * x.2) 6) (192 * x.1 + 48 * x.2) 48)
      wb := blocks.foldl
        (fun m k => m.paste (65536 * k) 65536 (s.mem.bytes.slice (image + 0x360000 + 65536 * k) 65536)) []
      wbPoison := blocks.flatMap fun k => setOfBits (s.pnat (image + 0x3E0000 + 128 * k) 128) (1024 * k) 1024
      queue := (List.range (min 8 (s.pnat (b + 6) 2))).map fun i => s.followAt image i ctx l }
    eng := { c.eng with fifo := (List.range n).map fun i =>
      (SWord.mk (BitVec.ofNat 32 (s.pnat (b + 64 + 4 * i) 4)) ((s.pnat (b + 1088 + i / 8) 1).testBit (i % 8))
        (poisonOf s (b + 64 + 4 * i) 4).isSome) } }

/-- The pipe endpoints of an image (17 R390). -/
def pipesAt (s : State) (image : Nat) : Vector Pipe 8 :=
  Vector.ofFn fun e =>
    let h := image + 0x330000 + 64 * e.val
    let base := s.pnat (h + 2) 1 % 16
    (Pipe.mk (s.pnat h 1) (s.pnat (h + 1) 1) (s.pnat (h + 5) 1) (s.pnat (h + 6) 1) base
      ((List.range (min 16 (s.pnat (h + 3) 1))).map fun j =>
        BitVec.ofNat 4096 (s.pnat (image + 0x320000 + 8192 * e.val + 512 * ((base + j) % 16)) 512))
      (s.pnat (h + 4) 1))

/-- The order in which commands were committed (13 R308): their commit ticks, then their numbers on their core. -/
def CCmd.order (k : CCmd) : Nat := k.tick * 2 ^ 64 + k.seq / 128 % 2 ^ 64

/-- The copy commands of an image, in their original order, each with whether the device kept its number; their positions
count from 64 on until they have places again (13 R308). -/
def State.recordsOf (s : State) (image ctx l : Nat) : List (CCmd × Bool) :=
  sortBy (fun (e : CCmd × Bool) => e.1.order) ((List.range 64).filterMap fun i => (s.getRecord image i ctx l).map fun k =>
    ({ k with pos := k.pos + 64 }, (Tab.get s.kept (copyRecord image i)).isSome))

/-- The copy records of an image come back to core p in their original order (13 R308; 17 R397): each keeps its number, or
is given one, and the trap records of a command are to name its new position. -/
def State.mergeCopies (s : State) (p image ctx l : Nat) : State :=
  let ks := s.recordsOf image ctx l
  let s := (List.range 64).foldl
    (fun s i => if s.pnat (copyRecord image i + 2) 1 = 0 then s else s.stream (copyRecord image i) [(2, 1, 0)]) s
  let s := { s with kept := s.kept.filter fun e => !(decide (image ≤ e.1) && decide (e.1 < image + 4194304)) }
  ks.foldl
    (fun s k =>
      if k.2 then s.copyBack p k.1
      else
        let c := s.getCore p
        (s.setCore { c with eng := { c.eng with seq := c.eng.seq + 1 } }).copyBack p { k.1 with seq := c.eng.seq * 128 + p }) s

/-- What a kernel committed on other cores and is still to be performed comes to the core that it goes on at (12 R286). -/
def State.bringDrain (s : State) (p ctx l : Nat) : State :=
  let mine := fun (e : Entry) => e.ctx == ctx && e.lcore == l
  let olds := s.allCores.filter fun c => c.pcore != p && c.drain.any mine
  let s := olds.foldl (fun (s : State) (c : Core) => s.setCore { c with drain := c.drain.filter fun e => !(mine e) }) s
  let c := s.getCore p
  s.setCore { c with drain := (olds.flatMap fun c => c.drain.filter mine) ++ c.drain }

/-- A step whose image cannot be merged is killed, and reported (17 R391). No bundle is at hand: the record's is 0, the model's
choice (log 141). -/
def State.mergeFails (s : State) (task wid : Nat) : State :=
  let vi := ((s.taskOf task).bind fun t => (Tab.get s.ctxs t.ctx).map (·.vi)).getD 0
  (s.killStep task wid).event vi (eventRec cDATALOSS 0xFF 0 0 s.tick 0 0 [] noPos)

/-- Merges the image of a logical core onto core p for a step's seat (17 R397): false when the image is invalid. A saved
`ckpt.addr` that is no multiple of 4 is taken as it stands: the model's choice (log 121). -/
def State.merge (s : State) (x : Ctx) (z : Seat) (p : Nat) : Bool × State :=
  let image := s.imageOf x z.lcore
  if s.pnat (image + 0x30803C) 4 ≠ 1 then (false, s)
  else
    let s := (s.setDiv x z.lcore 3).occupy (clusterOf p)
    let pipes := pipesAt s image
    let a := archAt s (image + 0x308000) pipes
    let addr := BitVec.ofNat 64 (s.pnat (image + 0x308000) 8)
    let c := (s.getCore p).take x z a addr
    let c := { c with sp := { c.sp with map := c.mapFor z.footprint } }
    let c := mergeMatrix s (mergeLoaves s c image) image z.ctx z.lcore
    let ids := (((s.stepOf z.task z.wid).map (·.ids)).getD []).find? fun i => i.1 == z.lcore
    let c := { c with
      bars := s.mem.bytes.slice (s.sbsOf x z.lcore) 4096
      port := { c.port with l1d := [], l1i := [], tlb := c.port.tlb.filter fun t => t.ctx != z.ctx }
      eng := { c.eng with pipes := pipes }
      ckId := (ids.map (·.2.1)).getD 0
      frzCk := ids.bind (·.2.2.1)
      yielded := (ids.map (·.2.2.2)).getD false }
    let s := (((s.setCore c).bringDrain p z.ctx z.lcore).mergeCopies p image z.ctx z.lcore).takeFollower p x.paired
    let s := (s.bind x z.lcore p).switch p
    match deriveModulo s a.modq with
    | (none, s) => (false, s)
    | (some q, s) =>
      (true, (s.upd fun c => { c with arch := { c.arch with modq := q }, ck := { c.ck with modq := q } }).deliverAll)

end Sys2Proof.Machine
end

