-- ==== Sys2Proof/Machine/Dispatcher.lean ====
section
/-! DEFINITION. The dispatcher: spendable balance, order, fit, launch, redispatch, proofing areas, reservations and
pre-emption for priority 0 (01 R22 to R25; 09 R205, R206; 14 R321, R325 to R329; 17 R397, R399). -/

namespace Sys2Proof.Machine

/-! ## Who may be considered (14 R325 to R329) -/

/-- The interval at hand (16 R368). -/
def State.intervalNo (s : State) : Nat := s.tick / intervalTicks

/-- The order in which steps are considered: urgent priority, older task, lower WID (R326); of one priority, a parked step for
which a resident one makes way comes first (17 R406). -/
def rankKey (t : Task) (u : Step) : Nat :=
  ((t.prio * 2 + b2n !(u.state = .parked && u.rotate)) * 2 ^ 66 + t.age) * 2 ^ 64 + u.wid

/-- The interface of a task's context, and the context. -/
def State.tenant (s : State) (t : Task) : Option (Ctx × Vi) :=
  (Tab.get s.ctxs t.ctx).bind fun x => (s.viOf x.vi).map fun v => (x, v)

/-- The clusters of an island that an interface may use. -/
def State.homes (s : State) (v : Vi) (isl : Nat) : List Nat := (maskClusters v.mask).filter fun c => s.islandOf c == isl

/-- Whether a step that was sent back to its start has still to run until it ends (09 R206). -/
def State.rerunning (s : State) (b : Nat × Nat × Nat) : Bool :=
  match s.stepOf b.1 b.2.1, s.taskOf b.1 with
  | some u, some t => u.restarts != b.2.2 && decide (u.state = .ready ∨ u.state = .held ∨ u.state = .resident) &&
      ((Tab.get s.ctxs t.ctx).map fun x => x.state == 0).getD false
  | _, _ => false

/-- Whether a step has a proofing area behind a step that reruns, whose end it awaits (09 R206; log 99). -/
def State.awaitsRerun (s : State) (t : Task) (u : Step) : Bool :=
  s.allCores.any fun c => match c.sp.proof with
    | some q => q.task == t.id && q.wid == u.wid && s.rerunning q.behind
    | none => false

/-- Whether a context has steps considered (R329): a running one, whose requests ask for no stop, and a resuming one its
parked steps (17 R404). A migration that left its core is completed before its context stops (17 R409). -/
def Ctx.admits (x : Ctx) (u : Step) : Bool :=
  (x.state == 0 && (x.stopping.isEmpty || u.state = .migrating)) || (x.state == 3 && u.state = .parked)

/-- Whether the dispatcher considers a step on an island now (R326, R329). -/
def State.eligible (s : State) (isl : Nat) (t : Task) (u : Step) : Bool :=
  decide (u.state = .ready ∨ u.state = .held ∨ u.state = .parked ∨ u.state = .migrating) &&
    !(isl == u.notBefore.2 && decide (s.intervalNo < u.notBefore.1)) && !(s.awaitsRerun t u) &&
    (match s.tenant t with
      | some (x, v) => v.enabled && x.admits u && !(s.homes v isl).isEmpty
      | none => false)

/-- The steps that an island considers, in their order (R326). -/
def State.considered (s : State) (isl : Nat) : List (Task × Step) :=
  sortBy (fun e => rankKey e.1 e.2)
    (s.steps.filterMap fun u => (s.taskOf u.task).bind fun t => if s.eligible isl t u then some (t, u) else none)

/-- The variants that a step may run (R326): its first one once it has been dispatched. -/
def permitted (t : Task) (u : Step) : List Nat :=
  if u.state = .parked ∨ u.state = .migrating then [u.variant] else if t.cheaper then List.range t.variants.length else [0]

/-- The spendable balance that a step sees (R325, R327), in budget units. -/
def State.spendable (s : State) (isl vi : Nat) (t : Task) (u : Step) : Int :=
  match s.acctOf isl vi with
  | none => -1
  | some a =>
    let free := a.balance - (a.admitted : Int)
    match (s.islandAt isl).reserve with
    | none => free
    | some r => if (r.1 = t.id ∧ r.2.1 = u.wid) ∨ t.prio < r.2.2.2 then free else free - (r.2.2.1 : Int)

/-- The members of a variant. -/
def Task.membersOf (t : Task) (v : Nat) : List Member := ((t.variants[v]?).map (·.members)).getD []

/-- The cost of a variant on an island. -/
def State.variantCost (s : State) (isl : Nat) (t : Task) (v : Nat) : Nat :=
  s.classCost isl (((t.variants[v]?).map (·.cls)).getD 0)

/-- Whether an island's balance covers a variant of a step; a migration is never held for energy (17 R399). -/
def State.affords (s : State) (isl vi : Nat) (t : Task) (u : Step) (v : Nat) : Bool :=
  decide (u.state = .migrating) || decide ((s.variantCost isl t v : Int) ≤ s.spendable isl vi t u)

/-! ## Fit (01 R22, R23; 15 R358) -/

/-- Whether a core holds a proofing area for a step. -/
def Core.proofs (c : Core) (t : Task) (u : Step) : Bool :=
  match c.sp.proof with
  | some q => q.task == t.id && q.wid == u.wid
  | none => false

/-- The loaves that a core has for a step. -/
def Core.room (c : Core) (t : Task) (u : Step) : Nat :=
  c.spareLoaves.length + if c.proofs t u then ((c.sp.proof.map fun q => q.map.length).getD 0) else 0

/-- Whether members of some footprints find a core each among cores with some room: of each footprint, as many cores take it
as members need it or more. -/
def roomFor (rooms needs : List Nat) : Bool :=
  needs.all fun n => decide ((needs.filter fun k => n ≤ k).length ≤ (rooms.filter fun k => n ≤ k).length)

/-- The core that a logical core must go to: the destination of its migration, or the pinned one (15 R358; 17 R399). -/
def wantedCore (x : Ctx) (u : Step) (l : Nat) : Option Nat :=
  match u.migrate with
  | some (k, some p) => if k = l then some p else Tab.get x.pins l
  | _ => Tab.get x.pins l

/-- Cores of a cluster for logical cores with footprints, one each (R23), the pinned ones first: none where they do not fit. A
core is chosen among those that leave the others theirs. A step's proofing area is for its first member, whose preloads it
holds (14 R321). -/
def placeAll (x : Ctx) (t : Task) (u : Step) (cl : Nat) (first : Option Nat) :
    List (Nat × Nat) → List Nat → State → Option (Tab Nat) × State
  | [], _, s => (some [], s)
  | m :: ms, used, s =>
    let mine := fun (p : Nat) => first == some m.1 && (s.getCore p).proofs t u
    let free := (List.range 16).map (· + 16 * cl) |>.filter fun p => !used.contains p && s.coreFree p x.paired
    let room := fun (p : Nat) => (s.getCore p).room t u
    let ok := free.filter fun p => decide (m.2 ≤ room p)
    let ok := match wantedCore x u m.1 with
      | some p => ok.filter (· == p)
      | none => ok.filter fun p => roomFor ((free.filter (· != p)).map room) (ms.map (·.2))
    let best := ok.filter mine
    let ok := if best = [] then ok else best
    match ok with
    | [] => (none, s)
    | p :: _ =>
      let k := s.choose ok.length
      let p := ok.getD k.1 p
      match placeAll x t u cl first ms (p :: used) k.2 with
      | (some r, s) => (some ((m.1, p) :: r), s)
      | (none, s) => (none, s)

/-- The logical cores that no unretired step of a context holds (01 R22). -/
def State.freeLcores (s : State) (x : Ctx) (ctx : Nat) : List Nat :=
  let used := s.steps.flatMap fun u => if (s.taskOf u.task).map (·.ctx) = some ctx then u.lcores else []
  (List.range x.lcores).filter fun l => !used.contains l

/-- n logical cores of a list, freely chosen. -/
def pickCores : Nat → List Nat → State → List Nat × State
  | 0, _, s => ([], s)
  | _, [], s => ([], s)
  | n + 1, l :: ls, s =>
    let k := s.choose (l :: ls).length
    let v := (l :: ls).getD k.1 l
    let r := pickCores n ((l :: ls).filter (· != v)) k.2
    (v :: r.1, r.2)

/-- The logical cores of a step for a variant (01 R22): its own while it is parked; one for each member where it starts,
those that it kept through a restart first (log 99), the others from among all that are free or, with `loose`, from those
that no pin binds first. -/
def State.lcoresFor (s : State) (x : Ctx) (t : Task) (u : Step) (v : Nat) (loose : Bool) : Option (List Nat) × State :=
  if u.state = .parked ∨ u.state = .migrating then (some u.lcores, s)
  else
    let n := (t.membersOf v).length
    let own := u.lcores.take n
    let free := s.freeLcores x t.ctx
    let first := if loose then free.filter fun l => (Tab.get x.pins l).isNone else free
    let r := pickCores (n - own.length) first s
    let q := pickCores (n - own.length - r.1.length) (free.filter fun l => !r.1.contains l) r.2
    let ls := own ++ r.1 ++ q.1
    (if ls.length = n then some ls else none, q.2)

/-- Pinned members first, so that no other member takes their cores. -/
def pinnedFirst (x : Ctx) (u : Step) (ms : List (Nat × Nat)) : List (Nat × Nat) :=
  (ms.filter fun m => (wantedCore x u m.1).isSome) ++ ms.filter fun m => (wantedCore x u m.1).isNone

/-- The first cluster of a list whose free cores take the members. -/
def placeIn (x : Ctx) (t : Task) (u : Step) (ms : List (Nat × Nat)) : List Nat → State → Option (Tab Nat) × State
  | [], s => (none, s)
  | cl :: cls, s =>
    match placeAll x t u cl (ms.head?.map (·.1)) (pinnedFirst x u ms) [] s with
    | (some r, s) => (some r, s)
    | (none, s) => placeIn x t u ms cls s

/-- A list begun at one of its places, chosen freely. -/
def State.rotated (s : State) (l : List Nat) : List Nat × State :=
  let k := s.choose l.length
  (l.drop k.1 ++ l.take k.1, k.2)

/-- The members of a variant that have still to run, each with its logical core and its number. -/
def Step.running (u : Step) (ls : List Nat) (ms : List Member) : List (Nat × Nat × Member) :=
  (ls.zip ((List.range ms.length).zip ms)).filter fun e => !(NSet.has u.ended e.2.1)

/-- The logical cores and cores for a variant of a step in one of some clusters, where all its members fit (R23). -/
def State.fitWith (s : State) (loose : Bool) (cls : List Nat) (t : Task) (u : Step) (v : Nat) :
    Option (List Nat × Tab Nat) × State :=
  match s.tenant t with
  | none => (none, s)
  | some (x, _) =>
    match s.lcoresFor x t u v loose with
    | (none, s) => (none, s)
    | (some ls, s) =>
      let cls := s.rotated cls
      match placeIn x t u ((u.running ls (t.membersOf v)).map fun e => (e.1, e.2.2.loaves)) cls.1 cls.2 with
      | (some r, s) => (some (ls, r), s)
      | (none, s) => (none, s)

/-- The same, with logical cores that no pin binds where those chosen do not fit (01 R22, R27). -/
def State.fitIn (s : State) (cls : List Nat) (t : Task) (u : Step) (v : Nat) : Option (List Nat × Tab Nat) × State :=
  match s.fitWith false cls t u v with
  | (none, s) => s.fitWith true cls t u v
  | r => r

/-- The same on an island, in the clusters open to the step's interface. -/
def State.fit (s : State) (isl : Nat) (t : Task) (u : Step) (v : Nat) : Option (List Nat × Tab Nat) × State :=
  s.fitIn (((s.tenant t).map fun x => s.homes x.2 isl).getD []) t u v

/-- The state in which the kernels of some cores have made way (R328, R334): what `fit` may ask about it. -/
def State.without (s : State) (ps : List Nat) : State :=
  ps.foldl
    (fun s p =>
      let c := s.getCore p
      let idle := fun (k : Core) => { k with mx := { k.mx with queue := [], pushing := [] }, drain := [] }
      let s := (s.setCore (idle c.vacate)).freeFollower c
      if c.paired then s.setCore (idle (s.getCore (p + 1))) else s) s

/-! ## Preloads and proofing areas (09 R205, R206; 14 R321) -/

/-- The loaves that a task's preloads fill for a step, each with its source. -/
def preloadPlan (t : Task) (u : Step) : List (Nat × Nat) :=
  t.preloads.flatMap fun p =>
    let i := if p.level = 7 then 0 else u.idx.getD p.level 0
    (List.range p.count).map fun j => (p.first + j, (p.base + i * p.stride + 4096 * j) % 2 ^ 64)

/-- Copies one preload into a physical loaf of core p, held as given; or the detail and address of its fault. -/
def State.preload (s : State) (p f : Nat) (t : Task) (u : Step) (h : Holder) (va : Nat) : Option (Nat × Nat) × State :=
  match engineRead s p t.ctx (Owner.mk t.id u.wid) .u va 4096 with
  | (.error e, s) => (some e, s)
  | (.ok (bs, bad), s) =>
    if bad then (some (3, va), s)
    else
      let c := s.getCore p
      let sp := (c.sp.cleanLoaf f).writePhys (f * 4096) bs
      (none, s.setCore { c with sp := { sp with
        holder := Tab.put sp.holder f h
        loaf := Tab.put sp.loaf f (Loaf.mk maxLife (s.tick + maxLife)) } })

/-- Whether a preloaded loaf of a proofing area is there and live. -/
def Core.proofed (c : Core) (f tick : Nat) : Bool := Tab.get c.sp.holder f == some .proofing && c.sp.live f tick

/-- Makes the preloads of a step that are missing or expired, into a map of its loaves; the faults met. -/
def State.preloadAll (s : State) (p : Nat) (map : Tab Nat) (t : Task) (u : Step) (h : Holder) :
    List (Nat × Nat) × State :=
  (preloadPlan t u).foldl
    (fun (a : List (Nat × Nat) × State) e =>
      match Tab.get map e.1 with
      | none => a
      | some f =>
        if ((a.2.getCore p).proofed f a.2.tick) then a
        else
          match a.2.preload p f t u h e.2 with
          | (some x, s) => (a.1 ++ [x], s)
          | (none, s) => (a.1, s)) ([], s)

/-- Fetches a kernel for a proofing area into the instruction cache of core p, where its address can be fetched (R205). No
length of it is known: the model fetches the 64-byte block at its entry, and no more, its own choice (log 138). -/
def State.fetchKernel (s : State) (p ctx : Nat) (entry : Word) : State :=
  match translate s p ctx entry.toNat .fetch .u none with
  | (.ok pa, s) =>
    if nodeOk s pa 64 .fetch then
      match fetchPoison (s.payer p) pa 64 s with
      | (some _, s) => s
      | (none, s) => fillL1i (s.switch p) (pa / 64) (Line.mk (BitVec.ofNat 512 (s.pnat pa 64)) false)
    else s
  | (.error _, s) => s

/-- Builds a proofing area on a core for a step (R205), behind the step that is resident there. -/
def State.buildProof (s : State) (p : Nat) (t : Task) (u : Step) : State :=
  let c := s.getCore p
  match c.seat, (t.membersOf 0).head? with
  | some z, some m =>
    if c.sp.proof.isSome || decide (c.spareLoaves.length < m.loaves) then s
    else
      let map := c.mapFor m.loaves
      let behind := (z.task, z.wid, ((s.stepOf z.task z.wid).map (·.restarts)).getD 0)
      let s := s.setCore { c with sp := { c.sp with proof := some (Proof.mk t.id u.wid map behind) } }
      ((s.fetchKernel p t.ctx m.entry).preloadAll p map t u .proofing).2
  | _, _ => s

/-- PROOFING_AREA_BUILD (R205; 14 R329): for the step that the dispatcher ranks first for the core, unless it has one
elsewhere. -/
def execProofingAreaBuild (c : Nat) (task : Nat) (wid : Nat) (s : State) : Res :=
  let fresh := (s.considered (s.islandOf (clusterOf c))).filter fun e => e.2.state = .ready || e.2.state = .held
  .next (match fresh.find? fun e => ((s.tenant e.1).map fun x => x.2.mask.getLsbD (clusterOf c)).getD false with
    | some (t, u) =>
      if t.id = task ∧ u.wid = wid ∧ (s.allCores.any fun k => k.proofs t u) = false then s.buildProof c t u else s
    | none => s)

/-- The life at which a proofing loaf is renewed (R205). -/
def proofMargin : Nat := 20000

/-- PROOFING_LOAF_RENEW (R205): step loaf `loaf` of the proofing area of core c, renewed when its remaining life is below
20,000 ticks, or copied again once it has expired. -/
def execProofingLoafRenew (c : Nat) (loaf : Nat) (s : State) : Res :=
  let k := s.getCore c
  .next (match k.sp.proof with
    | none => s
    | some q =>
      match Tab.get q.map loaf, s.taskOf q.task, s.stepOf q.task q.wid with
      | some f, some t, some u =>
        if Tab.get k.sp.holder f ≠ some .proofing then s
        else if k.sp.live f s.tick then
          if (k.sp.loafAt f).expiry < s.tick + proofMargin then
            s.setCore { k with sp := { k.sp with loaf := Tab.put k.sp.loaf f (Loaf.mk maxLife (s.tick + maxLife)) } }
          else s
        else (s.preloadAll c (q.map.filter fun e => e.1 == loaf) t u .proofing).2
      | _, _, _ => s)

/-- Discards the proofing area of a core (R206). -/
def Core.dropProof (c : Core) : Core :=
  { c with sp := { c.sp with holder := c.sp.holder.filter fun h => h.2 != .proofing, proof := none } }

/-- Discards the proofing areas for steps of a context, wherever they stand (R206). -/
def State.dropProofs (s : State) (ctx : Nat) : State :=
  let f := fun (c : Core) => match c.sp.proof with
    | some q => if (s.taskOf q.task).map (·.ctx) = some ctx then c.dropProof else c
    | none => c
  { s with core := f s.core, others := s.others.map f }

/-- The proofing area's map becomes that of the step's member 0, on a core that holds one for it (R205); else loaves nobody
reserves. -/
def Core.launchMap (c : Core) (t : Task) (u : Step) (k n : Nat) : Core :=
  match c.sp.proof with
  | some q =>
    if k = 0 ∧ q.task = t.id ∧ q.wid = u.wid ∧ n ≤ q.map.length then
      { c with sp := { c.sp with
          map := q.map.take n
          holder := c.sp.holder.map fun h => if h.2 = .proofing then (h.1, .step) else h
          proof := none } }
    else
      let c := if q.task = t.id ∧ q.wid = u.wid then c.dropProof else c
      { c with sp := { c.sp with map := c.mapFor n } }
  | none => { c with sp := { c.sp with map := c.mapFor n } }

/-! ## Launch (01 R22; 04 R91, R92; 14 R320, R326) -/

/-- The state in which a step's kernel begins (04 R91). -/
def launchArch (t : Task) (u : Step) (m : Member) : Arch :=
  { Arch.reset with
    x := (Arch.reset.x.set 1 t.pblock).set 2 (BitVec.ofNat 64 u.wid)
    wid := BitVec.ofNat 64 u.wid
    depth := t.tiles.length
    widths := t.widths
    ckptmax := m.ckptmax }

/-- The pipe endpoints of member k of a variant (14 R320). -/
def endpointsOf (v : Variant) (k : Nat) : Vector Pipe 8 :=
  Vector.ofFn fun e =>
    match v.pipes.find? fun q => q.writer == k && q.wEnd == e.val with
    | some q => (Pipe.mk 1 q.depth q.reader q.rEnd 0 [] 0)
    | none =>
      match v.pipes.find? fun q => q.reader == k && q.rEnd == e.val with
      | some q => (Pipe.mk 2 q.depth q.writer q.wEnd 0 [] 0)
      | none => .reset

/-- Puts member k of a step on core p (01 R22; 04 R92; 16 R369). -/
def State.launchMember (s : State) (x : Ctx) (t : Task) (u : Step) (v : Nat) (k l p : Nat) : State :=
  match t.variants[v]?, (t.membersOf v)[k]? with
  | some g, some m =>
    let s := (s.occupy (clusterOf p)).clearImage x l
    let z := (Seat.mk t.ctx l x.vi t.id u.wid k m.loaves t.prio)
    let c := s.getCore p
    let pre := (c.sp.holder.filter fun h => h.2 == .proofing && !(c.sp.live h.1 s.tick)).map (·.1)
    let c := ({ c with sp := { c.sp with holder := c.sp.holder.filter fun h => !pre.contains h.1 } }.launchMap t u k m.loaves).take
      x z (launchArch t u m) m.entry
    let c := { c with
      eng := { c.eng with pipes := endpointsOf g k }
      bars := s.mem.bytes.slice (s.sbsOf x l) 4096
      ckId := c.freshId
      ckNext := c.ckNext + 1
      port := { c.port with l1d := if t.fences.getLsbD 0 then [] else c.port.l1d } }
    let s := ((s.setCore c).takeFollower p x.paired).bind x l p
    let missing := (preloadPlan t u).filter fun e =>
      ((Tab.get c.sp.map e.1).map fun f => Tab.get c.sp.holder f == none).getD false
    let s := if k ≠ 0 then s else
      missing.foldl
        (fun s e =>
          match Tab.get c.sp.map e.1 with
          | none => s
          | some f =>
            match s.preload p f t u .step e.2 with
            | (some d, s) => s.copyFault t.ctx l d.1 0 0 d.2 [] noPos
            | (none, s) => s) s
    (s.switch p).deliverAll
  | _, _ => s

/-- Ends the reservation of an island for a step (14 R327). -/
def State.endReserve (s : State) (task wid : Nat) : State :=
  { s with islands := s.islands.map fun i =>
    match i.reserve with
    | some r => if r.1 = task ∧ r.2.1 = wid then { i with reserve := none } else i
    | none => i }

/-- Whether a step is to move to a core that is named (17 R399; 22 R440). -/
def Step.moves (u : Step) : Bool := (u.migrate.bind fun m => m.2).isSome

/-- Makes a step resident on cores and charges it (R325, R326). -/
def State.seatStep (s : State) (isl vi cost : Nat) (t : Task) (u : Step) (v : Nat) (ls : List Nat) (at_ : Tab Nat) : State :=
  let s := (s.onAcct isl vi fun a => { a with admitted := a.admitted + cost }).endReserve t.id u.wid
  s.onStep t.id u.wid fun w =>
    { w with
      state := .resident, variant := v, lcores := ls, held := 0, residentAt := s.tick
      migrate := w.migrate.filter fun m => m.2.isNone
      rotate := false
      cores := ls.map fun l => (Tab.get at_ l).getD 0 }

/-- Discards what proofing areas are left for a step that has launched (log 110). -/
def State.dropAreas (s : State) (task wid : Nat) : State :=
  let f := fun (c : Core) => match c.sp.proof with
    | some q => if q.task = task ∧ q.wid = wid then c.dropProof else c
    | none => c
  { s with core := f s.core, others := s.others.map f }

/-- Launches a step that has not run yet; an area for it on another core goes. -/
def State.launchStep (s : State) (isl : Nat) (x : Ctx) (t : Task) (u : Step) (v : Nat) (ls : List Nat) (at_ : Tab Nat) :
    State :=
  let s := s.seatStep isl x.vi (s.variantCost isl t v) t u v ls at_
  let s := (ls.zip (List.range ls.length)).foldl (fun s e => s.launchMember x t u v e.2 e.1 ((Tab.get at_ e.1).getD 0)) s
  s.dropAreas t.id u.wid

/-! ## Redispatch (01 R24; 17 R397, R399) -/

/-- Writes a forwarding entry at a logical core's old core (15 R362), in the place of an older one for that logical core (17
R409); a full table gives up the earliest expiry. -/
def State.forwardTo (s : State) (ctx l old new : Nat) : State :=
  if old = new then s
  else
    let c := s.getCore old
    let f := (Fwd.mk ctx l new (s.tick + 64000))
    let rest := c.port.fwd.filter fun g => !(g.ctx == ctx && g.lcore == l)
    let keep := if rest.length < 8 then rest else (sortBy (·.expiry) rest).drop 1
    s.setCore { c with port := { c.port with fwd := keep ++ [f] } }

/-- The boost lease of a step that migrates goes with it from its cluster (16 R382). -/
def State.moveLease (s : State) (u : Step) (src dst : Nat) : State :=
  match (s.clusterAt src).lease with
  | none => s
  | some l =>
    if src = dst ∨ l.owner ≠ Owner.mk u.task u.wid then s
    else
      let b := s.islandOf dst
      if (s.clusterAt dst).lease.isNone && decide (l.remaining ≤ (s.islandAt b).pool) then
        let s := s.endLease src
        (s.onIsland b fun i => { i with pool := i.pool - l.remaining }).onCluster dst fun k =>
          { k with lease := some { l with frozen := false } }
      else s.endLease src

/-- Dispatches a step again onto cores, merging its images (R397); a migration is charged nothing, pins its logical cores
where they go and leaves forwarding entries (R399; 15 R358). -/
def State.resumeStep (s : State) (isl : Nat) (x : Ctx) (t : Task) (u : Step) (at_ : Tab Nat) : State :=
  let moved := decide (u.state = .migrating) || u.moves
  let cost := if u.state = .migrating then 0 else s.variantCost isl t u.variant
  let ms := (u.running u.lcores (t.membersOf u.variant)).map fun e => (e.1, e.2.1)
  let s := s.seatStep isl x.vi cost t u u.variant u.lcores at_
  let pin := fun (y : Ctx) => if moved then
      { y with pins := ms.foldl (fun l e => Tab.put l e.1 ((Tab.get at_ e.1).getD 0)) y.pins } else y
  let x := pin x
  let s := s.onCtx t.ctx pin
  let s := s.onStep t.id u.wid fun w => { w with cores := ms.map fun e => (Tab.get at_ e.1).getD 0 }
  let r := ms.foldl
    (fun (a : Bool × State) e =>
      if !a.1 then a
      else
        match (t.membersOf u.variant)[e.2]?, Tab.get at_ e.1 with
        | some m, some p => a.2.merge x (Seat.mk t.ctx e.1 x.vi t.id u.wid e.2 m.loaves t.prio) p
        | _, _ => a) (true, s)
  if !r.1 then r.2.mergeFails t.id u.wid
  else
    let s := r.2
    let s := if moved then at_.foldl (fun s e => match Tab.get u.was e.1 with
        | some o => s.forwardTo t.ctx e.1 o e.2
        | none => s) s else s
    match ms.head?.bind fun e => Tab.get at_ e.1 with
    | some n =>
      let s := match ms.head?.bind fun e => Tab.get u.was e.1 with
        | some o => if moved then s.moveLease u (clusterOf o) (clusterOf n) else s
        | none => s
      s.onCluster (clusterOf n) fun k => { k with lease := k.lease.map fun l =>
        { l with frozen := l.frozen && l.owner != Owner.mk u.task u.wid } }
    | none => s

/-- MERGE_ON_RESUME (R397): logical core l of a parked or migrating step is dispatched again on core c, its gang's other
members on cores of the same cluster; a step that is to move to a core that is named goes nowhere else (R399; 22 R440). -/
def execMergeOnResume (ctx : Nat) (l : Nat) (c : Nat) (s : State) : Res :=
  let isl := s.islandOf (clusterOf c)
  .next (match (s.considered isl).find? fun e => e.1.ctx == ctx && e.2.lcores.contains l && decide (e.2.state = .parked ∨ e.2.state = .migrating) with
    | none => s
    | some (t, u) =>
      match s.tenant t with
      | none => s
      | some (x, vi) =>
        let v := if u.moves then u else { u with migrate := some (l, some c) }
        let ms := (u.running u.lcores (t.membersOf u.variant)).map fun e => (e.1, e.2.2.loaves)
        if !(s.affords isl x.vi t u u.variant) || !(s.homes vi isl).contains (clusterOf c) then s
        else
          match placeAll x t v (clusterOf c) none (pinnedFirst x v ms) [] s with
          | (some r, w) => if Tab.get r l = some c then w.resumeStep isl x t u r else s
          | (none, _) => s)

/-! ## The pass over an island (14 R326, R327) -/

/-- Launches a step with the first of some variants that its island's balance covers and whose gang fits (R326); whether
one did. -/
def State.tryVariants (s : State) (isl : Nat) (x : Ctx) (t : Task) (u : Step) : List Nat → Bool × State
  | [] => (false, s)
  | v :: vs =>
    if s.affords isl x.vi t u v then
      match s.fit isl t u v with
      | (some (ls, r), s) =>
        (true, if u.state = .parked ∨ u.state = .migrating then s.resumeStep isl x t u r else s.launchStep isl x t u v ls r)
      | (none, s) => s.tryVariants isl x t u vs
    else s.tryVariants isl x t u vs

/-- Whether a step waits for energy (R326; 01 R24): its island's balance covers no permitted variant, and for a step that
has not run yet a core is free for one. -/
def State.lacksEnergy (s : State) (isl : Nat) (x : Ctx) (t : Task) (u : Step) : Bool :=
  ((permitted t u).all fun v => !(s.affords isl x.vi t u v)) &&
    (decide (u.state = .parked) || (permitted t u).any fun v => ((s.fit isl t u v).1).isSome)

/-- Considers one step of an island (R326): it launches, is held for energy, or waits. -/
def State.consider (s : State) (isl : Nat) (t : Task) (u : Step) : State :=
  match s.tenant t with
  | none => s
  | some (x, _) =>
    match s.tryVariants isl x t u (permitted t u) with
    | (true, s) => s
    | (false, s) =>
      if s.lacksEnergy isl x t u then
        s.onStep t.id u.wid fun w =>
          { w with held := max 1 w.held, state := if w.state = .ready then .held else w.state }
      else s

/-- Considers the steps of an island once, in order. -/
def State.dispatchPass (s : State) (isl : Nat) : State :=
  (s.considered isl).foldl
    (fun s e =>
      match s.stepOf e.1.id e.2.wid with
      | some u => s.consider isl e.1 u
      | none => s) s

/-! ## Pre-emption for priority 0 (14 R328; 08 R181) -/

/-- The state without the proofing areas of some cores (R206). -/
def State.unproofed (s : State) (ps : List Nat) : State := ps.foldl (fun s p => s.setCore (s.getCore p).dropProof) s

/-- Whether a permitted variant of a step fits a cluster, once some cores there have made way. -/
def State.fitsAfter (s : State) (cl : Nat) (ps : List Nat) (t : Task) (u : Step) (ok : Nat → Bool) : Bool :=
  (((s.tenant t).map fun x => x.2.mask.getLsbD cl).getD false) &&
    (permitted t u).any fun v => ok v && (((s.without ps).fitIn [cl] t u v).1).isSome

/-- The resident steps of an island that a priority-0 step may pre-empt and whose cores would fit it, least urgent and
youngest first; one in a trap handler after all others (R328, R181). -/
def State.victims (s : State) (isl : Nat) (t : Task) (u : Step) : List (Task × Step) :=
  let ok := s.steps.filterMap fun w => (s.taskOf w.task).bind fun k =>
    let cl := clusterOf (w.cores.headD 0)
    if w.state = .resident ∧ 0 < k.prio ∧ s.islandOf cl = isl ∧ (s.unproofed w.cores).fitsAfter cl w.cores t u (fun _ => true) = true
    then some (k, w) else none
  let order := fun (e : Task × Step) =>
    let busy := e.2.cores.any fun p => (s.getCore p).inTrap
    (b2n busy * 4 + (3 - e.1.prio)) * 2 ^ 66 + (2 ^ 66 - 1 - e.1.age)
  sortBy order ok

/-- The priority-0 steps of an island that wait for a core while no core can take them, on no island, in their order (R328). -/
def State.coreless (s : State) (isl : Nat) : List (Task × Step) :=
  (s.considered isl).filter fun e => e.1.prio == 0 && decide (e.2.state = .ready ∨ e.2.state = .parked) &&
    !((List.range 4).any fun i => (permitted e.1 e.2).any fun v => ((s.fit i e.1 e.2 v).1).isSome)

/-- Claims the cores of the best victim for the first priority-0 step that waits for a core and may pre-empt one, unless a
claim stands. -/
def State.claim (s : State) (isl : Nat) : State :=
  let stands := s.allCores.any fun c => (c.preempt.map (·.2)).getD false && s.islandOf (clusterOf c.pcore) == isl
  if stands then s
  else
    match (s.coreless isl).findSome? fun e => (s.victims isl e.1 e.2).head? with
    | none => s
    | some (_, w) => w.cores.foldl (fun s p => s.setCore { s.getCore p with preempt := some (s.tick, true) }) s

/-- STEP_DISPATCH (14 R326): a pass over an island, then the claim of a priority-0 step that found no core. -/
def execStepDispatch (isl : Nat) (s : State) : Res :=
  let i := isl % 4
  .next ((s.dispatchPass i).claim i)

/-- Whether parking the step on the current core would let another be launched in its place (R334). -/
def State.wouldYield (s : State) : Bool :=
  match s.core.seat with
  | none => false
  | some z =>
    match s.taskOf z.task, s.stepOf z.task z.wid with
    | some t, some u =>
      let cl := clusterOf s.core.pcore
      let isl := s.islandOf cl
      (s.considered isl).any fun e =>
        decide (e.2.state = .ready ∨ e.2.state = .parked) && decide (rankKey e.1 e.2 ≤ rankKey t u) &&
          s.fitsAfter cl u.cores e.1 e.2 fun v =>
            ((s.tenant e.1).map fun x => s.affords isl x.1.vi e.1 e.2 v).getD false
    | _, _ => false

/-! ## Kills (01 R24; 17 R409) -/

/-- STEP_KILL (01 R24; 17 R409): a resident or parked step. -/
def execStepKill (task : Nat) (wid : Nat) (s : State) : Res :=
  .next (match s.stepOf task wid with
    | some u => if u.state = .resident ∨ u.state = .parked ∨ u.state = .migrating then (s.killStep task wid).endReserve task wid else s
    | none => s)

end Sys2Proof.Machine
end

