-- ==== Sys2Proof/Machine/Checkpoint.lean ====
section
/-! DEFINITION. Checkpoint bundles and what ends a segment: CKPT, STEPEND, SYS, ERET, YIELD, FREEZE, SPAWN; retirement,
system-call entry, return from a trap, waking, pre-emption and the abandoned handler (01 R26 to R28; 04 R109 to R111; 07
R163, R164, R166; 08 R170 to R187; 14 R333, R334). -/

namespace Sys2Proof.Machine

/-! ## Commit and checkpoint (08 R170, R175, R177) -/

/-- Whether an entry takes effect at its commit itself (07 R160, R167). -/
def EKind.atCommit : EKind → Bool
  | .csr _ _ | .pairset _ _ => true
  | _ => false

/-- STATFL, which drains to the ring that the writes of stat.ring before it name (14 R339). -/
def EKind.isStatfl : EKind → Bool
  | .statfl => true
  | _ => false

/-- A write of stat.ring. -/
def EKind.setsRing : EKind → Bool
  | .csr n _ => n == 0x070
  | _ => false

/-- Commit of the segment: control-register writes and PAIRSETs act at once, everything else drains (07 R160, R167; 08
R177); writes of stat.ring keep their order among the STATFLs. -/
def State.commitAll (s : State) : State :=
  let n := s.core.drain.length
  let s := s.commit
  let old := s.core.drain.take n
  let new := s.core.drain.drop n
  let inOrder := (old.any fun e => e.kind.isStatfl || e.kind.setsRing) || new.any fun e => e.kind.isStatfl
  let now := fun (e : Entry) => e.kind.atCommit && !(inOrder && e.kind.setsRing)
  let s := s.upd fun c => { c with drain := old ++ new.filter fun e => !now e }
  (new.filter now).foldl (fun s e => (s.perform e).getD s) s

/-- Whether the kernel on the core waits for the old value of a committed atomic (08 R175). -/
def Core.awaitsOld (c : Core) : Bool :=
  c.drain.any fun e => e.ctx == c.self.1 && e.lcore == c.self.2 && (match e.kind with
    | .atom _ _ _ _ _ _ _ _ _ _ => true
    | _ => false)

/-- Commits the segment and takes the checkpoint at the bundle at hand; the atomics whose old values belong to it are
performed at once as far as they can be (08 R170, R175). -/
def State.checkpoint (s : State) : State :=
  drainWhile Core.awaitsOld 8192 (s.commitAll.upd fun c => c.takeCkpt c.pc)

/-- Whether any register is pending (03 R73): a checkpoint bundle waits for it (04 R109). -/
def Core.anyPending (c : Core) : Bool := c.pend.any fun q => q.dst ≠ .none

/-- CKPT (04 R109): nothing while a register is pending. -/
def execCkpt (s : State) : Res := .next (if s.core.anyPending then s else s.checkpoint)

/-- STEPEND (04 R111; 08 R170): nothing while a register is pending; then the checkpoint, whose segment the bundle begins,
and once the atomics of the segment before are performed the core issues nothing further; STEP_RETIRE ends the step. -/
def execStepend (s : State) : Res :=
  .next (if s.core.anyPending then s
  else
    let s := s.checkpoint
    if s.core.awaitsOld then s else s.upd fun c => { c with phase := .stepEnd })

/-- SYS (07 R163): ILLEGAL at S and H; else SYSCALL_ENTRY enters the steward. -/
def execSys (f : BitVec 6) (s : State) : Res :=
  s.whenOk (s.core.level = .u) (s.upd fun c => { c with phase := .sys f.toNat c.iss.pos c.pc })

/-- ERET (07 R164): PRIV at U; else ERET_RETURN goes back. -/
def execEret (s : State) : Res :=
  .next (if s.core.level = .u then s.trap tPRIV 0 0 else s.upd fun c => { c with phase := .eret c.iss.pos c.pc })

/-- SPAWN (14 R333): the packet's address a multiple of 64, else ALIGN. -/
def execSpawn (bar : Option BarOp) (x : SSrc) (s : State) : Res :=
  let va := (s.core.sx x).toNat
  .next (if va % 64 ≠ 0 then s.trap tALIGN 0 va
  else
    match bar with
    | none => s.withhold (.spawn va none)
    | some b => withBar s b true fun r => s.withhold (.spawn va (some r)))

/-! ## Leaving at a checkpoint (14 R334; 17 R399, R406) -/

/-- Parks the kernel of the current core at its checkpoint, without a rollback, when it stands where that is allowed. -/
def State.parkHere (s : State) : State := if s.core.atBoundary then s.park s.core.pcore else s

/-- The sensor of a core as a sort key: its reading above the lowest that it can give. -/
def Core.heatKey (c : Core) : Nat := (c.sensor.toInt + 32768).toNat

/-- The cores that a migration asked for by a sensor may go to (22 R440): in the cluster of the step, open to its
interface, without resident step, proofing area and quarantined pair, and below t_migrate. -/
def State.coolCores (s : State) (z : Seat) : List Nat :=
  let paired := ((Tab.get s.ctxs z.ctx).map fun x => x.paired).getD false
  let mine := ((s.viOf z.vi).map fun v => (maskClusters v.mask).contains (clusterOf s.core.pcore)).getD false
  let limit : Int := (limitAt (s.limits z.vi) 0 : Int)
  ((List.range 16).map (· + 16 * clusterOf s.core.pcore)).filter fun p =>
    mine && s.coreVacant p paired && (s.getCore p).sp.proof.isNone && decide ((s.getCore p).sensor.toInt < limit)

/-- The coolest of them, of equals the lowest pcore (22 R440). -/
def State.coolest (s : State) (z : Seat) : Option Nat := (sortBy (fun p => (s.getCore p).heatKey) (s.coolCores z)).head?

/-- Names the destination of the migration that the step on the current core is asked for, where it has none and a core
qualifies (22 R440). -/
def State.nameDest (s : State) (z : Seat) : State :=
  match (s.stepOf z.task z.wid).bind fun u => u.migrate with
  | some (l, none) =>
    match s.coolest z with
    | some p => s.onStep z.task z.wid fun u => { u with migrate := some (l, some p) }
    | none => s
  | _ => s

/-- A step whose last member has left for a migration waits for its destination (17 R399). -/
def State.parkedFor (s : State) (z : Seat) : State :=
  s.onStep z.task z.wid fun u => if u.state = .parked ∧ u.moves = true then { u with state := .migrating } else u

/-- Takes the step on the current core off, to move or to make way (17 R393, R399, R406). -/
def State.leaveNow (s : State) (z : Seat) : State := (s.park s.core.pcore).parkedFor z

/-- Whether the step on the current core is to leave at its checkpoint: for a migration that has its destination, or for a
rotation. -/
def State.wantsLeave (s : State) (z : Seat) : Bool := ((s.stepOf z.task z.wid).map fun u => u.moves || u.rotate).getD false

/-- At a checkpoint bundle just committed: a migration, once it has its destination, or a rotation takes the step off,
where the kernel may leave, with its committed engine commands done first (17 R393, R399, R406; 22 R440). The first component
is false where the bundle waits for those. -/
def State.leaveHere (s : State) : Bool × State :=
  match s.core.seat with
  | none => (true, s)
  | some z =>
    if s.core.level ≠ .u ∨ s.core.inTrap = true then (true, s)
    else
      let s := s.nameDest z
      if s.wantsLeave z then
        let s := drainWhile Core.mustDrain 8192 s
        if s.core.mustDrain then (false, s) else (true, if s.core.atBoundary then s.leaveNow z else s)
      else (true, s)

/-- Whether a step that may yield at its checkpoint waits for the engine commands that are completed first (14 R334; 17
R393). -/
def State.yieldHeld (s : State) : Bool := s.core.mustDrain && !s.core.yielded && s.core.seat.isSome && s.wouldYield

/-- YIELD (14 R334): commit and checkpoint; where another step would run in its place, the step is parked, its committed
engine commands done first, and its gang's other members leave at their next checkpoints. The second issue, after
redispatch, does not yield. -/
def execYield (s : State) : Res :=
  .next (if s.core.anyPending then s
  else
    let s := s.checkpoint
    match s.core.seat with
    | none => s
    | some z =>
      if s.core.awaitsOld || s.core.yielded || s.core.level != .u || s.core.inTrap || !s.wouldYield then s
      else
        let s := drainWhile Core.mustDrain 8192 s
        let t := (s.upd fun c => { c with yielded := true }).parkHere
        if t.core.seat.isSome then s
        else t.onStep z.task z.wid fun u => { u with rotate := decide (u.cores ≠ []) })

/-! ## FREEZE (07 R166) -/

/-- The request of a FREEZE: queued with its context, and pending until it ends. -/
def State.askFreeze (s : State) (d : PDst) (ctx req : Nat) : State :=
  (s.onCtx ctx fun x => { x with stopping := x.stopping ++ [req] }).addPend d (.freeze ctx req false none)
    (s.core.iss.unit % 2) false

/-- FREEZE (R166): a checkpoint bundle; then the request, unless it left at this very checkpoint before: then the bundle
joins it, and its status is 0 whenever and however the request ends. A FREEZE that is answered with status 1 or 2 at its issue
is taken as no request that left: issued again from its checkpoint it is answered anew, the model's choice (log 139). -/
def execFreeze (n : Bool) (d : SDst) (a : SSrc) (s : State) : Res :=
  if s.core.level = .u then .next (s.trap tPRIV 0 0)
  else .next (if s.core.anyPending then s
  else
    let s := s.checkpoint
    if s.core.awaitsOld then s
    else
      let v := s.core.sx a
      let ctx := wbits v 9 0
      let mode := wbits v 17 16
      let dst := pendX n d
      let req := mode + 4 * s.core.ckId
      let latch := s.core.iss.unit % 2
      let give := fun (s : State) (st : Nat) => s.addPend dst (.freeze ctx req false (some st)) latch false
      if mode = 3 ∨ v &&& ~~~(0x303FF : Word) ≠ 0 then give s 1
      else if s.core.frzCk = some s.core.ckId then
        if ((Tab.get s.ctxs ctx).map fun x => x.stopping.contains req).getD false then
          s.addPend dst (.freeze ctx req true none) latch false
        else give s 0
      else
        match Tab.get s.ctxs ctx with
        | none => give s 2
        | some x =>
          if x.vi ≠ s.core.vi then give s 2
          else (s.upd fun c => { c with frzCk := some c.ckId }).askFreeze dst ctx req)

/-! ## The ends of STEPEND, SYS and ERET (04 R111; 07 R163, R164) -/

/-- The committed entries of the core's atomics give no register a value any more. -/
def Core.dropOld (c : Core) : Core :=
  { c with drain := c.drain.map fun e => if e.ctx = c.self.1 ∧ e.lcore = c.self.2 then
      { e with kind := match e.kind with
        | .atom op va pa n cmp x o sc _ b => .atom op va pa n cmp x o sc none b
        | k => k }
    else e }

/-- The member on the current core has ended: it leaves, and the step retires with its last member (01 R23, R26; 14 R322;
log 24). -/
def State.endMember (s : State) (z : Seat) : State :=
  let p := s.core.pcore
  let s := ((s.payStay p).leave p).onStep z.task z.wid fun u =>
    { u with ended := NSet.add u.ended z.member, cores := u.cores.filter (· != p) }
  match s.stepOf z.task z.wid with
  | some u => if u.lcores.length ≤ u.ended.length then s.retireStep z.task z.wid
      else if u.cores = [] then s.onStep z.task z.wid fun u => { u with state := .parked, parkedAt := s.tick } else s
  | none => s

/-- STEP_RETIRE (04 R111; 01 R26): once everything in flight has landed, that without a destination too. -/
def execStepRetire (c : Nat) (s : State) : Res :=
  let s := s.switch c
  .next (if s.core.phase ≠ .stepEnd then s
  else if s.core.pend ≠ [] then s.upd Core.landAll
  else
    match s.core.seat with
    | none => s
    | some z => (((s.upd Core.landAll).commitAll).upd Core.dropOld).endMember z)

/-- SYSCALL_ENTRY (07 R163): once everything in flight has landed, the segment commits; when its atomics are performed
the steward is entered. The checkpoint stands at the bundle after SYS. -/
def execSyscallEntry (c : Nat) (s : State) : Res :=
  let s := s.switch c
  .next (match s.core.phase with
    | .sys fn pos bundle =>
      if s.core.pend ≠ [] then s.upd Core.landAll
      else
        let s := (s.upd Core.landAll).checkpoint
        if s.core.awaitsOld then s
        else s.enterTrap (causeWord false fn pos tSYSCALL) bundle 0 s.core.pc
    | _ => s)

/-- The reload of the kernel's state after a trap (07 R164): level and mode from trap.status, the state from trap.save;
none where its modulo sequencer does not agree with the code (17 R391). -/
def State.reload (s : State) : Option State :=
  let c := s.core
  let save := c.csr.save.toNat % 2 ^ 45
  let lv := if wbits c.csr.status 1 0 = 0 then Level.u else .s
  let a := archAt s.patched save c.eng.pipes
  let addr := s.patched.pnat save 8
  match deriveModulo (s.upd fun c => { c with level := lv }) a.modq with
  | (none, _) => none
  | (some q, s) =>
    let a := { a with modq := q }
    let kept := decide (addr = c.csr.ret.toNat) && decide (lv = .u)
    some (s.upd fun c =>
      { c with
        arch := a
        ck := a
        ckAddr := c.csr.ret
        pc := c.csr.ret
        level := lv
        phase := .run
        delay := .none
        lat := .replicate 8 0
        fspace := 3
        segBundles := 0
        ckId := if kept then c.ckKernel else c.freshId
        ckNext := c.ckNext + 1
        csr := { c.csr with status := c.csr.status &&& ~~~(4 : Word) } })


/-- ERET_RETURN (07 R164): once everything in flight has landed, the steward's segment commits, and its entries drain
as far as they can, its atomics all of them (12 R276); then ILLEGAL, for a trap.ret that is no multiple of 4 too (04 R101), or the kernel goes on there. -/
def execEretReturn (c : Nat) (s : State) : Res :=
  let s := s.switch c
  .next (match s.core.phase with
    | .eret pos bundle =>
      if s.core.pend ≠ [] then s.upd Core.landAll
      else
        let s := s.upd fun c => { c.landAll with pc := bundle }
        let s := ((s.commitAll.upd Core.dropOld).upd fun c => c.takeCkpt bundle)
        let s := drainWhile (fun c => c.stewardDraining || c.awaitsOld) 8192 s
        if s.core.awaitsOld then s else
        let plvl := wbits s.core.csr.status 1 0
        if 2 ≤ plvl ∨ levelCode s.core.level < plvl ∨ s.core.csr.ret.toNat % 4 ≠ 0 then s.trapAt pos tILLEGAL 0 0
        else
          match s.reload with
          | none => s.trapAt pos tILLEGAL 0 0
          | some s => s.lateDelivery
    | _ => s)

/-- SLEEP_WAKE (04 R110): the chip time reaches the sleep tick. -/
def execSleepWake (c : Nat) (s : State) : Res :=
  let s := s.switch c
  .next (match s.core.sleep with
    | some t => ((s.reach t.1).slept.upd Core.landDue).upd fun c => { c with sleep := none }
    | none => s)

/-! ## Pre-emption (01 R27, R28; 08 R181, R187; 09 R206) -/

/-- Pre-empts one core: parked where it stands at a boundary, else claimed from now on. Its proofing area goes where a
priority-0 step has claimed the core, and stays on any other pre-emption (09 R206). -/
def State.preemptCore (s : State) (p : Nat) : State :=
  let c := s.getCore p
  let s := if (c.preempt.map (·.2)).getD false then s.setCore c.dropProof else s
  if c.phase = .halted ∧ c.seat.isSome ∧ (c.level ≠ .u ∨ c.inTrap = true) ∧ c.mustDrain = false then (s.savedState p).park p
  else
    let t := s.parkBack p
    if (t.getCore p).seat.isNone then t
    else
      let c := s.getCore p
      s.setCore { c with preempt := some (c.preempt.getD (s.tick, false)) }

/-- PREEMPTION (08 R187; 01 R23): every member of the step on core c, each at its own boundary. A migration that was
asked for stays asked for (01 R28). -/
def execPreemption (c : Nat) (s : State) : Res :=
  .next (match (s.getCore c).seat with
    | none => s
    | some z =>
      match s.stepOf z.task z.wid with
      | some u => u.cores.foldl State.preemptCore s
      | none => s)

/-- LOGICAL_CORE_ABSENT (17 R393): logical core l of a context, resident, is left with a rollback, and so is every other
member of its step (01 R23). -/
def execLogicalCoreAbsent (ctx : Nat) (l : Nat) (s : State) : Res :=
  match s.place ctx l with
  | .resident p => execPreemption p s
  | _ => .next s

/-- The wait after which a pre-emption abandons a trap handler (08 R181). -/
def abandonAfter : Nat := 16000

/-- TRAP_HANDLER_ABANDON (08 R181), for a priority-0 step only: the handler's uncommitted segment goes; the step is parked
as trap.save holds it. -/
def execTrapHandlerAbandon (c : Nat) (s : State) : Res :=
  let k := s.getCore c
  .next (match k.preempt with
    | some (t, true) =>
      if k.seat.isSome ∧ k.inTrap = true ∧ k.phase = .run ∧ k.mustDrain = false then
        (((s.reach (t + abandonAfter)).setCore (((s.reach (t + abandonAfter)).getCore c).dropProof)).savedState c).park c
      else s
    | _ => s)

end Sys2Proof.Machine
end

