-- ==== Sys2Proof/Machine/Governor.lean ====
section
/-! DEFINITION. The governor: the interval boundary with grants, debits, warnings, half width, overruns, boost and
reservations; leases, sensors and gating (01 R13, R17; 14 R327, R329; 15 R364, R365; 16 R375 to R386). -/

namespace Sys2Proof.Machine

/-! ## The division of the grant (16 R376) -/

/-- The enabled interfaces, by number. -/
def State.enabled (s : State) : List (Nat × Vi) :=
  (List.range 64).filterMap fun i => match s.viOf i with
    | some v => if v.enabled then some (i, v) else none
    | none => none

/-- The clusters on an island. -/
def State.clustersOn (s : State) (isl : Nat) : List Nat := (List.range 8).filter fun c => s.islandOf c == isl

/-- The grants of isolated interfaces, in ascending order, and what is left of the budget. -/
def isoGrants : List (Nat × Vi) → Nat → List (Nat × Nat) × Nat
  | [], g => ([], g)
  | e :: es, g =>
    if e.2.isolated then
      let n := min e.2.buShare g
      let r := isoGrants es (g - n)
      ((e.2.island, n) :: r.1, r.2)
    else isoGrants es g

/-- Adds what a division left over, one each in order. -/
def addRest (l : List (Nat × Nat)) (total : Nat) : List (Nat × Nat) :=
  let rest := total - (l.map (·.2)).foldl (· + ·) 0
  (l.zip (List.range l.length)).map fun x => (x.1.1, x.1.2 + if x.2 < rest then 1 else 0)

/-- The grant of each island. -/
def State.grants (s : State) : List (Nat × Nat) :=
  let all := s.gov.watts * 2 / 5
  let iso := isoGrants s.enabled all
  let left := (List.range 4).filter fun i => !(iso.1.any fun g => g.1 == i) && !(s.clustersOn i).isEmpty
  let n := (left.map fun i => (s.clustersOn i).length).foldl (· + ·) 0
  iso.1 ++ addRest (left.map fun i => (i, iso.2 * (s.clustersOn i).length / n)) iso.2

/-- The grant of one island. -/
def State.grantOf (s : State) (isl : Nat) : Nat :=
  ((s.grants.filter fun g => g.1 == isl).map (·.2)).foldl (· + ·) 0

/-- The accounts of an island with their grants: one when it is isolated, else one for each interface that uses it. -/
def State.shares (s : State) (isl : Nat) : List (Option Nat × Nat) :=
  let g := s.grantOf isl
  if s.enabled.any fun e => e.2.isolated && e.2.island == isl then [(none, g)]
  else
    let vs := s.enabled.filter fun e => !e.2.isolated && (s.clustersOn isl).any fun c => e.2.mask.getLsbD c
    let total := (vs.map fun e => e.2.buShare).foldl (· + ·) 0
    (addRest (vs.map fun e => (e.1, if total = 0 then g / vs.length else g * e.2.buShare / total)) g).map
      fun x => (some x.1, x.2)

/-! ## Debits (16 R377, R378, R383) -/

/-- The stays of kernels on a core in the interval that ends now (16 R383): those that ended in it, and the one at hand; the
second core of a pair works for the kernel of its leader. -/
def State.staysOn (s : State) (p : Nat) : List Stay :=
  let stop := s.interval * intervalTicks
  let at_ := fun (z : Seat) => ((s.stepOf z.task z.wid).map (·.residentAt)).getD 0
  (s.stays.filter fun y => y.core == p) ++
    ((s.seatOf p).map fun z => Stay.mk p z (stop - max (stop - intervalTicks) (at_ z)) none).toList

/-- A core's energy divided among the stays on it (16 R383): what a retirement added stays as it is, the rest goes by
resident time; what is over belongs to idle time (log 112). -/
def shareStays (ys : List Stay) (e : Nat) : List (Stay × Nat) :=
  let paid := ys.filter fun y => y.paid.isSome
  let sum := (paid.map fun y => y.paid.getD 0).foldl (· + ·) 0
  let ticks := (paid.map (·.ticks)).foldl (· + ·) 0
  ys.map fun y => (y, y.paid.getD ((e - sum) * y.ticks / (intervalTicks - ticks)))

/-- The energy shares of an interval on an island, stay by stay (16 R383), from the cores' energies. -/
def State.stayShares (s : State) (isl : Nat) (es : List EnergyShare) : List (Stay × Nat) :=
  let ps := (s.allCores.map (·.pcore) ++ s.stays.map (·.core)).dedup.filter fun p => s.islandOf (clusterOf p) == isl
  ps.flatMap fun p =>
    shareStays (s.staysOn p) (((es.filter fun e => e.core % 128 == p).map (·.microjoules)).foldl (· + ·) 0)

/-- The energy shares of an interval that go to the steps that were resident on an island. -/
def State.stepShares (s : State) (isl : Nat) (es : List EnergyShare) : List (Seat × Nat) :=
  (s.stayShares isl es).map fun y => (y.1.seat, y.2)

/-- The measured energy of an island as it is divided: the shares sum to it (16 R383), so that it is at least their sum. -/
def State.islandEnergy (s : State) (isl : Nat) (measured : List Nat) (es : List EnergyShare) : Nat :=
  max (measured.getD isl 0) (((s.stepShares isl es).map (·.2)).foldl (· + ·) 0)

/-- Divides idle energy among accounts in proportion to their grants, exactly (16 R383). -/
def idleShares (accts : List Acct) (idle : Nat) : List (Nat × Nat) :=
  let total := (accts.map (·.grant)).foldl (· + ·) 0
  addRest ((accts.zip (List.range accts.length)).map fun x =>
    (x.2, if total = 0 then idle / accts.length else idle * x.1.grant / total)) idle

/-- The debit of an account for an interval (16 R378): the energy in microjoules, to budget units with the carry, and its
memory. -/
def Acct.debit (a : Acct) (energy : Nat) : Nat := (energy + a.carry) / ujPerBu + a.sectors / sectorsPerBu

/-- An account's energy on an island: its steps' shares and its part of the idle energy. -/
def Acct.energy (a : Acct) (shares : List (Seat × Nat)) (idle : Nat) : Nat :=
  ((shares.filter fun x => a.charges a.island x.1.vi).map (·.2)).foldl (· + ·) 0 + idle

/-- The accounts of an island after their debits, the grants of the next interval not yet added; with each debit. -/
def State.debited (s : State) (isl measured : Nat) (es : List EnergyShare) : List (Acct × Nat) :=
  let own := s.accts.filter fun a => a.island == isl
  let shares := s.stepShares isl es
  let idle := idleShares own (measured - (shares.map (·.2)).foldl (· + ·) 0)
  (own.zip (List.range own.length)).map fun x =>
    let e := x.1.energy shares (((idle.find? fun i => i.1 == x.2).map (·.2)).getD 0)
    let d := x.1.debit e
    ({ x.1 with
      balance := x.1.balance - (d : Int), carry := (e + x.1.carry) % ujPerBu, sectors := x.1.sectors % sectorsPerBu
      admitted := 0 }, d)

/-- The joules that a step gains at a boundary for the device memory that it moved (16 R383). -/
def Step.gain (u : Step) : Nat := ujPerBu * (u.sectors / sectorsPerBu - u.sectorsAt / sectorsPerBu)

/-- The share of a step in an interval. -/
def shareOf (shares : List (Seat × Nat)) (u : Step) : Nat :=
  ((shares.filter fun x => x.1.task == u.task && x.1.wid == u.wid).map (·.2)).foldl (· + ·) 0

/-- Whether a step overran its class cost in an interval of half width (16 R381). -/
def State.overran (s : State) (shares : List (Seat × Nat)) (isl : Nat) (u : Step) : Bool :=
  match s.taskOf u.task with
  | none => false
  | some t =>
    let cost := s.variantCost isl t u.variant
    s.narrow isl && decide (0 < cost) && decide (u.state = .resident) &&
      decide (2 * cost * ujPerBu * sectorsPerBu < shareOf shares u * sectorsPerBu + (u.sectors - u.sectorsAt) * ujPerBu)

/-! ## What the boundary brings into force (01 R13; 15 R364, R365; 16 R375) -/

/-- Whether a cluster may change its rail: gated and without a resident step (R13). -/
def State.railFree (s : State) (cl : Nat) : Bool := (s.clusterAt cl).gated && !s.clusterBusy cl

/-- The held changes of the switch matrix that may apply now (R365). -/
def State.applyRails (s : State) : State :=
  (List.range 8).foldl
    (fun s cl =>
      if s.ten.railPend.getLsbD cl && s.railFree cl then
        let new := s.ten.railNew.toNat / 4 ^ cl % 4
        { s with ten := { s.ten with
          rail := BitVec.ofNat 16 (setBits s.ten.rail.toNat (2 * cl + 1) (2 * cl) new)
          railPend := BitVec.ofNat 8 (setBits s.ten.railPend.toNat cl cl 0) } }
      else s) s

/-- The fields of an interface that act from an interval boundary (R364). -/
def Vi.boundary (v new : Vi) : Vi :=
  { v with enabled := new.enabled, isolated := new.isolated, island := new.island, buShare := new.buShare }

/-- Interfaces, rails and the governor's registers as the next interval has them. -/
def State.applyPending (s : State) : State :=
  let s := s.applyRails
  { s with
    gov := s.govNext
    vit := Vector.ofFn fun i => match s.vit[i], s.vitNext[i] with
      | some v, some w => some (v.boundary w)
      | o, _ => o }

/-- The largest balance of an account (01 R17, 16 R378). -/
def capBalance (b : Int) (grant : Nat) : Int :=
  let b := satInt true 32 b
  if (4 * grant : Int) < b then 4 * grant else b

/-- The accounts of the next interval: the grants divided anew, balances kept where an account goes on (16 R376, R378). -/
def State.regrant (s : State) (old : List Acct) : List Acct :=
  (List.range 4).flatMap fun isl =>
    (s.shares isl).map fun g =>
      match old.find? fun a => a.island == isl && a.vi == g.1 with
      | some a => { a with grant := g.2, balance := capBalance (a.balance + (g.2 : Int)) g.2 }
      | none => (Acct.mk isl g.1 (capBalance (g.2 : Int) g.2) g.2 0 0 0)

/-! ## Warnings and half width (16 R379, R380) -/

/-- The balance of an island: the sum of its accounts (16 R376). -/
def State.islandBalance (s : State) (isl : Nat) : Int :=
  ((s.accts.filter fun a => a.island == isl).map (·.balance)).foldl (· + ·) 0

/-- THROTWARN to every resident logical core of the contexts charged on an island (16 R379; 08 R184). -/
def State.throtWarn (s : State) (isl : Nat) : State :=
  s.allCores.foldl
    (fun s c =>
      match c.seat with
      | some z =>
        if s.islandOf (clusterOf c.pcore) = isl then
          s.trapRec z.ctx z.lcore (eventRec cTHROTWARN isl 0 0 s.tick 0 0 [] noPos)
        else s
      | none => s) s

/-- The warning and the half-width mode of an island at boundary k, given the debits of the interval ended. -/
def State.throttle (s : State) (k isl : Nat) (debit : Nat) : State :=
  let b := s.islandBalance isl
  let low := decide (b + 2 * ((s.grantOf isl : Int) - (debit : Int)) < 0) || decide (b < 0)
  let i := s.islandAt isl
  let s := if low && !i.warned then s.throtWarn isl else s
  s.onIsland isl fun i =>
    let half := if b < 0 then i.half || (i.warned && decide (i.warnedAt + 2 ≤ k)) else false
    { i with warned := low, warnedAt := if low && !i.warned then k else i.warnedAt, half := half }

/-! ## Boost (16 R382) -/

/-- The clock of a cluster in the interval that begins, and the permit it spends; a fall that has begun goes on whatever its
island does. -/
def State.boostCluster (s : State) (cl : Nat) : State :=
  let clock := s.nextClock cl
  let i := s.islandOf cl
  let still := (s.islandAt i).warned || s.narrow i
  s.onCluster cl fun k =>
    match k.lease with
    | some l =>
      if l.frozen ∨ (still = true ∧ 0 < l.remaining) then { k with clock := clock, fall := 0 }
      else if 0 < l.remaining then
        { k with clock := clock, lease := some { l with remaining := l.remaining - 1 }, fall := if l.remaining = 1 then 1 else 0 }
      else { k with clock := clock, lease := none, fall := 0 }
    | none => { k with clock := clock, fall := 0 }

/-- The clocks of all clusters, decided together before any permit is spent. -/
def State.boostAll (s : State) : State :=
  let t := (List.range 8).foldl State.boostCluster s
  (List.range 8).foldl (fun t cl => t.onCluster cl fun k => { k with clock := s.nextClock cl }) t

/-- The refill of an idle island's pool (16 R382); an interval in which a step left the island is none of its idle ones. -/
def State.refill (s : State) (isl : Nat) : State :=
  let used := fun (cl : Nat) => s.clusterBusy cl || decide ((s.interval - 1) * intervalTicks < (s.clusterAt cl).idleSince)
  if (s.clustersOn isl).any used then s.onIsland isl fun i => { i with idleFor := 0 }
  else
    s.onIsland isl fun i =>
      if 8 ≤ i.idleFor + 1 then { i with idleFor := 0, pool := min 64 (i.pool + 1) } else { i with idleFor := i.idleFor + 1 }

/-! ## Holding and reservations (14 R327) -/

/-- Counts the intervals that steps are held. -/
def State.countHeld (s : State) : State :=
  { s with steps := s.steps.map fun u =>
    if 0 < u.held ∧ (u.state = .held ∨ u.state = .parked) then { u with held := u.held + 1 } else { u with held := 0 } }

/-- The least of some costs. -/
def least : List Nat → Nat
  | [] => 0
  | c :: cs => cs.foldl min c

/-- The reservation of an island: kept while its step is still considered and held, else given to the first candidate. -/
def State.reserveFor (s : State) (isl : Nat) : State :=
  let held := (s.considered isl).filter fun e => 0 < e.2.held
  let keep := match (s.islandAt isl).reserve with
    | some r => held.any fun e => e.1.id == r.1 && e.2.wid == r.2.1
    | none => false
  if keep then s
  else
    s.onIsland isl fun i =>
      { i with reserve := (held.find? fun e => 8 < e.2.held - 1).map fun e =>
        (e.1.id, e.2.wid, least ((permitted e.1 e.2).map fun v => s.variantCost isl e.1 v), e.1.prio) }

/-! ## The boundary -/

/-- Whether the counter has started over since the interval at hand began (16 R367). -/
def State.wrapped (s : State) : Bool := decide (s.tick < s.interval * intervalTicks)

/-- The interval after the one at hand (16 R368): the first again where the counter starts over before another begins. -/
def State.nextInterval (s : State) : Nat :=
  if s.wrapped = true ∨ 2 ^ 64 ≤ (s.interval + 1) * intervalTicks then 0 else s.interval + 1

/-- BUDGET_INTERVAL_BOUNDARY (16 R378): the end of an interval with the measured energy of the islands and the shares of
the cores, both from outside (16 R383; log 19). -/
def State.boundary (s : State) (measured : List Nat) (es : List EnergyShare) : State :=
  let k := s.nextInterval
  let s := { s.reach (if k = 0 ∧ s.wrapped = false then 2 ^ 64 else k * intervalTicks) with interval := k }
  let energy := fun (isl : Nat) => s.islandEnergy isl measured es
  let all := (List.range 4).map fun isl => (isl, s.debited isl (energy isl) es, s.stepShares isl es)
  let owed := (List.range 4).flatMap fun isl => (s.stayShares isl es).filter fun y => y.1.paid.isNone
  let used := (List.range 4).map energy
  let over_ := all.flatMap fun x => (s.steps.filter fun u =>
    u.cores.any (fun p => s.islandOf (clusterOf p) == x.1) && s.overran x.2.2 x.1 u).map fun u => (x.1, u)
  let s := owed.foldl (fun s y => s.addJoules y.1.seat.task y.1.seat.wid y.2) s
  let s := s.steps.foldl
    (fun s u => (s.addJoules u.task u.wid u.gain).onStep u.task u.wid fun w => { w with sectorsAt := w.sectors }) s
  let s := all.foldl
    (fun s x =>
      let mem := ((s.accts.filter fun a => a.island == x.1).map fun a => a.sectors / sectorsPerBu).foldl (· + ·) 0
      s.onIsland x.1 fun i => { i with joule := satAdd i.joule (used.getD x.1 0 + ujPerBu * mem) }) s
  let old := all.flatMap fun x => x.2.1.map (·.1)
  let s := s.applyPending
  let s := { s with accts := s.regrant old }
  let s := all.foldl (fun s x => s.throttle k x.1 ((x.2.1.map (·.2)).foldl (· + ·) 0)) s
  let s := (List.range 4).foldl State.refill s.boostAll
  let s := (List.range 4).foldl State.reserveFor s.countHeld
  over_.foldl
    (fun s u => (u.2.cores.foldl State.preemptCore s).onStep u.2.task u.2.wid fun w => { w with notBefore := (k + 1, u.1) })
    { s with stays := [], passDue := true }

/-- BUDGET_INTERVAL_BOUNDARY (16 R378). -/
def execBudgetIntervalBoundary (isl : List Nat) (shares : List EnergyShare) (s : State) : Res := .next (s.boundary isl shares)

/-- BOOST_LEASE_EXPIRE (16 R382): the tick of the expiry is reached, and the permits return. -/
def execBoostLeaseExpire (cl : Nat) (s : State) : Res :=
  .next (match (s.clusterAt (cl % 8)).lease with
    | some l => (s.reach l.expiry).endLease (cl % 8)
    | none => s)

/-! ## Sensors (16 R384; 07 R157) -/

/-- The thresholds that act on an island: the chip's, and those of an interface isolated there (R157). -/
def State.islandLimits (s : State) (isl : Nat) : Word :=
  match s.enabled.find? fun e => e.2.isolated && e.2.island == isl with
  | some e => s.limits e.1
  | none => s.limH

/-- The sensors of an island. -/
def State.islandSensors (s : State) (isl : Nat) : List (BitVec 16) := (s.clustersOn isl).flatMap s.clusterSensors

/-- The thermal half-width mode of an island as its hottest sensor says (R384). -/
def State.heat (s : State) (isl : Nat) : State :=
  let l := s.islandSensors isl
  let t := (hottest l).toInt
  let lim : Int := (limitAt (s.islandLimits isl) 1 : Int)
  if l = [] then s
  else s.onIsland isl fun i => { i with hot := if lim ≤ t then true else if t < lim - 32 then false else i.hot }

/-- Asks for the migration of the step on a core whose sensor is at t_migrate (R384; 17 R399), the second core of a pair
among them, unless one is asked for. -/
def State.coolStep (s : State) (p : Nat) : State :=
  match s.seatOf p with
  | none => s
  | some z =>
    if (limitAt (s.limits z.vi) 0 : Int) ≤ (s.getCore p).sensor.toInt then
      s.onStep z.task z.wid fun u => { u with migrate := some (u.migrate.getD (z.lcore, none)) }
    else s

/-- The emergency save begins (17 R408, step 1): half width, and a suspension of every context that it covers, of one that
is resuming once its resume has ended; the contexts are then taken one by one (emergencySave). -/
def State.emergency (s : State) (isls : List Nat) (covers : Ctx → Bool) : State :=
  let s := isls.foldl (fun s i => s.onIsland i fun x => { x with hot := true }) s
  let new := (s.ctxs.filter fun e => covers e.2 && !(s.saves.any fun v => v.1 == e.1)).map fun e => (e.1, false)
  { s with
    saves := s.saves ++ new
    ctxs := s.ctxs.map fun e =>
      if covers e.2 ∧ (e.2.state = 0 ∧ e.2.stopping = [] ∨ e.2.state = 3 ∧ !e.2.stopping.contains 0) then
        (e.1, { e.2 with stopping := e.2.stopping ++ [0] }) else e }

/-- What the readings at t_save start: the chip's own threshold saves all, an isolated interface's lower one its own. -/
def State.saveHeat (s : State) : State :=
  let at_ := fun (isl : Nat) (w : Word) => (s.islandSensors isl).any fun t => decide ((limitAt w 2 : Int) ≤ t.toInt)
  if (List.range 4).any fun i => at_ i s.limH then s.emergency [0, 1, 2, 3] fun _ => true
  else
    (s.enabled.filter fun e => e.2.isolated && at_ e.2.island (s.limits e.1)).foldl
      (fun s e => s.emergency [e.2.island] fun x => x.vi == e.1) s

/-- A reading with the board block's offset for its sensor (18 R421): the slices' follow the 128 cores' (log 137). -/
def State.adjust (s : State) (base : Nat) (r : Reading) : Reading :=
  { r with value := r.value + ((s.board.map (·.offsets)).getD []).getD (base + r.which) 0 }

/-- Takes the readings of a sample. The coolant's last one stands until its sensor has been silent for 100 ms (R418). -/
def State.readSensors (s : State) (cores slices : List Reading) (cool : Option (BitVec 16)) : State :=
  let s := { s with coolant := { s.coolant with
    reading := if s.coolant.faults.contains CoolFault.silent then none else cool.or s.coolant.reading
    heardTemp := if cool.isSome then s.tick else s.coolant.heardTemp } }
  let s := cores.foldl
    (fun s r =>
      let c := s.getCore (r.which % 128)
      s.setCore { c with sensor := r.value }) s
  { s with sliceSensor := slices.foldl (fun l r => (l.filter fun o => o.which != r.which) ++ [r]) s.sliceSensor }

/-- The hottest reading of the chip (17 R408). -/
def State.hottestReading (s : State) : BitVec 16 := hottest (s.allCores.map (·.sensor) ++ s.sliceSensor.map (·.value))

/-- SENSOR_SAMPLE (R384): readings of core and slice sensors, with the board block's offsets, and what they cause; t_trip
powers the device off. -/
def State.sample (s : State) (cores slices : List Reading) (cool : Option (BitVec 16)) : State :=
  let cores := cores.map fun r => s.adjust 0 { r with which := r.which % 128 }
  let slices := slices.map (s.adjust 128)
  let s := s.readSensors cores slices cool
  let s := (List.range 4).foldl State.heat s
  let s := cores.foldl (fun s r => s.coolStep r.which) s
  let s := { s with heats := (s.hottestReading :: s.heats).take 100 }.saveHeat
  if (cores ++ slices).any fun r => decide ((limitAt limitsReset 3 : Int) ≤ r.value.toInt) then { s with power := .off }
  else s

/-- SENSOR_SAMPLE (16 R384). -/
def execSensorSample (cores : List Reading) (slices : List Reading) (cool : Option (BitVec 16)) (s : State) : Res :=
  .next (s.sample cores slices cool)

/-! ## Gating (16 R386) -/

/-- Whether a cluster may be gated: empty, without a proofing area or a Ready step, and worth it. -/
def State.mayGate (s : State) (cl : Nat) : Bool :=
  let k := s.clusterAt cl
  !s.clusterBusy cl && !k.gated &&
    !((List.range 16).any fun i => (s.getCore (16 * cl + i)).sp.proof.isSome) &&
    !((s.considered (s.islandOf cl)).any fun e =>
      e.2.state = .ready && (((s.tenant e.1).map fun x => x.2.mask.getLsbD cl).getD false)) &&
    decide (s.gov.pairUj * 1000000 ≤ least k.idle * s.gov.leakMw)

/-- CLUSTER_GATE (R386). -/
def execClusterGate (cl : Nat) (s : State) : Res :=
  .next (if s.mayGate (cl % 8) then s.onCluster (cl % 8) fun k => { k with gated := true } else s)

end Sys2Proof.Machine
end

