-- ==== Sys2Proof/Machine/Contexts.lean ====
section
/-! DEFINITION. Contexts: creation and destruction, suspension, the freeze into a reflection and resume, migration
requests, rotation, graph instances, loaf expiry, bank grants and quarantined pairs (01 R18, R24; 07 R166; 08 R192; 09
R197, R208; 15 R357, R360; 16 R369; 17 R388, R399 to R409). -/

namespace Sys2Proof.Machine

/-! ## FREEZE requests (07 R166; 17 R393) -/

/-- The tasks of a context. -/
def State.tasksOf (s : State) (ctx : Nat) : List Task := s.tasks.filter fun t => t.ctx == ctx

/-- The cores on which kernels of a context are resident. -/
def State.coresOf (s : State) (ctx : Nat) : List Nat :=
  (s.allCores.filter fun c => (c.seat.map (·.ctx)) == some ctx).map (·.pcore)

/-- The request of a context that is to be carried out in a mode: the first queued one if it has that mode, or the
device's own when none is queued. -/
def Ctx.request (x : Ctx) (mode : Nat) : Option Nat :=
  match x.stopping with
  | [] => some mode
  | r :: _ => if r % 4 = mode then some r else none

/-- Ends a request of a context: every register that waits for it gets the status, 0 where the bundle had joined its own
earlier request (R166). -/
def State.endFreeze (s : State) (ctx req st : Nat) : State :=
  let f := fun (c : Core) => { c with pend := c.pend.map fun q =>
    match q.wait with
    | .freeze k r j none => if k = ctx ∧ r = req then { q with wait := .freeze k r j (some (if j then 0 else st)) } else q
    | _ => q }
  ({ s with core := f s.core, others := s.others.map f }).onCtx ctx fun x =>
    { x with stopping := if x.stopping.head? = some req then x.stopping.tail else x.stopping }

/-- Whether a core waits for a FREEZE request on its own kernel's context (17 R409). -/
def Core.freezesSelf (c : Core) (ctx : Nat) : Bool :=
  c.pend.any fun q => match q.wait with
    | .freeze k _ _ _ => k == ctx
    | _ => false

/-- Stops core p for a suspension (17 R393): at once at a boundary or after a double fault, else later. -/
def State.stopCore (s : State) (p : Nat) : State :=
  let c := s.getCore p
  if c.phase = .halted ∧ c.seat.isSome ∧ (c.level ≠ .u ∨ c.inTrap = true) ∧ c.mustDrain = false then (s.savedState p).park p
  else s.parkBack p

/-- Stops what can be stopped of a context: proofing areas, resident kernels and requested moves (R393, R399). A migration
that has left its core goes on (R409). -/
def State.stopCtx (s : State) (ctx : Nat) : State :=
  let s := (s.coresOf ctx).foldl State.stopCore (s.dropProofs ctx)
  let ids := (s.tasksOf ctx).map (·.id)
  { s with steps := s.steps.map fun u =>
    if ids.contains u.task ∧ u.state ≠ .migrating then { u with migrate := none, rotate := false } else u }

/-- Whether a step of a context is between its cores (17 R399, R409). -/
def State.migrates (s : State) (ctx : Nat) : Bool :=
  s.steps.any fun u => u.state = .migrating && ((s.taskOf u.task).map (·.ctx)) == some ctx

/-- A request of a trap handler on its own kernel's context has its status once every other core of the context is left;
its own core is left after its ERET (17 R409). -/
def State.ownStatus (s : State) (ctx req : Nat) : State :=
  let cs := s.coresOf ctx
  if cs ≠ [] ∧ (cs.all fun p => (s.getCore p).freezesSelf ctx) = true then
    cs.foldl
      (fun s p =>
        let c := s.getCore p
        s.setCore { c with pend := c.pend.map fun q =>
          match q.wait with
          | .freeze k r j none => if k = ctx ∧ r = req then { q with wait := .freeze k r j (some 0) } else q
          | _ => q }) s
  else s

/-- Writes the state of a context into its header (17 R400); a suspension or freeze is noted (12 R285). -/
def State.putState (s : State) (ctx v : Nat) : State :=
  match Tab.get s.ctxs ctx with
  | some x => (s.stream x.header [(48, 1, v)]).onCtx ctx fun x =>
    { x with state := v, stopAt := if v = 0 ∨ v = 3 then x.stopAt else s.tick }
  | none => s

/-- Queues a request of the device's own where none is queued. -/
def State.openRequest (s : State) (ctx req : Nat) : State :=
  s.onCtx ctx fun x => if x.stopping = [] then { x with stopping := [req] } else x

/-- CONTEXT_SUSPEND (R166, R393, R409): the request ends when every logical core of the context is absent. -/
def execContextSuspend (ctx : Nat) (s : State) : Res :=
  .next (match Tab.get s.ctxs ctx with
    | none => s
    | some x =>
      match x.request 0 with
      | none => s
      | some r =>
        if x.state ≠ 0 then s.endFreeze ctx r 0
        else
          let s := (s.openRequest ctx r).stopCtx ctx
          if s.coresOf ctx = [] ∧ s.migrates ctx = false then (s.putState ctx 1).endFreeze ctx r 0 else s.ownStatus ctx r)

/-! ## The freeze into a reflection (17 R402) -/

/-- Whether nothing of a context is in flight any more (R402, step 2): the copies and matrix commands that a step committed
before it retired are done too (12 R284), and its statistics records are written (14 R338). -/
def State.quiet (s : State) (ctx : Nat) (x : Ctx) : Bool :=
  (s.allCores.all fun c =>
    !(c.eng.bte.any fun k => k.ctx == ctx && k.state != .halted) && !(c.drain.any fun e => e.ctx == ctx) &&
      !(c.mx.queue.any fun m => m.ctx == ctx) && !(c.mx.pushing.any fun m => m.1.ctx == ctx) &&
      !(c.port.window.any fun m => m.ctx == ctx) && !(c.eng.statq.any fun r => r.ctx == ctx)) &&
    (List.range x.lcores).all fun l => s.divPending x l == 0

/-- The largest gang of a context's active tasks (R400). -/
def State.largestGang (s : State) (ctx : Nat) : Nat :=
  ((s.tasksOf ctx).filter fun t => !t.retired).foldl
    (fun m t => t.variants.foldl (fun m v => max m v.members.length) m) 1

/-- Writes a task's completion bitmap into the walker area (R401). -/
def State.putBitmap (s : State) (x : Ctx) (t : Task) : State :=
  s.stream ((s.walkerOf x).1 + t.bitmap) [(0, bitmapBytes t.steps, t.done.foldl (fun v n => v + 2 ^ n) 0)]

/-- Writes the reflection's part that the device holds: entries, bitmaps, the header (R402, steps 3 and 4). -/
def State.writeReflection (s : State) (ctx : Nat) (x : Ctx) : State :=
  let s : State := (s.tasksOf ctx).foldl
    (fun (s : State) (t : Task) => (if t.retired then s else s.putEntry x t).putBitmap x t) s
  (s.stream x.header
    [(56, 8, s.tick), (64, 8, x.joule), (72, 2, s.largestGang ctx), (74, 1, b2n x.paired)]).putState ctx 2

/-- CONTEXT_FREEZE_REFLECTION (R402). -/
def execContextFreezeReflection (ctx : Nat) (s : State) : Res :=
  .next (match Tab.get s.ctxs ctx with
    | none => s
    | some x =>
      match x.request 1 with
      | none => s
      | some r =>
        if x.state = 2 then s.endFreeze ctx r 0
        else
          let s := (s.openRequest ctx r).stopCtx ctx
          if s.coresOf ctx ≠ [] ∨ s.migrates ctx = true then s.ownStatus ctx r
          else
            let s := if x.state = 0 then s.putState ctx 1 else s
            if s.quiet ctx x then (s.writeReflection ctx x).endFreeze ctx r 0 else s)

/-! ## Resume (17 R404, R405) -/

/-- Whether an emergency save covers a context now (R408, R409; log 27). -/
def State.saving (s : State) (x : Ctx) : Bool :=
  let at_ := fun (isl : Nat) (w : Word) => (s.islandSensors isl).any fun t => decide ((limitAt w 2 : Int) ≤ t.toInt)
  ((List.range 4).any fun i => at_ i s.limH) ||
    match s.viOf x.vi with
    | some v => v.isolated && at_ v.island (s.limits x.vi)
    | none => false

/-- Whether the gangs of a frozen context fit (R404). -/
def State.fitsHere (s : State) (x : Ctx) : Bool :=
  let gang := s.pnat (x.header + 72) 2
  decide (gang ≤ x.lclCores) &&
    (s.pnat (x.header + 74) 1 != 1 ||
      match s.viOf x.vi with
      | some v => (maskClusters v.mask).all fun cl =>
          decide (gang ≤ ((List.range 8).filter fun k => s.pairHealthy (8 * cl + k)).length)
      | none => false)

/-- A saved tick after a resume (R405): moved by the ticks since the freeze, so that what remains of its wait stays; one
that would lie before tick 0 is reached already, and is 0. -/
def shiftTick (t now frozen : Nat) : Nat := min (t + now - frozen) (2 ^ 64 - 1)

/-- The admission tick of a walker entry after a resume (R405), modulo 2^64: one before tick 0 of the chip keeps its place
among the others. -/
def shiftAge (t now frozen : Nat) : Nat := (t + now + 2 ^ 64 - frozen) % 2 ^ 64

/-- Moves the ticks that the device owns (R405). -/
def State.shiftTicks (s : State) (ctx : Nat) (x : Ctx) : State :=
  let z := s.pnat (x.header + 56) 8
  let sh := fun (t : Nat) => shiftTick t s.tick z
  let s := (List.range x.lcores).foldl
    (fun (s : State) l => (List.range 64).foldl
      (fun (s : State) i =>
        let a := copyRecord (s.imageOf x l) i
        if s.pnat (a + 2) 1 = 0 then s else s.stream a [(8, 8, sh (s.pnat (a + 8) 8))]) s) s
  let s := { s with
    clusters := s.clusters.map fun k => { k with lease := k.lease.map fun l =>
      if l.frozen && l.ctx == ctx then { l with expiry := sh l.expiry } else l } }
  let w := s.walkerOf x
  let s := (List.range (walkerPlaces w.2)).foldl
    (fun (s : State) i =>
      let a := w.1 + 128 * i
      if s.pnat (a + 33) 1 = 1 then s.stream a [(8, 8, shiftAge (s.pnat (a + 8) 8) s.tick z)] else s) s
  { s with tasks := s.tasks.map fun t => if t.ctx = ctx then { t with age := t.age + s.tick - z } else t }

/-- The indices that a WID packs (01 R21). -/
def indicesOfWid : List Nat → Nat → List Nat
  | [], _ => []
  | w :: ws, v => v % 2 ^ w :: indicesOfWid ws (v / 2 ^ w)

/-- A kernel that an image holds (17 R391): its logical core, WID, widths and `.ckptmax`. -/
structure Saved where
  lcore : Nat
  wid : Nat
  widths : List Nat
  ckptmax : Nat
  deriving DecidableEq, Repr

/-- The saved kernels of a context. -/
def State.savedKernels (s : State) (x : Ctx) : List Saved :=
  ((List.range x.lcores).filter fun l => s.pnat (s.imageOf x l + 0x30803C) 4 == 1).map fun l =>
    let a := s.imageOf x l + 0x308000
    (Saved.mk l (s.pnat (a + 0x18) 8) ((List.range (s.pnat (a + 0x20) 1 % 7)).map fun i => s.pnat (a + 0x21 + i) 1)
      (s.pnat (a + 0x28) 2))

/-- The variant that a step of a reflection is taken to have run (01 R24). A reflection does not name it, and the model's
choice is: the first with a member for each saved kernel, of the same `.ckptmax` in the order of the logical cores, else the
first with as many members, else variant 0 (log 26). -/
def Task.takenVariant (t : Task) (mine : List Saved) : Nat :=
  let is := List.range t.variants.length
  let alike := fun i => (t.membersOf i).map (·.ckptmax) == mine.map (·.ckptmax)
  ((is.find? alike).or (is.find? fun i => (t.membersOf i).length == mine.length)).getD 0

/-- The steps of a task taken over from a walker area: those below a number that have not retired, the saved ones
parked on their logical cores. -/
def State.takenSteps (s : State) (t : Task) (mine : List (Saved × Nat)) : List Step :=
  ((List.range t.nextGen).filter fun n => !(NSet.has t.done n)).map fun n =>
    let idx := indicesOf t.tiles n
    let ks := (mine.filter fun e => e.2 == n).map (·.1)
    let k := s.counterOf t idx
    { task := t.id, wid := widOf t.widths idx, idx := idx,
      state := if ks ≠ [] then .parked else if k = 0 then .ready else .blocked, counter := k, lcores := ks.map (·.lcore),
      cores := [], variant := t.takenVariant ks, held := 0, restarts := 0, joule := 0, sectors := 0, sectorsAt := 0,
      notBefore := (0, 0), migrate := none, rotate := false, ended := [], ids := [], parkedAt := s.tick, residentAt := 0, was := [] }

/-- What the entries of the tasks of one packet agree in (14 R315, R318): admission tick, completion word and its value,
fence bits and queue. -/
def State.packetKey (s : State) (x : Ctx) (i : Nat) : List Nat :=
  let a := (s.walkerOf x).1 + 128 * i
  [s.pnat (a + 8) 8, s.pnat (a + 16) 8, s.pnat (a + 24) 8, s.pnat (a + 32) 1, s.pnat (a + 34) 2]

/-- The parameter block that a walker entry names. -/
def State.entryBlock (s : State) (x : Ctx) (i : Nat) : Nat := s.pnat ((s.walkerOf x).1 + 128 * i) 8

/-- The graph instance that a walker entry's task belongs to, as far as a reflection shows it (14 R315, R324; log 26), with
its node and the number of its packet among those that look alike: the first instance loaded in the context of which
entries alike hold every node once more than those before this one; none for the task of a packet of its own. -/
def State.graphOf (s : State) (ctx : Nat) (x : Ctx) (es : List Nat) (i : Nat) : Option (Graph × Nat × Nat) :=
  let a := s.entryBlock x i
  let alike := es.filter fun j => s.packetKey x j == s.packetKey x i
  let count := fun (b : Nat) => (alike.filter fun j => s.entryBlock x j == b).length
  let before := ((alike.takeWhile (· != i)).filter fun j => s.entryBlock x j == a).length
  s.graphs.findSome? fun g =>
    let same := (List.range g.nodes.length).filter fun n => g.nodes[n]? == some a
    let whole := least (g.nodes.map fun b => count b / (g.nodes.filter (· == b)).length)
    if g.ctx = ctx ∧ before / same.length < whole then (same[before % same.length]?).map fun n => (g, n, before / same.length)
    else none

/-- A task taken over with the saved kernels of its steps and the node that it is of a graph. -/
structure Taken where
  task : Nat
  mine : List (Saved × Nat)
  node : Option (Graph × Nat)
  deriving DecidableEq, Repr

/-- The age of a task whose walker entry holds an admission tick: none lies ahead (R405). -/
def State.entryAge (s : State) (v : Nat) : Nat := if v ≤ s.tick then 2 ^ 64 + v else v

/-- The packet of a task taken over: that of its graph instance's other tasks, else a new one, which counts as open in its
queue until it completes (14 R315, R317). -/
def State.takePacket (s : State) (vi q kind : Nat) (mates : List Nat) (k : Nat) : Nat × State :=
  match mates[k]? with
  | some n => (n, s)
  | none =>
    let p := s.pq vi q
    (p.next, s.setPq { p with open_ := p.open_ ++ [Packet.mk p.next (BitVec.ofNat 512 kind) none], next := p.next + 1 })

/-- Takes over the walker entry at a place of a context made from a reflection (R404; log 26), one of the active ones; the
saved kernels that are still without a task go along. -/
def State.takeEntry (s : State) (ctx : Nat) (x : Ctx) (es : List Nat) (saved : List Saved) (i : Nat) :
    List Saved × Option Taken × State :=
  let a := (s.walkerOf x).1 + 128 * i
  let g := fun (o n : Nat) => s.pnat (a + o) n
  match s.blockAt ctx x none (g 0 8) with
  | (.error e, t) => (saved, none, (t.putDone ctx (g 16 8) (refusalWord e)).stream a [(33, 1, 0)])
  | (.ok (b, free), t) =>
    let fits := fun (ws : List Nat) => ws.length == b.tiles.length && tilesFit b.tiles ws
    let widths := ((saved.find? fun k => fits k.widths).map (·.widths)).getD free
    let size := b.tiles.foldl (· * ·) 1
    let done := setOfBits (t.pnat ((t.walkerOf x).1 + g 40 8) (bitmapBytes size)) 0 size
    let number := fun (k : Saved) => numberOf b.tiles (indicesOfWid widths k.wid)
    let own := saved.filter fun k => k.widths == widths && decide (number k < size) && !(NSet.has done (number k))
    let low := numberOf b.tiles (indicesOfWid widths (g 48 8))
    let node := t.graphOf ctx x es i
    let graph := node.map fun n => n.1.index
    let queue := if g 34 2 = 0xFFFF then none else some (g 34 2)
    let mates := (t.tasks.filter fun u => u.ctx == ctx && u.graph == graph && graph.isSome && u.age % 2 ^ 64 == g 8 8 &&
      u.doneAddr == g 16 8 && u.doneValue.toNat == g 24 8 && u.fences.toNat == g 32 1 && u.queue == queue && !u.retired).map (·.packet)
    let r := t.takePacket x.vi (queue.getD (deviceQueue ctx)) (if graph.isSome then 2 else 1) mates.dedup
      ((node.map fun n => n.2.2).getD 0)
    let t := r.2
    let l : Launch := Launch.mk (BitVec.ofNat 4 (g 32 1)) (g 16 8) (BitVec.ofNat 64 (g 24 8))
      queue r.1 none
    let k := { t.newTask ctx l (g 0 8) graph b widths ((t.bindRules ctx graph b.rules).getD []) with
      age := s.entryAge (g 8 8), nextGen := min size (own.foldl (fun m e => max m (number e + 1)) low), done := done, slot := i
      bitmap := g 40 8 }
    (saved.filter fun e => !own.contains e, some (Taken.mk k.id (own.map fun e => (e, number e)) (node.map fun n => (n.1, n.2.1))), t.enterTask k)

/-- The edges of a graph into a task taken over: its producers are the tasks of the same packet. -/
def State.takenEdges (s : State) (k : Taken) : List Rule :=
  match s.taskOf k.task, k.node with
  | some t, some (g, n) =>
    let peers := s.tasks.filter fun u => u.ctx == t.ctx && u.packet == t.packet && u.queue == t.queue && u.graph == t.graph
    (g.edges.filter fun e => e.2 == n).filterMap fun e =>
      (peers.find? fun u => g.nodes[e.1]? == some u.pblock.toNat).map fun u => Rule.tile 0 (some u.id)
  | _, _ => []

/-- Binds the edges of a task taken over and makes its steps again (14 R324). -/
def State.takeSteps (s : State) (k : Taken) : State :=
  let s := s.onTask k.task fun t => { t with rules := t.rules ++ s.takenEdges k }
  match s.taskOf k.task with
  | some t => { s with steps := s.steps ++ s.takenSteps t k.mine }
  | none => s

/-- The places of the active entries of a walker area, in the order of their admission: by age, and by place within one
tick. -/
def State.activeEntries (s : State) (x : Ctx) : List Nat :=
  let w := s.walkerOf x
  sortBy (fun i => s.entryAge (s.pnat (w.1 + 128 * i + 8) 8))
    ((List.range (walkerPlaces w.2)).filter fun i => s.pnat (w.1 + 128 * i + 33) 1 == 1)

/-- Takes over the walker area of a context that has no task in the walker (R404): first its tasks, then their steps. -/
def State.takeWalker (s : State) (ctx : Nat) (x : Ctx) : State :=
  if s.tasksOf ctx ≠ [] then s
  else
    let es := s.activeEntries x
    let r := es.foldl
      (fun (a : List Saved × List Taken × State) i =>
        let e := a.2.2.takeEntry ctx x es a.1 i
        (e.1, a.2.1 ++ e.2.1.toList, e.2.2)) (s.savedKernels x, [], s)
    r.2.1.foldl State.takeSteps r.2.2

/-- Whether the dispatcher could merge a saved step of a resuming context now: its island affords it and has its cores. -/
def State.mergesLeft (s : State) (ctx : Nat) : Bool :=
  (List.range 4).any fun isl => (s.considered isl).any fun e =>
    e.1.ctx == ctx && e.2.state = .parked &&
      ((s.tenant e.1).map fun x => s.affords isl x.1.vi e.1 e.2 e.2.variant).getD false && ((s.fit isl e.1 e.2 e.2.variant).1).isSome

/-- CONTEXT_RESUME (R166, R404, R405, R409): the context is resuming while the steps saved with it merge, as far as the
dispatcher can take them; then its walker resumes and the request ends (log 107). -/
def execContextResume (ctx : Nat) (s : State) : Res :=
  .next (match Tab.get s.ctxs ctx with
    | none => s
    | some x =>
      match x.request 2 with
      | none => s
      | some r =>
        if x.state = 3 then
          if s.mergesLeft ctx then s
          else ((s.putState ctx 0).onCtx ctx fun y => { y with resumed := true }).endFreeze ctx r 0
        else if x.state = 0 ∨ s.saving x = true ∨ (s.saves.any fun e => e.1 == ctx) = true then s.endFreeze ctx r 3
        else if x.state = 2 ∧ s.fitsHere x = false then s.endFreeze ctx r 4
        else
          let s := if x.state = 2 then
              ((s.shiftTicks ctx x).takeWalker ctx x).onCtx ctx fun y => { y with paired := s.pnat (x.header + 74) 1 == 1 }
            else s
          (s.putState ctx 3).openRequest ctx r)

/-! ## Creation and destruction (01 R18; 15 R357, R360; 16 R369; 17 R388) -/

/-- The barriers of a new logical core (16 R369): zero but for their owner fields. -/
def newBars (ctx l : Nat) : Nat :=
  undigits 128 ((List.range 256).map fun i => ctx % 1024 * 2 ^ 80 + barName l i * 2 ^ 90)

/-- Makes logical core l of a new context absent, with an empty image (17 R388). -/
def State.newLcore (s : State) (ctx : Nat) (x : Ctx) (l : Nat) : State :=
  let s := s.stream (x.div + 32 * l) [(0, 8, 2), (8, 8, s.imageOf x l), (16, 8, s.sbsOf x l), (24, 8, 0)]
  (s.stream (s.imageOf x l) [(0, 4194304, 0)]).stream (s.sbsOf x l) [(0, 4096, newBars ctx l)]

/-- A context of an interface from its descriptor (15 R357): none with status 1 of 03 R90. -/
def State.newCtx (s : State) (vi ctx : Nat) : Option Ctx :=
  match s.viOf vi with
  | none => none
  | some v =>
    if v.enabled && s.ctxInVi vi ctx && decide (ctx < 1024) && (Tab.get s.ctxs ctx).isNone then
      descriptorAt s.mem.bytes (descriptorAddr v ctx) vi v
    else none

/-- A context made from its descriptor (15 R357, R360; 17 R388, R400): a header of state 2 is a reflection's. -/
def State.createCtx (s : State) (ctx : Nat) (x : Ctx) : State :=
  let frozen := decide (s.pnat (x.header + 48) 1 = 2)
  let x := { x with state := if frozen then 2 else 0, joule := if frozen then s.pnat (x.header + 64) 8 else 0
                    stopAt := s.tick, pins := s.pinsOf ctx x }
  let s := if frozen then s else s.stream x.header [(48, 1, 0), (56, 19, 0)]
  let s := { s with ctxs := Tab.put s.ctxs ctx x }.dropTlb ctx 1 0 0
  (List.range x.lcores).foldl (fun (s : State) l => s.newLcore ctx x l) s

/-- CONTEXT_CREATE (15 R357): status 1 where creation fails, and nothing else; status 0 where it succeeds. -/
def execContextCreate (vi : Nat) (ctx : Nat) (s : State) : Res :=
  .next (match s.newCtx vi ctx with
    | none => { s with created := 1 }
    | some x => { s.createCtx ctx x with created := 0 })

/-- CONTEXT_DESTROY (01 R18, R24; 17 R409): its steps are killed; its tasks, graph instances, packets and translations
go, and its logical cores are unused. Its FREEZE requests end with status 2 (log 108). -/
def execContextDestroy (ctx : Nat) (s : State) : Res :=
  .next (match Tab.get s.ctxs ctx with
    | none => s
    | some x =>
      let ids := (s.tasksOf ctx).map (·.id)
      let s := (s.dropProofs ctx).dropTlb ctx 1 0 0
      let s := (s.steps.filter fun u => ids.contains u.task).foldl
        (fun (s : State) (u : Step) => (s.killStep u.task u.wid).endReserve u.task u.wid) s
      let s := (List.range x.lcores).foldl (fun (s : State) l => s.setDiv x l 0) s
      let keep := fun (p : PQueue) => s.queueCtx p.vi p.q != some ctx
      let s := x.stopping.foldl (fun s r => s.endFreeze ctx r 2) s
      { s with
        tasks := s.tasks.filter fun t => t.ctx != ctx
        graphs := s.graphs.filter fun g => g.ctx != ctx
        pqueues := s.pqueues.filter keep
        ctxs := Tab.del s.ctxs ctx })

/-- A task of an unloaded graph instance goes: its steps are killed, its walker entry is free, and the packet that launched
it no longer counts as open (log 109). -/
def State.dropTask (s : State) (t : Task) : State :=
  let s := (s.steps.filter fun u => u.task == t.id).foldl
    (fun (s : State) (u : Step) => (s.killStep u.task u.wid).endReserve u.task u.wid) s
  match Tab.get s.ctxs t.ctx with
  | some x => (s.retireTasks t.ctx [t]).closePacket x.vi (t.queue.getD (deviceQueue t.ctx)) t.packet
  | none => s

/-- GRAPH_INSTANCE_UNLOAD (01 R18): the instance goes, and with it its tasks and their steps, which live inside it. -/
def execGraphInstanceUnload (ctx : Nat) (gi : Nat) (s : State) : Res :=
  let mine := fun (t : Task) => t.ctx == ctx && t.graph == some gi
  let s := (s.tasks.filter fun t => mine t && !t.retired).foldl State.dropTask s
  .next { s with
    graphs := s.graphs.filter fun g => !(g.ctx == ctx && g.index == gi)
    tasks := s.tasks.filter fun t => !(mine t) }

/-! ## Migration and rotation (17 R399, R406) -/

/-- MIGRATION_REQUEST (R399): for the step of a logical core, to a core or to any; dropped while the context is being
suspended or frozen. One that a sensor asked for and that has no destination yet gives way to it. -/
def execMigrationRequest (ctx : Nat) (l : Nat) (dest : Option Nat) (s : State) : Res :=
  .next (match Tab.get s.ctxs ctx with
    | none => s
    | some x =>
      if x.state ≠ 0 ∨ x.stopping ≠ [] then s
      else
        let ids := (s.tasksOf ctx).map (·.id)
        { s with steps := s.steps.map fun u =>
          if ids.contains u.task ∧ u.lcores.contains l = true ∧ (u.state = .resident ∨ u.state = .parked) then
            { u with migrate := some ((u.migrate.filter fun m => m.2.isSome).getD (l, dest.map (· % 128))) }
          else u })

/-- The wait after which a parked step displaces another (R406). -/
def rotateAfter : Nat := 1000000

/-- The resident step that makes way for a parked one (R406): the longest resident of the same context, priority and
cluster, where the waiting one is pinned or has run before, if it has been resident for longer than the other has waited. -/
def State.rotatesFor (s : State) (x : Ctx) (ctx : Nat) (t : Task) (u : Step) : Option Step :=
  let l := u.lcores.headD 0
  let at_ := (wantedCore x u l).or (Tab.get u.was l)
  let same := s.steps.filter fun w => w.state = .resident && decide (w.residentAt < u.parkedAt) &&
    (at_.map fun p => clusterOf (w.cores.headD 0) == clusterOf p).getD false &&
    ((s.taskOf w.task).map fun k => k.ctx == ctx && k.prio == t.prio).getD false
  (sortBy (·.residentAt) same).head?

/-- ROTATION (R406): the longest resident one is to be parked, and the waiting one is dispatched in its place. -/
def execRotation (ctx : Nat) (s : State) : Res :=
  .next (match Tab.get s.ctxs ctx with
    | none => s
    | some x =>
      let waits := s.steps.filter fun u => u.state = .parked && decide (u.parkedAt + rotateAfter < s.tick) &&
        ((s.taskOf u.task).map (·.ctx)) == some ctx
      waits.foldl
        (fun (s : State) u =>
          match (s.taskOf u.task).bind fun t => s.rotatesFor x ctx t u with
          | some w => (s.onStep w.task w.wid fun w => { w with rotate := true }).onStep u.task u.wid fun w => { w with rotate := true }
          | none => s) s)

/-! ## Single cores (08 R192; 09 R197, R208) -/

/-- LOAF_EXPIRE (09 R197): the chip time passes the expiry of a loaf of core c. -/
def execLoafExpire (c : Nat) (loaf : Nat) (s : State) : Res :=
  let k := s.getCore c
  .next (match k.heldLoaf loaf with
    | some f => s.reach ((k.sp.loafAt f).expiry + 1)
    | none => s)

/-- Whether an engine of a core is at work. -/
def Core.enginesBusy (c : Core) : Bool :=
  (c.eng.bte.any fun k => k.state = .running) || !c.mx.queue.isEmpty || !c.mx.pushing.isEmpty

/-- BANK_GUARD_GRANT (09 R208): an engine request that has waited is granted, and the core freezes for one beat. -/
def execBankGuardGrant (c : Nat) (s : State) : Res :=
  let k := s.getCore c
  .next (if k.enginesBusy then s.setCore { k with ltime := k.ltime + s.cycle c } else s)

/-- PAIR_QUARANTINE_CLEAR (08 R192): the pair of core c takes work again. -/
def execPairQuarantineClear (c : Nat) (s : State) : Res :=
  let k := c % 128 / 2 * 2
  let f := fun (s : State) (p : Nat) => s.setCore { s.getCore p with quarantined := false }
  .next (f (f s k) (k + 1))

end Sys2Proof.Machine
end

