-- ==== Sys2Proof/Machine/Hash.lean ====
section
/-! DEFINITION. Digest and signature: SHAKE256, and the verification of Ed448ph (03 R89; 18 R420, R422). The spec names the
functions; what they compute is taken from FIPS 202 and RFC 8032 (log 16). -/

namespace Sys2Proof.Machine

/-- The round constants of the permutation. -/
def keccakRc : List Nat :=
  [0x0000000000000001, 0x0000000000008082, 0x800000000000808A, 0x8000000080008000, 0x000000000000808B, 0x0000000080000001,
    0x8000000080008081, 0x8000000000008009, 0x000000000000008A, 0x0000000000000088, 0x0000000080008009, 0x000000008000000A] ++
  [0x000000008000808B, 0x800000000000008B, 0x8000000000008089, 0x8000000000008003, 0x8000000000008002, 0x8000000000000080,
    0x000000000000800A, 0x800000008000000A, 0x8000000080008081, 0x8000000000008080, 0x0000000080000001, 0x8000000080008008]

/-- The rotations of the lanes, lane x + 5 y at that place. -/
def keccakRho : List Nat :=
  [0, 1, 62, 28, 27, 36, 44, 6, 55, 20, 3, 10, 43, 25, 39, 41, 45, 15, 21, 8, 18, 2, 61, 56, 14]

/-- A lane of a state of 25. -/
def keccakLane (a : List Word) (i : Nat) : Word := a.getD i 0

/-- The columns' parities mixed into the state. -/
def keccakTheta (a : List Word) : List Word :=
  let c := (List.range 5).map fun x => (List.range 5).foldl (fun v y => v ^^^ keccakLane a (x + 5 * y)) 0
  let d := (List.range 5).map fun x => keccakLane c ((x + 4) % 5) ^^^ (keccakLane c ((x + 1) % 5)).rotateLeft 1
  (List.range 25).map fun i => keccakLane a i ^^^ keccakLane d (i % 5)

/-- The lanes rotated and moved: the one that comes to place i. -/
def keccakPi (a : List Word) : List Word :=
  (List.range 25).map fun i =>
    let x := (i % 5 + 3 * (i / 5)) % 5
    let k := x + 5 * (i % 5)
    (keccakLane a k).rotateLeft (keccakRho.getD k 0)

/-- The rows' nonlinear step, and the round constant into lane 0. -/
def keccakChi (b : List Word) (rc : Nat) : List Word :=
  (List.range 25).map fun i =>
    let y := i / 5 * 5
    let v := keccakLane b i ^^^ (~~~(keccakLane b ((i + 1) % 5 + y)) &&& keccakLane b ((i + 2) % 5 + y))
    if i = 0 then v ^^^ BitVec.ofNat 64 rc else v

/-- The permutation. -/
def keccak (a : List Word) : List Word := keccakRc.foldl (fun a rc => keccakChi (keccakPi (keccakTheta a)) rc) a

/-- The bytes of a block of SHAKE256. -/
def shakeRate : Nat := 136

/-- A message padded to whole blocks. -/
def shakePad (m : List Byte) : List Byte :=
  let n := shakeRate - 1 - m.length % shakeRate
  m ++ toBytes (n + 1) (0x1F + 0x80 * 256 ^ n)

/-- The state after the blocks of a padded message. -/
def shakeAbsorb (m : List Byte) : List Word :=
  (List.range (m.length / shakeRate)).foldl
    (fun a i =>
      let b := (m.drop (shakeRate * i)).take shakeRate
      keccak ((List.range 25).map fun k => keccakLane a k ^^^ BitVec.ofNat 64 (ofBytes ((b.drop (8 * k)).take 8))))
    (List.replicate 25 0)

/-- The first n bytes of SHAKE256 of a message, at most a block of them. -/
def shake256 (m : List Byte) (n : Nat) : List Byte :=
  ((shakeAbsorb (shakePad m)).flatMap fun w => toBytes 8 w.toNat).take n

/-! ## Ed448ph -/

/-- The prime of the field. -/
def edP : Nat := 2 ^ 448 - 2 ^ 224 - 1

/-- The order of the base point. -/
def edL : Nat := 2 ^ 446 - 13818066809895115352007386748515426880336692474882178609894547503885

/-- The constant d of the curve, which is -39081. -/
def edD : Nat := edP - 39081

/-- A point in projective coordinates. -/
structure EdPoint where
  x : Nat
  y : Nat
  z : Nat
  deriving DecidableEq, Repr

/-- The base point. -/
def edBase : EdPoint := (EdPoint.mk
  224580040295924300187604334099896036246789641632564134246125461686950415467406032909029192869357953282578032075146446173674602635247710
  298819210078481492676017930443930673437544040154080242095928241372331506189835876003536878655418784733982303233503462500531545062832660
  1)

/-- The neutral point. -/
def edZero : EdPoint := (EdPoint.mk 0 1 1)

/-- A difference in the field. -/
def edSub (a b : Nat) : Nat := (a + edP - b % edP) % edP

/-- The sum of two points; it serves for doubling too. -/
def EdPoint.add (p q : EdPoint) : EdPoint :=
  let a := p.z * q.z % edP
  let b := a * a % edP
  let c := p.x * q.x % edP
  let d := p.y * q.y % edP
  let e := edD * (c * d % edP) % edP
  let f := edSub b e
  let g := (b + e) % edP
  let h := (p.x + p.y) * (q.x + q.y) % edP
  EdPoint.mk (a * f % edP * edSub (edSub h c) d % edP) (a * g % edP * edSub d c % edP) (f * g % edP)

/-- A number below 2^448 times a point. -/
def EdPoint.times (n : Nat) (p : EdPoint) : EdPoint :=
  (List.range 448).foldl (fun q i => let q := q.add q; if n.testBit (447 - i) then q.add p else q) edZero

/-- A power in the field, of an exponent below 2^448. -/
def edPow (a n : Nat) : Nat :=
  (List.range 448).foldl (fun r i => let r := r * r % edP; if n.testBit (447 - i) then r * a % edP else r) 1

/-- The point of an encoding of 57 bytes, if it is one. -/
def edDecode (bs : List Byte) : Option EdPoint :=
  let n := ofBytes bs
  let y := n % 2 ^ 455
  let sign := n / 2 ^ 455 % 2
  let u := edSub (y * y % edP) 1
  let v := edSub (edD * (y * y % edP) % edP) 1
  let u3v := u * u % edP * u % edP * v % edP
  let x := u3v * edPow (u3v * (u * u % edP) % edP * (v * v % edP) % edP) ((edP - 3) / 4) % edP
  if bs.length ≠ 57 ∨ edP ≤ y ∨ v * (x * x % edP) % edP ≠ u ∨ (x = 0 ∧ sign = 1) then none
  else some (EdPoint.mk (if x % 2 = sign then x else edP - x) y 1)

/-- Whether two points are one. -/
def EdPoint.same (p q : EdPoint) : Bool :=
  decide (p.x * q.z % edP = q.x * p.z % edP) && decide (p.y * q.z % edP = q.y * p.z % edP)

/-- Whether an Ed448ph signature of a digest, with the empty context, verifies under a public key. -/
def ed448ph (key digest sig : List Byte) : Bool :=
  let s := ofBytes (sig.drop 57)
  let dom : List Byte := [83, 105, 103, 69, 100, 52, 52, 56, 1, 0]
  let k := ofBytes (shake256 (dom ++ sig.take 57 ++ key ++ digest) 114) % edL
  match edDecode key, edDecode (sig.take 57) with
  | some a, some r => sig.length == 114 && decide (s < edL) &&
      (EdPoint.times 4 (edBase.times s)).same (EdPoint.times 4 (r.add (a.times k)))
  | _, _ => false

end Sys2Proof.Machine
end

