-- ==== Sys2Proof/Machine/Loader.lean ====
section
/-! DEFINITION. Loading a Fildan graph binary: header and section table, signature, placement of the plan regions,
patches, contents and graph instances (03 R83 to R90; 15 R343 to R346). -/

namespace Sys2Proof.Machine

/-- A number in a file: n bytes at an offset. -/
def fnum (f : List Byte) (o n : Nat) : Nat := ofBytes ((f.drop o).take n)

/-- A section of a file (03 R84). -/
structure Sect where
  type : Nat
  flags : Nat
  align : Nat
  off : Nat
  size : Nat
  deriving DecidableEq, Repr

/-- The section entry at a place of a file. -/
def sectAt (f : List Byte) (o : Nat) : Sect := (Sect.mk (fnum f o 2) (fnum f (o + 2) 2) (fnum f (o + 4) 1) (fnum f (o + 8) 8) (fnum f (o + 16) 8))

/-- Whether the header of a file is well formed (03 R83). -/
def headerOk (f : List Byte) : Bool :=
  decide (128 ≤ f.length) && fnum f 0 4 == 0x01424746 && fnum f 4 2 == 1 && decide (fnum f 6 2 ≤ 1) &&
    decide (1 ≤ fnum f 8 4 ∧ fnum f 8 4 ≤ 64) && fnum f 12 4 == 128 && fnum f 16 8 == f.length &&
    decide (fnum f 24 8 + 32 * fnum f 8 4 ≤ f.length) && decide (1 ≤ fnum f 36 4 ∧ fnum f 36 4 ≤ 16) && fnum f 40 88 == 0

/-- The sections of a file. -/
def sectsOf (f : List Byte) : List Sect := (List.range (fnum f 8 4)).map fun i => sectAt f (fnum f 24 8 + 32 * i)

/-- Whether a section is loaded into device memory (03 R84). -/
def Sect.loaded (t : Sect) : Bool := t.flags / 2 % 2 == 1

/-- Whether a section entry is well formed (03 R84). What a bad alignment (R90) is, is the model's choice: a code below 6 for
code, one above 32, or a file offset that is no multiple of the alignment (log 28). -/
def sectOk (f : List Byte) (s : Sect) : Bool :=
  decide (s.align ≤ 32) && decide (s.off + s.size ≤ f.length) && decide (s.off % 2 ^ s.align = 0) &&
    (s.type != 1 || decide (6 ≤ s.align)) && (decide (1 ≤ s.type ∧ s.type ≤ 8) || s.type == 15 || s.flags % 2 == 0)

/-- Whether the section table of a file is well formed, its signature section included (03 R83, R84, R89); their reserved
bytes are ignored (00 R9). -/
def tableOk (f : List Byte) : Bool :=
  let ss := sectsOf f
  let signed := ss.any fun s => s.type == 15
  (ss.all (sectOk f)) &&
    (signed == (fnum f 6 2 == 1)) &&
    (!signed || (((ss.filter fun s => s.type == 15).length == 1) && (match ss.getLast? with
      | some s => s.type == 15 && s.size == 144 && s.off + s.size == f.length
      | none => false)))

/-- The load policy's answer (03 R89; 15 R364): 0, 2 for a bad signature or an untrusted key, 3 for an unsigned file. -/
def State.policy (s : State) (v : Vi) (f : List Byte) : Nat :=
  if fnum f 6 2 = 0 then (if v.unsigned then 0 else 3)
  else
    let o := f.length - 144
    let id := (f.drop o).take 16
    let trusted := (List.range v.keyCount).any fun i => s.pnat (v.keys + 16 * i) 16 == ofBytes id
    let key := Config.publicKey id
    let good := shake256 key 16 == id && ed448ph key (shake256 (f.take o) 64) ((f.drop (o + 16)).take 114)
    if trusted && good then 0 else 2

/-- A region of a memory plan (03 R88). -/
structure Region where
  size : Nat
  initOff : Nat
  init : Nat
  align : Nat
  page : Nat
  placement : Nat
  access : Nat
  deriving DecidableEq, Repr

/-- The plan regions of a file. -/
def regionsOf (f : List Byte) : List Region :=
  (sectsOf f).flatMap fun s =>
    if s.type = 7 then (List.range (s.size / 32)).map fun i =>
      let o := s.off + 32 * i
      (Region.mk (fnum f o 8) (fnum f (o + 8) 8) (fnum f (o + 16) 2) (fnum f (o + 18) 1) (fnum f (o + 19) 1)
        (fnum f (o + 20) 1) (fnum f (o + 21) 1))
    else []

/-- The bytes that the pages of a region take. -/
def Region.span (r : Region) : Nat := (r.size + pageSize r.page - 1) / pageSize r.page * pageSize r.page

/-- The node that a region lies in (03 R88): its own, or where the steward has placed it. -/
def Region.node (r : Region) (p : Placing) : Nat := if r.placement = 3 then p.pa / 2 ^ 45 else r.placement

/-- Whether a plan entry is well formed (03 R88). The status table has no status of its own for one that is not; the model
answers 4 (log 28). -/
def Region.formed (r : Region) (sects : Nat) : Bool :=
  r.size != 0 && decide (12 ≤ r.align) && decide (r.page ≤ 11) && decide (r.placement ≤ 3) &&
    (r.init == 0xFFFF || decide (r.init < sects))

/-- Whether a region and its placing can be met (03 R88; 15 R345). -/
def Region.ok (r : Region) (sects : Nat) (p : Placing) : Bool :=
  r.formed sects && decide (p.va % max (2 ^ r.align) (pageSize r.page) = 0) && canonical p.va &&
    decide (p.va + r.span ≤ 2 ^ 64) &&
    (r.node p == 2 ||
      (decide (p.pa % pageSize r.page = 0) && decide (p.pa % 2 ^ 45 + r.span ≤ deviceBytes) && decide (r.node p ≤ 1) &&
        decide (p.pa / 2 ^ 45 = r.node p)))

/-- Whether every code section that is loaded has a region with execute access, and no other (03 R88). -/
def codePlaced (f : List Byte) : Bool :=
  let ss := sectsOf f
  (List.range ss.length).all fun i =>
    match ss[i]? with
    | some t =>
      let rs := (regionsOf f).filter fun r => r.init == i
      t.type != 1 || !t.loaded || t.size == 0 || (!rs.isEmpty && rs.all fun r => r.access.testBit 2)
    | none => true

/-- Sets the leaf of an address at a level, making the tables above it from the pages given; none when an entry there
is already valid, or the pages run out. -/
def setLeaf (va target e : Nat) : Nat → Nat → List Nat → State → Option (List Nat × State)
  | level, table, ts, s =>
    let a := table + 8 * bits va (12 + 9 * level + 8) (12 + 9 * level)
    let old := s.pnat a 8
    if level = target then (if old % 2 = 1 then none else some (ts, s.dput a 8 e))
    else
      match level with
      | 0 => none
      | l + 1 =>
        if old % 4 = 3 then none
        else if old % 2 = 1 then setLeaf va target e l (bits old 47 12 * 4096) ts s
        else
          match ts with
          | [] => none
          | t :: ts =>
            if t % 4096 ≠ 0 ∨ deviceBytes < t + 4096 then none
            else setLeaf va target e l t ts ((s.stream t [(0, 4096, 0)]).dput a 8 (t + 1))

/-- The level of a page size code (15 R345). -/
def levelOf (code : Nat) : Nat := if code ≤ 4 then 0 else if code ≤ 9 then 1 else 2

/-- Maps a region for a context (03 R88; 15 R344, R345). -/
def State.mapRegion (s : State) (x : Ctx) (r : Region) (p : Placing) (ts : List Nat) : Option (List Nat × State) :=
  let lv := levelOf r.page
  let n := 2 ^ (12 + 9 * lv)
  let sz := pageSize r.page
  let flags := p.scope.toNat * 2 ^ 48 + r.page * 256 + 32 + r.access % 8 / 4 * 16 + r.access / 2 % 2 * 8 + r.access % 2 * 4 + 3
  (List.range (r.span / n)).foldl
    (fun o i => o.bind fun (a : List Nat × State) =>
      let pa := if r.node p = 2 then 2 ^ 46 else p.pa + n * i / sz * sz
      setLeaf (p.va + n * i) lv (flags + pa) 4 (bits x.root 47 12 * 4096) a.1 a.2) (some (ts, s))

/-- Maps every region of a plan. -/
def mapPlan (x : Ctx) : List (Region × Placing) → List Nat → State → Option State
  | [], _, s => some s
  | r :: rs, ts, s =>
    match s.mapRegion x r.1 r.2 ts with
    | none => none
    | some (ts, s) => mapPlan x rs ts s

/-- The virtual address of byte o of a section (03 R88), where a region holds it; of several regions over it the first in the
plan is taken, by the model's choice (log 28). -/
def sectVa (plan : List (Region × Placing)) (i o : Nat) : Option Nat :=
  (plan.find? fun r => r.1.init == i && decide (r.1.initOff ≤ o) && decide (o < r.1.initOff + r.1.size)).map
    fun r => r.2.va + (o - r.1.initOff)

/-- Replaces n bytes of a file by those of a number. -/
def fput (f : List Byte) (o n v : Nat) : List Byte := f.take o ++ toBytes n v ++ f.drop (o + n)

/-- The format of a slot by its opcode, where a patch can name it (03 R63, R87): 3 L, 4 I, 5 J. -/
def slotFormat (w : Nat) : Nat :=
  match sOp w with
  | none => 0
  | some op =>
    if op = 0x30 ∨ op = 0x31 ∨ op = 0x3C ∨ op = 0x3D then 3
    else if (0x20 ≤ op ∧ op ≤ 0x2C) ∨ op = 0x45 then 4
    else if op = 0x38 ∨ op = 0x39 then 5
    else 0

/-- A patch value written at a place of a file by its kind (03 R87); none where the kind refuses it. The spec gives no patch
of another kind, and the model refuses one, by its choice (log 28). -/
def patchAt (f : List Byte) (kind o : Nat) (v : Int) : Option (List Byte) :=
  let w := fnum f o 4
  let u := (v % 2 ^ 64).toNat
  match kind with
  | 1 => some (fput f o 8 u)
  | 2 => if 0 ≤ v ∧ v < 2 ^ 32 then some (fput f o 4 u) else none
  | 3 => if slotFormat w = 3 then some (fput f o 4 (setBits (setBits w 20 18 (bits u 14 12)) 11 0 (bits u 11 0))) else none
  | 4 =>
    if slotFormat w = 4 ∧ -256 ≤ v ∧ v ≤ 255 then
      some (fput f o 4 (setBits (setBits w 20 18 (bits u 8 6)) 5 0 (bits u 5 0)))
    else none
  | 5 => if slotFormat w = 5 ∧ -32768 ≤ v ∧ v ≤ 32767 then some (fput f o 4 (setBits w 15 0 (bits u 15 0))) else none
  | _ => none

/-- The patch entries of a file, by their offsets. -/
def patchesOf (f : List Byte) : List Nat :=
  (sectsOf f).flatMap fun s => if s.type = 6 then (List.range (s.size / 16)).map fun i => s.off + 16 * i else []

/-- Applies the patch at an offset of the file to the file (03 R87). A shift above 63, which the table does not admit, is
refused, by the model's choice (log 28). The spec gives no layout of the symbol section, so
the address of a symbol is an open value; the slot of a kind 5 patch that no plan region holds counts as at address 0, by
the model's choice (log 28). -/
def applyPatch (plan : List (Region × Placing)) (o : Nat) (f : List Byte) (s : State) : Option (List Byte × State) :=
  let i := fnum f o 2
  let kind := fnum f (o + 2) 1
  let at_ := fnum f (o + 4) 4
  let target := fnum f (o + 8) 4
  let addend := sval (fnum f (o + 12) 4) 32
  let n := if kind = 1 then 8 else 4
  match (sectsOf f)[i]? with
  | none => none
  | some t =>
    if t.size < at_ + n ∨ 64 ≤ fnum f (o + 3) 1 then none
    else
      let base : Option Nat × State :=
        if target < 2 ^ 31 then ((plan[target]?).map (·.2.va), s) else let r := s.freeWord; (some r.1.toNat, r.2)
      match base with
      | (none, _) => none
      | (some b, s) =>
        let slot : Nat := if kind = 5 then (sectVa plan i at_).getD 0 else 0
        let v := (BitVec.ofInt 64 ((b : Int) + addend - (slot : Int))).sshiftRight (fnum f (o + 3) 1)
        (patchAt f kind (t.off + at_) v.toInt).map fun f => (f, s)

/-- Applies every patch in order. -/
def applyPatches (plan : List (Region × Placing)) : List Nat → List Byte → State → Option (List Byte × State)
  | [], f, s => some (f, s)
  | o :: os, f, s =>
    match applyPatch plan o f s with
    | none => none
    | some (f, s) => applyPatches plan os f s

/-- The contents of a region (03 R88, R90): from its init section, if that has the load flag, as far as it reaches; else
zero. -/
def Region.bytes (r : Region) (f : List Byte) : List Byte :=
  let from_ := if r.access / 8 % 2 = 1 then [] else
    match (sectsOf f)[r.init]? with
    | some t => if t.loaded then (f.drop (t.off + r.initOff)).take (min r.size (t.size - r.initOff)) else []
    | none => []
  from_ ++ List.replicate (r.size - from_.length) 0

/-- The resolved address of an address of a region (15 R353 for host pages). -/
def State.regionAddr (s : State) (x : Ctx) (r : Region) (p : Placing) (o : Nat) : Option Nat :=
  if r.node p = 2 then (s.hostPage x.pasid (p.va + o)).map fun h => hostBase + h.hpa + (p.va + o - h.va)
  else some (p.pa + o)

/-- Whether every part of a region has its place (03 R90): pages of host memory are the host's to give. -/
def State.placed (s : State) (x : Ctx) (r : Region) (p : Placing) : Bool :=
  (List.range ((r.size + 4095) / 4096)).all fun i => (s.regionAddr x r p (4096 * i)).isSome

/-- Fills a region, in parts of 4096 bytes; its words are left empty (11 R256). -/
def State.fillRegion (s : State) (x : Ctx) (r : Region) (p : Placing) (f : List Byte) : Option State :=
  let bs := r.bytes f
  (List.range ((r.size + 4095) / 4096)).foldl
    (fun (o : Option State) i => o.bind fun s =>
      (s.regionAddr x r p (4096 * i)).map fun pa => s.pwrite none pa ((bs.drop (4096 * i)).take 4096) (some false)) (some s)

/-- The kernel table of a file (03 R86). An offset that is no multiple of 64, for which the status table has no cause, is
accepted, by the model's choice, as is an edge that names no node of its graph (log 28). -/
def kernelsOf (f : List Byte) : List Kernel :=
  (sectsOf f).flatMap fun t =>
    if t.type = 4 then (List.range (t.size / 32)).map fun i =>
      let g := fun (o n : Nat) => fnum f (t.off + 32 * i + o) n
      (Kernel.mk (g 0 8) (g 8 4) (g 12 2) (g 14 2) (g 16 1) (g 17 1) (g 18 2) (g 20 4))
    else []

/-- A graph record (03 R86): its nodes, each with the offset of its parameter block and its kernel, and its edges. -/
structure GraphRec where
  nodes : List (Nat × Nat)
  edges : List (Nat × Nat)
  deriving DecidableEq, Repr

/-- The graph records of a section (03 R86). The spec gives no widths, and the model's choice is: counts of 4 bytes each; in a
node of 16 bytes the block's offset in 8, the kernel index in 2, then reserved bytes; two numbers of 4 bytes in an edge. A
record that does not fit the section ends the graphs (log 28). -/
def graphsAt (f : List Byte) (stop : Nat) : Nat → Nat → List GraphRec
  | 0, _ => []
  | n + 1, o =>
    let nodes := fnum f o 4
    let edges := fnum f (o + 4) 4
    let next := o + 8 + 16 * nodes + 8 * edges
    if stop < next then []
    else
      (GraphRec.mk ((List.range nodes).map fun i => let a := o + 8 + 16 * i; (fnum f a 8, fnum f (a + 8) 2))
        ((List.range edges).map fun i => let a := o + 8 + 16 * nodes + 8 * i; (fnum f a 4, fnum f (a + 4) 4))) ::
        graphsAt f stop n next

/-- Creates the graph instances of a loaded file, at indices that the context does not use yet (01 R18; 03 R90). A block that
no region holds counts as at address 0, by the model's choice (log 28). -/
def State.addGraphs (s : State) (ctx : Nat) (plan : List (Region × Placing)) (f : List Byte) : State :=
  let ss := sectsOf f
  let blocks := ((List.range ss.length).find? fun i => ((ss[i]?).map fun t => t.type == 3).getD false).getD 0xFFFF
  let gs := match ss.find? fun t => t.type == 5 with
    | some t => graphsAt f (t.off + t.size) (fnum f 32 4) t.off
    | none => []
  let ks := kernelsOf f
  let base := (s.graphs.filter fun g => g.ctx == ctx).foldl (fun m g => max m (g.index + 1)) 0
  { s with graphs := s.graphs ++ (gs.zip (List.range gs.length)).map fun g =>
    (Graph.mk ctx (base + g.2) (g.1.nodes.map fun n => ks[n.2]?) (g.1.nodes.map fun n => (sectVa plan blocks n.1).getD 0)
      g.1.edges false) }

/-- The device memory that a plan takes, in whole pages (03 R88, R90; log 28). -/
def planBytes (plan : List (Region × Placing)) : Nat :=
  (plan.filter fun r => r.1.node r.2 != 2).foldl (fun n r => n + r.1.span) 0

/-- The regions of a plan mapped for a context, where quota and placement can be met (03 R90, status 4). -/
def State.placePlan (s : State) (x : Ctx) (plan : List (Region × Placing)) (f : List Byte) (tables : List Nat) : Option State :=
  if decide (x.memUsed + planBytes plan ≤ x.memQuota * 2 ^ 30) && codePlaced f &&
      plan.all fun r => r.1.ok (fnum f 8 4) r.2 && s.placed x r.1 r.2 then
    mapPlan x plan tables s
  else none

/-- The status of loading a file for a context, and the state where it is 0: the first status of 03 R90's table that
applies. The table names no status for a context that does not exist, and no policy of an interface that is not in force:
the model answers 4 and 3, by its choice (log 28). -/
def State.load (s : State) (ctx : Nat) (f : List Byte) (places : List Placing) (tables : List Nat) : Nat × State :=
  match Tab.get s.ctxs ctx with
  | none => (4, s)
  | some x =>
    let pol := match s.viOf x.vi with
      | some v => s.policy v f
      | none => 3
    let plan := (regionsOf f).zip places
    if !(headerOk f && tableOk f) then (1, s)
    else if pol ≠ 0 then (pol, s)
    else
      match if places.length = (regionsOf f).length then s.placePlan x plan f tables else none with
      | none => (4, s)
      | some t =>
        match applyPatches plan (patchesOf f) f t with
        | none => (5, s)
        | some (g, t) =>
          if x.lclCores < fnum f 36 4 then (6, s)
          else
            match plan.foldl (fun (o : Option State) r => o.bind fun t => t.fillRegion x r.1 r.2 g) (some t) with
            | none => (4, s)
            | some t => (0, (t.onCtx ctx fun x => { x with memUsed := x.memUsed + planBytes plan }).addGraphs ctx plan g)

/-- FGB_LOAD (03 R90): the steward loads a file with the placing it has chosen; the status stands where the host reads. -/
def execFgbLoad (ctx : Nat) (file : List Byte) (places : List Placing) (tables : List Nat) (s : State) : Res :=
  let r := s.load ctx file places tables
  .next { r.2 with hostData := [BitVec.ofNat 8 r.1] }

end Sys2Proof.Machine
end

