-- ==== Sys2Proof/Machine/Outside.lean ====
section
/-! DEFINITION. What reaches the device from outside its cores: the host and its translations, the caches' and walkers'
own acts, and the bridge (11 R241, R247, R250; 12 R282; 15 R348 to R354; 18 R410 to R416). -/

namespace Sys2Proof.Machine

/-! ## Caches, walks and the scrub (11 R247 to R250; 15 R350) -/

/-- A bit of a cell of device memory is lost; its next read corrects it (11 R250; log 123). -/
def execCellUpset (a : Nat) (s : State) : Res :=
  .next (if a < deviceBytes then s.updMem fun m => { m with weak := NSet.add m.weak (a / 64) } else s)

/-- CACHE_SECTOR_FILL (11 R247, R248, R250): the sector of an address of device memory, poisoned where its data is
uncorrectable, corrected where it can be. -/
def execCacheSectorFill (a : Nat) (bad : Bool) (s : State) : Res :=
  let sec := a / 64
  .next (if deviceBytes ≤ a ∨ (Tab.get s.mem.sys sec).isSome then s
  else
    let p := bad || NSet.has s.mem.poison sec
    let s := if p then s else correctSector sec s
    let r := makeRoom none (sec / 2) s
    if r.1 then r.2.updMem fun m => { m with sys := Tab.put m.sys sec (Sector.mk false p) } else r.2)

/-- H firmware flushes the system cache (11 R241): every sector that no deferral pins goes, a dirty one to memory. -/
def execCacheFlush (s : State) : Res :=
  .next ((s.mem.sys.filter fun e => !(s.mem.defer.any fun d => d.pa / 128 == e.1 / 2)).foldl
    (fun s e => evictSector none e.1 s) s)

/-- TLB_MISS_WALK (15 R350): a walk for the context on core c. -/
def execTlbMissWalk (c : Nat) (va : Word) (s : State) : Res :=
  .next (match (s.getCore c).seat with
    | some z => if canonical va.toNat then (lookup s c z.ctx va.toNat).2 else s
    | none => s)

/-- PATROL_SCRUB (11 R250): a sector of device memory is read. A correctable error stands corrected afterwards and is reported
to H firmware (18 R412). Whether this read met an uncorrectable one, which poisons the sector, is open (log 2, 83). -/
def execPatrolScrub (a : Nat) (s : State) : Res :=
  let c := s.choose 2
  .next (if deviceBytes ≤ a then c.2
  else if c.1 = 0 then correctSector (a / 64) c.2
  else c.2.updMem fun m => { m with poison := NSet.add m.poison (a / 64) })

/-! ## The host's translations (15 R353, R354) -/

/-- The contexts with a PASID. -/
def State.pasidCtxs (s : State) (pasid : Nat) : List (Nat × Ctx) := s.ctxs.filter fun e => e.2.pasid == pasid

/-- Whether a host page meets a range. -/
def HostPage.meets (h : HostPage) (pasid lo n : Nat) : Bool :=
  h.pasid == pasid && decide (h.va < lo + n) && decide (lo < h.va + h.size)

/-- ATS_TRANSLATION_COMPLETION (R353): a page as the host returns it, cached for the contexts with that PASID; one not
present gives a page request. -/
def execAtsTranslationCompletion (pasid : Nat) (va : Word) (size : Nat) (hpa : Nat) (rights : BitVec 3) (present : Bool)
    (s : State) : Res :=
  let n := max 4096 size
  let lo := va.toNat / n * n
  let s := { s with hostMap := s.hostMap.filter fun h => !h.meets pasid lo n }
  .next (if present then
    (s.pasidCtxs pasid).foldl
      (fun (s : State) e =>
        let k := if s.atc.length < 4096 then (0, s) else s.choose 4096
        { k.2 with atc := insertTlb 4096 k.2.atc (Tlb.mk e.1 lo n hpa (rights.setWidth 64) 0) k.1 })
      { s with hostMap := s.hostMap ++ [(HostPage.mk pasid lo n hpa rights)] }
  else
    (s.pasidCtxs pasid).foldl
      (fun (s : State) e =>
        let q := (e.2.vi, pasid, va.toNat / 4096)
        if s.pri.contains q then s else { s with pri := s.pri ++ [q] }) s)

/-- Drops what the ATC holds of a range of a context. -/
def State.dropAtc (s : State) (ctx range addr : Nat) : State :=
  { s with atc := s.atc.filter fun t => !t.coveredBy ctx 0 range addr }

/-- HOST_ATS_INVALIDATE (R354): as a kind 0 command on the ATC, for every context with the PASID; nothing completes
while a covered access still drains. -/
def execHostAtsInvalidate (pasid : Nat) (va : Word) (size : Nat) (s : State) : Res :=
  let range := Nat.log2 (max 4096 size)
  let cs := (s.pasidCtxs pasid).map (·.1)
  .next (if cs.any fun c => s.stillDraining c 0 range va.toNat then s
  else
    let s := { s with hostMap := s.hostMap.filter fun h => !h.meets pasid (va.toNat / 2 ^ range * 2 ^ range) (2 ^ range) }
    cs.foldl
      (fun (s : State) c =>
        let ps := (s.allCores.filter fun k => s.holdsAccess k c 0 range va.toNat).map (·.pcore)
        (ps.foldl State.rollbackAt s).dropAtc c range va.toNat) s)

/-- PRI_PAGE_RESPONSE (R353): the oldest page request of an interface is answered; a place at the host is free for the
next one that waits in the device. -/
def execPriPageResponse (vi : Nat) (s : State) : Res :=
  .next (match (s.priOut vi).head? with
    | some q => { s with pri := s.pri.erase q }
    | none => s)

/-! ## Host accesses (12 R282; 18 R410, R411). Device memory stands at its own addresses, seen through the windows that a
steward maps; bar n of interface v at 2^64 + 2^24 v + 2^20 n, and the configuration space of function v at 2^65 + 4096 v
(log 14). -/

/-- The base of the BARs among the addresses of host accesses. -/
def barBase : Nat := 2 ^ 64

/-- The base of the configuration spaces among the addresses of host accesses. -/
def cfgBase : Nat := 2 ^ 65

/-- The interface, the bar and the offset of a host access to a BAR. -/
def barOf (a : Nat) : Nat × Nat × Nat := ((a - barBase) / 2 ^ 24 % 64, (a - barBase) / 2 ^ 20 % 16, a % 2 ^ 20)

/-- WINDOW_MAP (18 R411): a steward makes a range of device memory visible to the host, or no longer. -/
def execWindowMap (lo : Nat) (n : Nat) (on : Bool) (s : State) : Res :=
  let rest := s.windows.filter fun w => w != (lo, n)
  .next { s with windows := if on && decide (lo + n ≤ deviceBytes) then rest ++ [(lo, n)] else rest }

/-- Whether a host access reaches device memory: all of it in one window (R411). -/
def State.inWindow (s : State) (a n : Nat) : Bool := s.windows.any fun w => decide (w.1 ≤ a) && decide (a + n ≤ w.1 + w.2)

/-- The registers of a function's configuration space that are not zero, by offset and size (R410). Where each capability
stands is the model's choice (log 117). -/
def cfgItems (v : Nat) : List (Nat × Nat × Nat) :=
  [(0x00, 2, 0x5948), (0x02, 2, if v = 0 then 0x0008 else 0x0009), (0x06, 2, 0x0010), (0x09, 3, 0x120000), (0x34, 1, 0x40),
   -- PCI Express: AtomicOp completer, 32 and 64 bits; MSI-X: 2048 vectors, table and pending bits in BAR4;
   -- and the link at 64 GT/s, x16
   (0x40, 2, 0x8010), (0x42, 2, 2), (0x4C, 4, 0x106), (0x64, 4, 0x180), (0x6C, 4, 0x7E), (0x80, 2, 0x0011), (0x82, 2, 2047), (0x84, 4, 4), (0x88, 4, 0x8004),
   -- Advanced Error Reporting, ATS, PRI, PASID
   (0x100, 4, 0x15020001), (0x150, 4, 0x1601000F), (0x160, 4, 0x17010013), (0x168, 4, 512), (0x170, 4, 0x1801001B),
   (0x174, 2, 0x1400),
   -- Data Link Feature, Flit Logging
   (0x180, 4, 0x19010025), (0x190, 4, if v = 0 then 0x1B010032 else 0x00010032)] ++
  -- SR-IOV, of the physical function, with the virtual functions' BARs; its own BARs; all of them of 64 bits
  (if v = 0 then [(0x1B0, 4, 0x00010010), (0x1BC, 2, 63), (0x1BE, 2, 63), (0x1CA, 2, 0x0009), (0x1D4, 1, 4), (0x1DC, 1, 4),
    (0x1E4, 1, 4), (0x10, 1, 4), (0x18, 1, 4), (0x20, 1, 4)] else [])

/-- The configuration space of a function. -/
def cfgSpace (v : Nat) : Mem := (cfgItems v).foldl (fun m i => m.putN i.1 i.2.1 i.2.2) []

/-- A host read of configuration space (R410). -/
def cfgRead (a n : Nat) : List Byte := (cfgSpace (a / 4096 % 64)).bytes (a % 4096) n

/-- Puts the bytes of an access from address a over the bytes of a range from address b. -/
def overBytes (a : Nat) (bs : List Byte) (b : Nat) (old : List Byte) : List Byte :=
  (List.range old.length).map fun i => if a ≤ b + i then (bs[b + i - a]?).getD (old.getD i 0) else old.getD i 0

/-- The 8-byte words that a range meets. -/
def wordsOf (o n : Nat) : List Nat := if n = 0 then [] else (List.range ((o + n - 1) / 8 - o / 8 + 1)).map (· + o / 8)

/-- A host write to the queue BAR: the bytes that fall in a notify register; the queue must run (14 R313). -/
def State.queueWrite (s : State) (v : Vi) (o : Nat) (bs : List Byte) : State :=
  ((List.range 64).filter fun q => decide (4096 * q < o + bs.length) && decide (o < 4096 * q + 4)).foldl
    (fun (s : State) q =>
      let a := queueAddr v q
      if s.pnat (a + 9) 1 = 1 then s.dput (a + 24) 4 (ofBytes (overBytes o bs (4096 * q) (s.pbytes (a + 24) 4))) else s) s

/-- A host read of the queue BAR: the bytes of a notify register, zero elsewhere. -/
def State.queueRead (s : State) (v : Vi) (o n : Nat) : List Byte :=
  (List.range n).map fun i =>
    if (o + i) % 4096 < 4 ∧ o + i < 2 ^ 18 then ((s.pbytes (queueAddr v ((o + i) / 4096) + 28) 4)[(o + i) % 4096]?).getD 0 else 0

/-- The assigned bytes of BAR4 (R410, R411): 2048 vectors of 16 bytes, and their pending bits. -/
def msixBytes : Nat := 0x8100

/-- A host write to a BAR: its assigned bytes, word by word. -/
def State.barWrite (s : State) (vi bar o : Nat) (bs : List Byte) : State :=
  match bar with
  | 0 =>
    match s.viOf vi with
    | some v => s.queueWrite v o bs
    | none => s
  | 2 =>
    let page := regBase + 0x40000 + 4096 * vi
    ((wordsOf o bs.length).filter fun w => w < 512).foldl
      (fun (s : State) w =>
        s.regWrite (page + 8 * w) 8 (ofBytes (overBytes o bs (8 * w) (toBytes 8 (s.regRead (page + 8 * w) 8))))) s
  | 4 => { s with msix := s.msix.write (65536 * vi + o) (bs.take (msixBytes - o)) }
  | _ => s

/-- A host read of a BAR: an unassigned offset reads zero. -/
def State.barRead (s : State) (vi bar o n : Nat) : List Byte :=
  match bar with
  | 0 =>
    match s.viOf vi with
    | some v => s.queueRead v o n
    | none => List.replicate n 0
  | 2 =>
    (List.range n).map fun i =>
      if o + i < 4096 then
        ((toBytes 8 (s.regRead (regBase + 0x40000 + 4096 * vi + (o + i) / 8 * 8) 8))[(o + i) % 8]?).getD 0
      else 0
  | 4 => s.msix.bytes (65536 * vi + o) (min n (msixBytes - o)) ++ List.replicate (n - (msixBytes - o)) 0
  | _ => List.replicate n 0

/-- Whether the PCIe link has trained (R423, step 6). -/
def State.linked (s : State) : Bool := decide (6 ≤ s.bring)

/-- HOST_WRITE (12 R282; 18 R411): performed at the home slices, in delivery order; none before the link has trained. -/
def execHostWrite (a : Nat) (bs : List Byte) (s : State) : Res :=
  .next (if cfgBase ≤ a ∨ s.linked = false then s
  else if barBase ≤ a then let b := barOf a; s.barWrite b.1 b.2.1 b.2.2 bs
  else if s.inWindow a bs.length then s.pwrite none a bs (some false)
  else s)

/-- Open bytes for a host read of poisoned data (log 2). -/
def freeBytes : Nat → State → List Byte × State
  | 0, s => ([], s)
  | n + 1, s =>
    let w := s.freeWord
    let r := freeBytes n w.2
    (w.1.setWidth 8 :: r.1, r.2)

/-- HOST_READ (12 R282; 18 R410, R411): the value at the home slices; all ones before the link has trained. -/
def execHostRead (a : Nat) (len : Nat) (s : State) : Res :=
  .next (if s.linked = false then { s with hostData := List.replicate len 255 }
  else if cfgBase ≤ a then { s with hostData := cfgRead (a - cfgBase) len }
  else if barBase ≤ a then let b := barOf a; { s with hostData := s.barRead b.1 b.2.1 b.2.2 len }
  else if s.inWindow a len then
    let t := touch none a len false s
    if (poisonOf s a len).isSome then let r := freeBytes len t; { r.2 with hostData := r.1 }
    else { t with hostData := t.pbytes a len }
  else { s with hostData := List.replicate len 0 })

/-- The new value of a host AtomicOp on w bits (12 R282). -/
def hostApply (op : HostAtomic) (w old : Nat) : Nat :=
  match op with
  | .fetchAdd v => (old + v.toNat) % 2 ^ w
  | .swap v => v.toNat % 2 ^ w
  | .cas cmp new => if old = cmp.toNat % 2 ^ w then new.toNat % 2 ^ w else old

/-- HOST_ATOMICOP (12 R274, R282; 11 R256: full bits stay): on an aligned 4- or 8-byte word of device memory, the old
value returned. -/
def execHostAtomicop (a : Nat) (wide : Bool) (op : HostAtomic) (s : State) : Res :=
  let n := if wide then 8 else 4
  .next (if a % n ≠ 0 ∨ s.inWindow a n = false ∨ s.linked = false then s
  else
    let t := touch none a n false s
    if (poisonOf s a n).isSome then let r := freeBytes n t; { r.2 with hostData := r.1 }
    else { t with hostData := t.pbytes a n }.pwrite none a (toBytes n (hostApply op (8 * n) (t.pnat a n))) none)

/-! ## The bridge (18 R413 to R415) -/

/-- What a core loses when the bridge goes down: its unacknowledged writes to the peer (R415; 11 R251), reported but for
those of the device's own (14 R338). -/
def State.loseAcks (s : State) (p : Nat) : State :=
  let c := s.getCore p
  let lost := c.port.acks.filter fun a => a.node == 1
  let s := s.setCore { c with port := { c.port with acks := c.port.acks.filter fun a => a.node != 1 } }
  (lost.filter fun a => !a.silent).foldl
    (fun (s : State) a => s.trapRec a.ctx a.lcore (eventRec cWRFAIL 4 0 0 s.tick a.bundle a.va [] noPos)) s

/-- Whether an access of a command of core p at an address goes to the peer, and the state with what it looked up. -/
def State.inPeer (s : State) (p : Nat) (k : CCmd) (w : Want) (va : Option Nat) : Bool × State :=
  match va with
  | none => (false, s)
  | some va =>
    match translate s p k.ctx va w k.level none with
    | (.ok pa, s) => (nodeOf pa == 1, s)
    | (_, s) => (false, s)

/-- Halts the running reductions of a core whose element at hand comes from the peer or goes there (R415). -/
def State.haltReductions (s : State) (p : Nat) : State :=
  ((s.getCore p).eng.bte.filter fun k => k.state = .running).foldl
    (fun (s : State) k =>
      match k.dest k.progress with
      | .redc va =>
        let halt := fun (s : State) (va : Nat) (src : Bool) =>
          s.copyHalt p k 3 va (k.recs.headD 0) (crdBytes (k.coords k.progress)) src
        let d := s.inPeer p k .atomic (some va)
        if d.1 then halt d.2 va false
        else
          let r := d.2.inPeer p k .read (k.source k.progress)
          if r.1 then halt r.2 ((k.source k.progress).getD 0) true else r.2
      | _ => s) s

/-- What a core's pending loads and futures lose when the bridge goes down: each comes as poisoned data of the peer (R415). -/
def Pend.loseLink (q : Pend) : Pend :=
  let peer := fun (pa : Nat) => nodeOf pa == 1
  match q.wait with
  | .load ps sx w acq l1 => { q with wait := .load (ps.map fun p => { p with lost := p.lost || peer p.pa }) sx w acq l1 }
  | .future va pa acq _ _ fwd => if peer pa then { q with wait := .load [Piece.mk va pa fwd true] 3 0 acq false } else q
  | _ => q

/-- The pending reads of a core when the bridge goes down; a future gives up its place in the peer's deferral tables. -/
def State.loseReads (s : State) (p : Nat) : State :=
  let c := s.getCore p
  (s.setCore { c with pend := c.pend.map Pend.loseLink }).updMem fun m =>
    { m with defer := m.defer.filter fun d => !(d.core == p && nodeOf d.pa == 1) }

/-- The engine reads of a core that are under way in the peer come poisoned (R415), but for those of the link engine. -/
def State.loseCopies (s : State) (p : Nat) : State :=
  ((s.getCore p).eng.bte.filter fun k => k.state = .running && !k.isRedc).foldl
    (fun (s : State) k =>
      let r := s.inPeer p k .read (k.source k.progress)
      if r.1 then r.2.onCmd p k.pos fun k => { k with lost := true } else r.2) s

/-- A direction of the bridge goes down (R415). -/
def State.linkDown (s : State) (rx : Bool) : State :=
  let off := fun (l : Link) => { l with up := false, retries := 0, low := [], good := 0, retrain := none }
  let s := { s with bridge := if rx then { s.bridge with rx := off s.bridge.rx } else { s.bridge with tx := off s.bridge.tx } }
  s.allCores.foldl
    (fun (s : State) c => (((s.loseAcks c.pcore).loseReads c.pcore).loseCopies c.pcore).haltReductions c.pcore) s

/-- The counts of a direction after a report of its lanes' margins (R414). -/
def Link.report (l : Link) (lowMark highMark : Nat) (mv : List Nat) : Link :=
  { l with
    low := (mv.zip (List.range mv.length)).map fun e => if e.1 < lowMark then l.low.getD e.2 0 + 1 else 0
    good := if mv.all fun m => decide (highMark ≤ m) then l.good + 1 else 0
    holdOff := l.holdOff - 1 }

/-- The reports of 10 s, and of 60 s (R414). -/
def goodReports : Nat := 1000000

/-- BRIDGE_MARGIN_REPORT (R414): the margins of the receive direction's lanes, in millivolts. -/
def execBridgeMarginReport (mv : List Nat) (s : State) : Res :=
  let l := s.bridge.rx.report s.bridge.marginLow s.bridge.marginHigh mv
  let put := fun (l : Link) => { s with bridge := { s.bridge with rx := l } }
  .next (if s.bridge.rx.up = false ∨ s.bridge.rx.retrain.isSome then s
  else if l.low.any fun n => decide (100 ≤ n) then
    if l.step = 3 then s.linkDown true
    else put { l with low := [], good := 0, holdOff := 6 * goodReports, retrain := some (l.step + 1) }
  else if goodReports ≤ l.good ∧ l.holdOff = 0 ∧ s.bridge.maxStep < l.step then
    put { l with low := [], good := 0, retrain := some (l.step - 1) }
  else put l)

/-- The peer, the receiver of the transmit direction, requests another rate (R414); a lane that fails at step 3 takes the
direction down. -/
def execPeerRate (lower : Bool) (s : State) : Res :=
  let l := s.bridge.tx
  let put := fun (r : Nat) => { s with bridge := { s.bridge with tx := { l with retrain := some r } } }
  .next (if l.up = false ∨ l.retrain.isSome then s
  else if lower then (if l.step = 3 then s.linkDown false else put (l.step + 1))
  else if s.bridge.maxStep < l.step then put (l.step - 1)
  else s)

/-- The end of a direction's retraining. -/
def Link.trained (l : Link) : Link :=
  match l.retrain with
  | some r => { l with up := true, step := r, retries := 0, low := [], good := 0, retrain := none }
  | none => l

/-- BRIDGE_RETRAIN_DONE (R414, R415): every direction that retrains is up at its step; a change of rate is an event. -/
def execBridgeRetrainDone (s : State) : Res :=
  let b := s.bridge
  let n := (if b.rx.trained.step ≠ b.rx.step then 1 else 0) + (if b.tx.trained.step ≠ b.tx.step then 1 else 0)
  .next ((List.range n).foldl (fun (s : State) _ => s.hEvent)
    { s with bridge := { b with rx := b.rx.trained, tx := b.tx.trained } })

/-- FLIT_RETRY (R415): a flit is sent again, well or not; after 8 retries the direction goes down. -/
def execFlitRetry (rx : Bool) (good : Bool) (s : State) : Res :=
  let l := if rx then s.bridge.rx else s.bridge.tx
  let put := fun (n : Nat) =>
    { s with bridge := if rx then { s.bridge with rx := { l with retries := n } } else { s.bridge with tx := { l with retries := n } } }
  .next (if l.up = false then s
  else if good then put 0
  else if 8 ≤ l.retries + 1 then s.linkDown rx
  else put (l.retries + 1))

end Sys2Proof.Machine
end

