-- ==== Sys2Proof/Machine/Board.lean ====
section
/-! DEFINITION. The coolant port, the emergency save, the management bus, the mailboxes' firmware side, attestation and
bring-up (17 R403, R407, R408; 18 R412, R418 to R423). -/

namespace Sys2Proof.Machine

/-! ## The coolant port (18 R418) -/

/-- COOLANT_CONTROL_UPDATE (R418): duties in 1/256, of the pump and of the four valves. -/
def execCoolantControlUpdate (pump : Nat) (valves : List Nat) (s : State) : Res :=
  .next { s with coolant := { s.coolant with
    pump := min 256 pump, valves := (List.range 4).map fun i => min 256 (valves.getD i (s.coolant.valves.getD i 256)) } }

/-- The coolant loop that the board configuration block describes. -/
def State.loop (s : State) : Option Loop := s.board.bind (·.cooling)

/-- Readings of the tachometer and of the flow sensor; none of one that is silent. The ticks since when they are below the
block's minima are kept. -/
def execCoolantReading (speed : Nat) (flow : Option Nat) (s : State) : Res :=
  let c := s.coolant
  let below := fun (least : Loop → Nat) (v : Nat) (since : Option Nat) =>
    match s.loop with
    | some l => if v < least l then some (since.getD s.tick) else none
    | none => none
  .next { s with coolant := { c with
    speed := speed
    slow := below Loop.minSpeed speed c.slow
    flow := flow.getD c.flow
    dry := match flow with
      | some f => below Loop.minFlow f c.dry
      | none => c.dry
    heard := if flow.isSome then s.tick else c.heard } }

/-- Whether a condition of the cooling system holds (R418): 1 s below the block's minima, coolant above its limit, a sensor
silent for 100 ms. -/
def State.coolingHolds (s : State) (kind : CoolFault) : Bool :=
  let c := s.coolant
  match s.loop, kind with
  | none, _ => false
  | some _, .pump => (c.slow.map fun t => decide (t + 1000000000 ≤ s.tick)).getD false
  | some _, .flow => (c.dry.map fun t => decide (t + 1000000000 ≤ s.tick)).getD false
  | some l, .hot => (c.reading.map fun r => decide (l.limit.toInt < r.toInt)).getD false
  | some _, .silent => decide (min c.heard c.heardTemp + 100000000 ≤ s.tick)

/-- COOLING_FAULT (R418): a condition that holds appends an event, and one that holds no longer clears; a silent sensor
gives no reading. -/
def execCoolingFault (kind : CoolFault) (on : Bool) (s : State) : Res :=
  let c := s.coolant
  .next (if on != s.coolingHolds kind then s
  else if on then
    if c.faults.contains kind then s
    else { s with coolant := { c with
      faults := c.faults ++ [kind], reading := if kind = CoolFault.silent then none else c.reading } }.hEvent
  else { s with coolant := { c with faults := c.faults.filter fun k => decide (k ≠ kind) } })

/-! ## The emergency save (17 R408) -/

/-- The bytes of a save area (17 R389). -/
def saveAreaSize : Nat := 40960

/-- The blocks of a context's log window that are dirty: written since the log was last harvested (15 R355). -/
def State.dirtyBlocks (s : State) (x : Ctx) : List Nat :=
  if x.logBase = 0 then []
  else ((List.range (2 ^ x.logSize / 65536)).filter fun b => (s.pnat (x.logBase + 8 * (b / 64)) 8).testBit (b % 64)).map
    fun b => x.logWin + 65536 * b

/-- The projected bytes of a context (R408, step 2): the live loaves and valid save areas of its images, and its dirty
blocks. -/
def State.projected (s : State) (x : Ctx) : Nat :=
  ((List.range x.lcores).map fun l =>
    let im := s.imageOf x l
    4096 * ((List.range loafCount).filter fun k => s.imgLoaf im k == 1).length +
      (if s.pnat (im + 0x30803C) 4 = 1 then saveAreaSize else 0)).foldl (· + ·) 0 + 65536 * (s.dirtyBlocks x).length

/-- Whether saving so many bytes at 64 GB/s takes longer than the temperature, as it rose over the last samples, needs to
t_trip (R408, steps 3 and 4). -/
def State.tooLate (s : State) (bytes : Nat) : Bool :=
  let now := (s.heats.headD 0).toInt
  let rise := now - (s.heats.getLastD 0).toInt
  let ticks := 1000 * (s.heats.length - 1)
  decide (0 < rise) && decide (64 * ((limitAt limitsReset 3 : Int) - now) * ticks < bytes * rise)

/-- A section of a reflection (17 R403): its type, logical core and virtual address, the first bytes of its payload, and
the physical ranges that follow them. -/
structure RSect where
  type : Nat
  lcore : Nat
  va : Nat
  head : List Byte
  parts : List (Nat × Nat)
  deriving DecidableEq, Repr

/-- The size of a section's payload. -/
def RSect.size (r : RSect) : Nat := r.head.length + (r.parts.map (·.2)).foldl (· + ·) 0

/-- The 16-byte descriptor of a memory region of one 4 KiB page under a leaf (R403). -/
def pageDescriptor (e : Nat) : List Byte :=
  toBytes 8 4096 ++ toBytes 1 (bits e 11 8) ++ toBytes 1 (bits e 5 2) ++ toBytes 1 (bits e 50 48) ++
    toBytes 1 (bits e 46 45) ++ toBytes 4 0

/-- The memory sections of a context's dirty blocks: their mapped pages, a node-2 page by its descriptor alone (R403). -/
def State.memorySects (s : State) (x : Ctx) : List RSect :=
  (s.dirtyBlocks x).flatMap fun b => (List.range 16).filterMap fun k =>
    let va := b + 4096 * k
    match walk s x va with
    | .leaf e _ =>
      let pa := leafPa e + va % pageSize (bits e 11 8) / 4096 * 4096
      some (RSect.mk 5 0 va (pageDescriptor e) (if bits e 46 45 = 2 then [] else [(pa, 4096)]))
    | _ => none

/-- Whether a reflection at a host address holds a section as it is now (R403): of its type, logical core, address and
payload. It has at most `most` sections. -/
def State.holdsSect (s : State) (a most : Nat) (r : RSect) : Bool :=
  let g := fun (o n : Nat) => s.mem.host.nat (a + o) n
  (List.range (min most (g 4 4))).any fun i =>
    let e := 64 + 32 * i
    let at_ := a + g (e + 8) 8
    g e 2 == r.type && g (e + 2) 2 == r.lcore && g (e + 24) 8 == r.va && g (e + 16) 8 == r.size &&
      s.mem.host.bytes at_ r.head.length == r.head &&
      (r.parts.foldl
        (fun (x : Bool × Nat) q => (x.1 && s.mem.host.slice x.2 q.2 == s.mem.bytes.slice q.1 q.2, x.2 + q.2))
        (true, at_ + r.head.length)).1

/-- The sections of a whole reflection of a context (R403; log 118): header, walker area, images, barrier stores, dirty
log, dirty memory, and the descriptors of its queues. -/
def State.reflection (s : State) (ctx : Nat) (x : Ctx) : List RSect :=
  let w := s.walkerOf x
  let qs := match s.viOf x.vi with
    | some v => ((List.range 64).filter fun q => s.queueCtx x.vi q == some ctx).map fun q => (queueAddr v q, 64)
    | none => []
  [RSect.mk 1 0 0 [] [(x.header, 4096)], RSect.mk 2 0 0 [] [(w.1, w.2)]] ++
    ((List.range x.lcores).map fun l => RSect.mk 3 l 0 [] [(s.imageOf x l, 4194304)]) ++
    ((List.range x.lcores).map fun l => RSect.mk 4 l 0 [] [(s.sbsOf x l, 4096)]) ++
    (if x.logBase = 0 then [] else [RSect.mk 6 0 x.logWin [] [(x.logBase, 2 ^ x.logSize / 65536 / 8)]]) ++
    s.memorySects x ++ [RSect.mk 7 0 0 [] qs]

/-- Writes bytes to host memory. -/
def State.hostPut (s : State) (a : Nat) (bs : List Byte) : State := s.pwrite none (hostBase + a) bs none

/-- Copies a physical range of the device to host memory. -/
def State.hostCopy (s : State) (dst src n : Nat) : State :=
  s.updMem fun m => { m with
    host := m.host.paste dst n (m.bytes.slice src n), poison := uncovered (hostBase + dst) n m.poison }

/-- Copies ranges to host memory one after another. -/
def State.hostCopies (s : State) : Nat → List (Nat × Nat) → State
  | _, [] => s
  | dst, r :: rs => (s.hostCopy dst r.1 r.2).hostCopies (dst + r.2) rs

/-- Writes the i-th section's entry and its payload of a reflection at a host address; the payload stands at an offset. -/
def State.putSect (s : State) (a i off : Nat) (r : RSect) : State :=
  let s := s.hostPut (a + 64 + 32 * i)
    (toBytes 2 r.type ++ toBytes 2 r.lcore ++ toBytes 4 0 ++ toBytes 8 off ++ toBytes 8 r.size ++ toBytes 8 r.va)
  (s.hostPut (a + off) r.head).hostCopies (a + off + r.head.length) r.parts

/-- Writes the sections of a reflection from the i-th on. -/
def State.putSects (s : State) (a : Nat) : Nat → Nat → List RSect → State
  | _, _, [] => s
  | i, off, r :: rs => (s.putSect a i off r).putSects a (i + 1) (off + r.size) rs

/-- Writes an emergency reflection of a frozen context into the invalid slot of its store, and then the status block (R407,
R408, step 5): a delta to the valid slot, of the sections that this one does not hold as they are (R403). A store with no
room keeps its valid slot. -/
def State.writeDelta (s : State) (ctx : Nat) (x : Ctx) : State :=
  let store := s.pnat (x.header + 32) 8
  let half := s.pnat (x.header + 40) 8 / 2 - 64
  let stat := fun (o n : Nat) => s.pnat (hostBase + store + o) n
  let slot := 1 - stat 0 1 % 2
  let base := hostBase + store + 64 + half * (1 - slot)
  let l := (s.reflection ctx x).filter fun r => !(s.holdsSect base (half / 32) r)
  let a := store + 64 + half * slot
  let seq := (stat 8 8 + 1) % 2 ^ 64
  if store = 0 ∨ half < 64 + 32 * l.length + (l.map RSect.size).foldl (· + ·) 0 then s
  else
    let s := s.hostPut a
      (toBytes 4 0x01465246 ++ toBytes 4 l.length ++ toBytes 8 seq ++ toBytes 8 (stat 8 8) ++
        toBytes 8 (s.pnat (x.header + 56) 8) ++ toBytes 2 x.lcores ++ List.replicate 30 0)
    (s.putSects a 0 (64 + 32 * l.length) l).hostPut store
      (toBytes 1 slot ++ toBytes 1 2 ++ List.replicate 6 0 ++ toBytes 8 seq ++ List.replicate 48 0)

/-- Strikes a context off the emergency save at hand. -/
def State.saved (s : State) (ctx : Nat) : State := { s with saves := s.saves.filter fun e => e.1 != ctx }

/-- The context that the emergency save takes next: the one of the least projected bytes (R408, step 2). -/
def State.nextSave (s : State) : Option (Nat × Bool) := (sortBy (fun e => ((Tab.get s.ctxs e.1).map s.projected).getD 0) s.saves).head?

/-- H firmware goes on with the emergency save (R408, steps 2 to 5) once every context that it covers is suspended: it
abandons the next one, asks for its freeze, or writes its delta. -/
def execEmergencySave (s : State) : Res :=
  .next (if s.saves.any fun e => ((Tab.get s.ctxs e.1).map fun x => x.state == 0 || x.state == 3).getD false then s
  else
    match s.nextSave with
    | none => s
    | some e =>
      match Tab.get s.ctxs e.1 with
      | none => s.saved e.1
      | some x =>
        if e.2 then (if x.state = 2 then (s.writeDelta e.1 x).saved e.1 else s)
        else if s.pnat (x.header + 32) 8 = 0 ∨ s.tooLate (s.projected x) = true then s.saved e.1
        else { s.openRequest e.1 1 with saves := s.saves.map fun v => if v.1 = e.1 then (v.1, true) else v })

/-! ## The board controller (18 R419) -/

/-- MGMT_SMBUS_WRITE (R419; 01 R17): gov.limit from the board controller, within its range. -/
def execMgmtSmbusWrite (v : Word) (s : State) : Res :=
  .next (if 300 ≤ v.toNat ∧ v.toNat ≤ 750 then s.regWrite (regBase + 0x20000) 8 v.toNat else s)

/-- What the board controller reads (R419): every sensor, the joule counters of the islands, gov.limit, the bridge's state;
and the step at which bring-up failed, 0 where it did not (R423). -/
def State.mgmtValue (s : State) (i : MgmtItem) : Nat :=
  match i with
  | .core p => (s.getCore (p % 128)).sensor.toNat
  | .slice k => ((s.sliceSensor.find? fun r => r.which == k).map fun r => r.value.toNat).getD 0x8000
  | .coolant => (s.coolant.reading.map (·.toNat)).getD 0x8000
  | .flow => s.coolant.flow
  | .speed => s.coolant.speed
  | .joules isl => (s.islandAt (isl % 4)).joule
  | .limit => s.regRead (regBase + 0x20000) 8
  | .bridge => s.regRead (regBase + 0x30000) 8
  | .bringUp => if s.bringFailed then s.bring + 1 else 0

/-- A read of the board controller (R419). -/
def execMgmtRead (i : MgmtItem) (s : State) : Res := .next { s with mgmt := s.mgmtValue i }

/-- GRACEFUL_POWER_DOWN (R419; log 29): every context is suspended; when all are, the device is off. -/
def execGracefulPowerDown (s : State) : Res :=
  .next (if s.ctxs.all fun e => e.2.state != 0 then { s with power := .off }
  else
    { s with ctxs := s.ctxs.map fun e =>
      if e.2.state = 0 ∧ e.2.stopping = [] then (e.1, { e.2 with stopping := [0] }) else e })

/-! ## Mailboxes and attestation (18 R412, R422) -/

/-- H firmware takes the oldest request of a mailbox in hand; none where one is in hand or none is outstanding. -/
def Mbox.takeReq (m : Mbox) : Mbox :=
  if m.hand.isSome ∨ m.reqRd % 16 = m.reqWr % 16 then m
  else { m with hand := some (m.page.nat (0x400 + 64 * (m.reqRd % 16)) 8), busy := true, reqRd := (m.reqRd + 1) % 16 }

/-- Whether H firmware can answer: a request is in hand and the reply ring has room. -/
def Mbox.answers (m : Mbox) : Bool := m.hand.isSome && decide ((m.repWr + 16 - m.repRd) % 16 < 15)

/-- Answers the request in hand: the reply repeats its function code and its tag. -/
def Mbox.reply (m : Mbox) (body : Nat) : Mbox :=
  let req := m.hand.getD 0
  let v := setBits (setBits body 15 0 (bits req 15 0)) 63 32 (bits req 63 32)
  { m with
    hand := none
    busy := false
    repWr := (m.repWr + 1) % 16
    page := m.page.putN (0x800 + 64 * (m.repWr % 16)) 64 v }

/-- H firmware begins to process a request (R412). -/
def execMailboxTake (vi : Nat) (s : State) : Res := .next { s with mbox := vmod s.mbox vi Mbox.takeReq }

/-- H firmware answers a request (R412). -/
def execMailboxReply (vi : Nat) (body : BitVec 512) (s : State) : Res :=
  .next { s with mbox := vmod s.mbox vi fun m => if m.answers then m.reply body.toNat else m }

/-- The regions of the SPI flash (18 R420): the firmware slots and the board configuration block. -/
def slotBase (b : Bool) : Nat := if b then 0x810000 else 0x10000

/-- The size of a firmware slot. -/
def slotBytes : Nat := 0x800000

/-- The bytes at the end of a slot that hold the firmware's key and its signature section (log 119). -/
def signedTail : Nat := 57 + 144

/-- The digest of the firmware in a slot. -/
def State.slotDigest (s : State) (b : Bool) : List Byte := shake256 (s.flash.bytes (slotBase b) (slotBytes - signedTail)) 64

/-- The digest of the board configuration block. -/
def State.boardDigest (s : State) : List Byte := shake256 (s.flash.bytes 0x1010000 0x10000) 64

/-- The report of R422 for an interface. -/
def State.report (s : State) (vi : Nat) (nonce : BitVec 256) : Nat :=
  let entry := s.mem.bytes.bytes (s.ten.vitBase.toNat + 64 * (vi % 64)) 64
  (Config.attest nonce (s.slotDigest (s.slot.getD false)) s.boardDigest s.rollback entry).toNat

/-- ATTESTATION_REPORT (R422, R412): H firmware answers the request in hand, or else the oldest one, with a signed
report. -/
def execAttestationReport (vi : Nat) (nonce : BitVec 256) (s : State) : Res :=
  let m := s.mbox[Fin.ofNat 64 vi].takeReq
  .next (if m.answers then { s with mbox := vmod s.mbox vi fun _ => m.reply (s.report vi nonce) } else s)

/-! ## Bring-up (18 R420, R421, R423) -/

/-- Whether the firmware in a slot verifies (R420): its key's identifier and hash, and its signature over the SHAKE256
digest. Where they stand in the slot is the model's choice (log 119). -/
def State.slotOk (s : State) (b : Bool) : Bool :=
  let tail := s.flash.bytes (slotBase b + slotBytes - signedTail) signedTail
  let key := tail.take 57
  let id := (tail.drop 57).take 16
  let sig := (tail.drop 73).take 114
  (shake256 key 16 == id) && s.fuses.contains (shake256 key 64) && ed448ph key (s.slotDigest b) sig

/-- The slot that the boot ROM runs (R423, step 1): the one that the boot header names, else the other; a rollback counter
below the fused one is refused. -/
def State.bootSlot (s : State) : Option Bool :=
  let b := s.flash.nat 0 1 % 2 == 1
  if s.flash.nat 8 8 < s.rollback then none
  else if s.slotOk b then some b
  else if s.slotOk (!b) then some (!b)
  else none

/-- Whether the values of a board configuration block are in range and its signer is listed (R421). -/
def Board.ok (b : Board) : Bool :=
  decide (300 ≤ b.watts ∧ b.watts ≤ 750) &&
    ((List.range 4).all fun i => decide (limitAt b.limits i ≤ limitAt limitsReset i)) &&
    (b.offsets.all fun o => decide (-32 ≤ o.toInt ∧ o.toInt ≤ 32)) && b.keys.contains b.signer

/-- Where the board configuration block stands in the flash, and its size (R420). -/
def boardBase : Nat := 0x1010000
/-- See boardBase. -/
def boardBytes : Nat := 0x10000

/-- Whether the board configuration block in the flash is signed with the key of an identifier (R421). Where key and
signature stand in it is the model's choice, and that they are as firmware's (log 119). -/
def State.boardSigned (s : State) (signer : BitVec 128) : Bool :=
  let tail := s.flash.bytes (boardBase + boardBytes - signedTail) signedTail
  let key := tail.take 57
  let sig := (tail.drop 73).take 114
  (tail.drop 57).take 16 == toBytes 16 signer.toNat && shake256 key 16 == toBytes 16 signer.toNat &&
    ed448ph key (shake256 (s.flash.bytes boardBase (boardBytes - signedTail)) 64) sig

/-- Whether a board configuration block is taken (R421). -/
def State.boardOk (s : State) (b : Board) : Bool := Board.ok b && s.boardSigned b.signer

/-- Applies a board configuration block, or its absence: reset values, 300 W, and no bridge (R421, R423); a bridge that the
block does not name is down. -/
def State.applyBoard (s : State) (b : Option Board) : State :=
  let b := b.filter s.boardOk
  let off := fun (l : Link) => if (b.bind (·.bridge)).isSome then l else { l with up := false, retrain := none }
  let set := fun (watts : Nat) (rail : BitVec 16) (lim : Word) =>
    { s with
      board := b
      bridge := { s.bridge with tx := off s.bridge.tx, rx := off s.bridge.rx }
      gov := { s.gov with watts := watts }
      govNext := { s.govNext with watts := watts }
      ten := { s.ten with rail := rail, railNew := rail, railPend := 0 }
      limH := lim }
  match b with
  | some b => set b.watts b.rail (limitsOf (limitAt b.limits 0) (limitAt b.limits 1) (limitAt b.limits 2))
  | none => set 300 State.reset.ten.rail limitsReset

/-- Clears device memory (R423, step 3; 11 R250); the peer's is the peer's. -/
def Memory.cleared (m : Memory) : Memory :=
  { m with
    bytes := m.bytes.above (2 ^ 45), full := m.full.filter fun w => 2 ^ 42 ≤ w
    poison := m.poison.filter fun x => 2 ^ 39 ≤ x, dirtyTrack := m.dirtyTrack.filter fun x => 2 ^ 39 ≤ x
    weak := m.weak.filter fun x => 2 ^ 39 ≤ x }

/-- Firmware starts the coolant loop (R423, step 4): pump and valves at full, as the board has read them since reset (R418). -/
def State.startCooling (s : State) : State :=
  { s with coolant := { s.coolant with pump := 256, valves := List.replicate 4 256 } }

/-- The effect of a step of bring-up (R423); step 5 succeeds where each chip has verified the other's identity report. -/
def State.bringStep (s : State) (n : Nat) (b : Option Board) : State :=
  match n with
  | 1 => { s with clusters := s.clusters.map fun k => { k with gated := true }, slot := s.bootSlot }
  | 2 => s.applyBoard b
  | 3 => s.updMem Memory.cleared
  | 4 =>
    { s.startCooling.updMem fun m => { m with sys := [], defer := [] } with
      vit := .replicate 64 none, vitNext := .replicate 64 none, ctlb := [], atc := [] }
  | 5 =>
    match s.board.bind (·.bridge) with
    | some r => { s with bridge := { s.bridge with
        maxStep := r.toNat, opened := true
        tx := { s.bridge.tx with up := true, step := r.toNat }
        rx := { s.bridge.rx with up := true, step := r.toNat } } }
    | none => s
  | 7 => s.vitLoad 0
  | _ => s

/-- Whether the coolant flows (R423, step 4): at the block's minimum, where the block has a coolant loop. -/
def State.flows (s : State) : Bool := (s.loop.map fun l => decide (l.minFlow ≤ s.coolant.flow)).getD true

/-- BRING_UP (R423): the next step, with the configuration block as it verifies; a failure halts bring-up, at step 1 that of
both firmware slots too. Step 4 waits for coolant flow. -/
def execBringUp (ok : Bool) (block : Option Board) (s : State) : Res :=
  let n := s.bring + 1
  .next (if s.bringFailed ∨ 7 < n then s
  else if !ok || (n == 1 && s.bootSlot.isNone) then { s with bringFailed := true }
  else if n == 4 && !s.flows then s.startCooling
  else { s.bringStep n block with bring := n })

end Sys2Proof.Machine
end

