-- ==== Sys2Proof/Machine/Uses.lean ====
section
/-! DEFINITION. The registers that each instruction reads or names as a destination, for the freezes on pending registers
(03 R70, R73), the read ports of the main vector file (05 R116) and the waits of a segment for itself (08 R175). -/

namespace Sys2Proof.Machine

/-- A register that an instruction uses: a scalar register, a vector register and whether it is read, a shadow. -/
inductive Use where
  | x (i : Fin 56)
  | v (d : VDst) (read : Bool)
  | sd (i : Fin 8)
  deriving DecidableEq, Repr

/-- A scalar source (03 R68); X0 and latches are never pending. -/
def useS : SSrc → List Use
  | .x i => [.x i]
  | _ => []

/-- k scalar registers from one on (13 R292). -/
def useX (d : Fin 56) (k : Nat) : List Use := ((List.range k).filter fun i => d.val + i < 56).map fun i => .x (Fin.ofNat 56 (d.val + i))

/-- A vector destination group of k (05 R115), read too where the instruction accumulates (05 R116). -/
def useD (d : VDst) (k : Nat) (read : Bool) : List Use := (List.range k).map fun j => .v (VDst.nth d j) read

/-- A vector source group of k. -/
def useV (a : VSrc) (k : Nat) : List Use :=
  match a with
  | .v i => useD (.v i) k true
  | .w i => useD (.w i) k true
  | _ => []

/-- A barrier operand (03 R65). -/
def useBar : BarOp → List Use
  | .name x => useS x
  | .idx _ => []

/-- An optional barrier operand. -/
def useBar? : Option BarOp → List Use
  | some b => useBar b
  | none => []

/-- What PIPW sends. -/
def usePipeSrc : PipeSrc → List Use
  | .x a => useS a
  | .v a => useV a 1

/-- Where PIPR delivers. -/
def usePipeDst : PipeDst → List Use
  | .x d => useX d 1
  | .v d => useD d 1 false

/-- The shadow that a swap brings in (06 R147). -/
def useSw (h : Fin 8) (sw : Bool) : List Use := if sw then [.sd h] else []

/-- The record that SHRD and SHCHK read (06 R151). -/
def useR (r : Fin 16) : List Use := if 8 ≤ r.val then [.sd (Fin.ofNat 8 r.val)] else []

/-- The registers that an instruction uses (03 R70, R73). -/
def usesOf (i : Instr) : List Use :=
  match i with
  | .add _ d a b => useX d 1 ++ useS a ++ useS b
  | .sub _ d a b => useX d 1 ++ useS a ++ useS b
  | .mul _ d a b => useX d 1 ++ useS a ++ useS b
  | .mulh _ d a b => useX d 1 ++ useS a ++ useS b
  | .mulhu _ d a b => useX d 1 ++ useS a ++ useS b
  | .div _ d a b => useX d 1 ++ useS a ++ useS b
  | .divu _ d a b => useX d 1 ++ useS a ++ useS b
  | .rem _ d a b => useX d 1 ++ useS a ++ useS b
  | .remu _ d a b => useX d 1 ++ useS a ++ useS b
  | .and _ d a b => useX d 1 ++ useS a ++ useS b
  | .or _ d a b => useX d 1 ++ useS a ++ useS b
  | .xor _ d a b => useX d 1 ++ useS a ++ useS b
  | .andn _ d a b => useX d 1 ++ useS a ++ useS b
  | .shl _ d a b => useX d 1 ++ useS a ++ useS b
  | .shr _ d a b => useX d 1 ++ useS a ++ useS b
  | .sra _ d a b => useX d 1 ++ useS a ++ useS b
  | .rotl _ d a b => useX d 1 ++ useS a ++ useS b
  | .min _ d a b => useX d 1 ++ useS a ++ useS b
  | .max _ d a b => useX d 1 ++ useS a ++ useS b
  | .minu _ d a b => useX d 1 ++ useS a ++ useS b
  | .maxu _ d a b => useX d 1 ++ useS a ++ useS b
  | .clz _ d a => useX d 1 ++ useS a
  | .ctz _ d a => useX d 1 ++ useS a
  | .popc _ d a => useX d 1 ++ useS a
  | .sel _ d a b => useX d 1 ++ useS a ++ useS b
  | .exts _ d a _ => useX d 1 ++ useS a
  | .extz _ d a _ => useX d 1 ++ useS a
  | .bfx _ d a b => useX d 1 ++ useS a ++ useS b
  | .bfi _ d a b => useX d 1 ++ useS a ++ useS b
  | .mov _ d a => useX d 1 ++ useS a
  | .adda _ d a b => useX d 1 ++ useS a ++ useS b
  | .widf _ d _ => useX d 1
  | .addi _ d a _ => useX d 1 ++ useS a
  | .andi _ d a _ => useX d 1 ++ useS a
  | .ori _ d a _ => useX d 1 ++ useS a
  | .xori _ d a _ => useX d 1 ++ useS a
  | .shli _ d a _ => useX d 1 ++ useS a
  | .shri _ d a _ => useX d 1 ++ useS a
  | .srai _ d a _ => useX d 1 ++ useS a
  | .cmpiEq _ _ a _ => useS a
  | .cmpiNe _ _ a _ => useS a
  | .cmpiLt _ _ a _ => useS a
  | .cmpiLe _ _ a _ => useS a
  | .cmpiLtn _ _ a _ => useS a
  | .cmpiLen _ _ a _ => useS a
  | .li _ d _ => useX d 1
  | .lih _ d _ => useX d 1
  | .cmpEq _ _ a b => useS a ++ useS b
  | .cmpNe _ _ a b => useS a ++ useS b
  | .cmpLt _ _ a b => useS a ++ useS b
  | .cmpLe _ _ a b => useS a ++ useS b
  | .cmpLtn _ _ a b => useS a ++ useS b
  | .cmpLen _ _ a b => useS a ++ useS b
  | .pand _ _ _ _ => []
  | .por _ _ _ _ => []
  | .pxor _ _ _ _ => []
  | .pnot _ _ _ => []
  | .pmov _ _ _ => []
  | .br _ _ _ => []
  | .call _ _ _ _ => useX (55 : Fin 56) 1
  | .ret a => useS a
  | .jmpx _ d a => useX d 1 ++ useS a
  | .loop d _ => useS d
  | .loopm d _ => useS d
  | .brkl _ _ => []
  | .sleep a => useS a
  | .shf _ a sd => useS a ++ [.sd sd]
  | .shfAdd _ a sd => useS a ++ [.sd sd]
  | .shfi _ _ sd => [.sd sd]
  | .shfiAdd _ _ sd => [.sd sd]
  | .shcpD sd _ => [.sd sd]
  | .shcpSd sd t => [.sd sd] ++ [.sd t]
  | .shcpMem sd a => [.sd sd] ++ useS a
  | .shrd _ d r _ => useX d 1 ++ useR r
  | .shchk _ d r => useX d 1 ++ useR r
  | .csrr _ g _ => useX g 1
  | .csrw g _ => useS g
  | .csrs g _ => useS g
  | .csrc g _ => useS g
  | .sys _ => []
  | .freeze _ d a => useX d 1 ++ useS a
  | .pairset _ d a => useX d 1 ++ useS a
  | .ctc _ d => useX d 1
  | .budq _ d a => useX d 1 ++ useS a
  | .boost _ d a => useX d 1 ++ useS a
  | .jrd _ d a => useX d 1 ++ useS a
  | .thq _ d a => useX d 1 ++ useS a
  | .vadd _ _ d a b => useD d 1 false ++ useV a 1 ++ useV b 1
  | .vsub _ _ d a b => useD d 1 false ++ useV a 1 ++ useV b 1
  | .vadds _ _ d a b => useD d 1 false ++ useV a 1 ++ useV b 1
  | .vsubs _ _ d a b => useD d 1 false ++ useV a 1 ++ useV b 1
  | .vmul _ _ d a b => useD d 1 false ++ useV a 1 ++ useV b 1
  | .vmulh _ _ d a b => useD d 1 false ++ useV a 1 ++ useV b 1
  | .vmulw _ _ d a b => useD d 2 false ++ useV a 1 ++ useV b 1
  | .vmac _ _ d a b => useD d 1 true ++ useV a 1 ++ useV b 1
  | .vdot _ _ d a b => useD d 1 true ++ useV a 1 ++ useV b 1
  | .vand _ _ d a b => useD d 1 false ++ useV a 1 ++ useV b 1
  | .vor _ _ d a b => useD d 1 false ++ useV a 1 ++ useV b 1
  | .vxor _ _ d a b => useD d 1 false ++ useV a 1 ++ useV b 1
  | .vandn _ _ d a b => useD d 1 false ++ useV a 1 ++ useV b 1
  | .vshl _ _ d a b => useD d 1 false ++ useV a 1 ++ useV b 1
  | .vshr _ _ d a b => useD d 1 false ++ useV a 1 ++ useV b 1
  | .vsra _ _ d a b => useD d 1 false ++ useV a 1 ++ useV b 1
  | .vmin _ _ d a b => useD d 1 false ++ useV a 1 ++ useV b 1
  | .vmax _ _ d a b => useD d 1 false ++ useV a 1 ++ useV b 1
  | .vabs _ _ d a => useD d 1 false ++ useV a 1
  | .vneg _ _ d a => useD d 1 false ++ useV a 1
  | .vcmpEq _ _ _ a b => useV a 1 ++ useV b 1
  | .vcmpNe _ _ _ a b => useV a 1 ++ useV b 1
  | .vcmpLt _ _ _ a b => useV a 1 ++ useV b 1
  | .vcmpLe _ _ _ a b => useV a 1 ++ useV b 1
  | .vsel _ _ d a _ => useD d 1 true ++ useV a 1
  | .vclz _ _ d a => useD d 1 false ++ useV a 1
  | .vpopc _ _ d a => useD d 1 false ++ useV a 1
  | .vdotSat _ _ d a b => useD d 1 true ++ useV a 1 ++ useV b 1
  | .fadd _ _ d a b => useD d 1 false ++ useV a 1 ++ useV b 1
  | .fsub _ _ d a b => useD d 1 false ++ useV a 1 ++ useV b 1
  | .fmul _ _ d a b => useD d 1 false ++ useV a 1 ++ useV b 1
  | .fma _ _ d a b => useD d 1 true ++ useV a 1 ++ useV b 1
  | .fms _ _ d a b => useD d 1 true ++ useV a 1 ++ useV b 1
  | .fnma _ _ d a b => useD d 1 true ++ useV a 1 ++ useV b 1
  | .fmin _ _ d a b => useD d 1 false ++ useV a 1 ++ useV b 1
  | .fmax _ _ d a b => useD d 1 false ++ useV a 1 ++ useV b 1
  | .fabs _ _ d a => useD d 1 false ++ useV a 1
  | .fneg _ _ d a => useD d 1 false ++ useV a 1
  | .fcmpEq _ _ _ a b => useV a 1 ++ useV b 1
  | .fcmpNe _ _ _ a b => useV a 1 ++ useV b 1
  | .fcmpLt _ _ _ a b => useV a 1 ++ useV b 1
  | .fcmpLe _ _ _ a b => useV a 1 ++ useV b 1
  | .fcmpUn _ _ _ a b => useV a 1 ++ useV b 1
  | .frint _ _ d a => useD d 1 false ++ useV a 1
  | .vcvt _ t d a src => useD d 1 false ++ useV a (max 1 (src.width / t.width))
  | .vcvtw _ t d a src => useD d (max 1 (t.width / src.width)) false ++ useV a 1
  | .vpack _ _ d a b => useD d 1 false ++ useV a 1 ++ useV b 1
  | .vqnt _ t d a b => useD d 1 false ++ useV a (32 / t.width) ++ useV b 1
  | .vmov _ _ d a => useD d 1 false ++ useV a 1
  | .vbcast _ _ d a b => useD d 1 false ++ useV a 1 ++ useV b 1
  | .vext _ _ d a b => useD d 1 false ++ useV a 1 ++ useV b 1
  | .vins _ _ d a b => useD d 1 true ++ useV a 1 ++ useV b 1
  | .vperm _ _ d a b => useD d 1 false ++ useV a 1 ++ useV b 1
  | .vzip _ _ d a b => useD d 2 false ++ useV a 1 ++ useV b 1
  | .vunzip _ _ d a b => useD d 2 false ++ useV a 1 ++ useV b 1
  | .vslide _ _ d a b => useD d 1 false ++ useV a 1 ++ useV b 1
  | .vcompr _ _ d a _ => useD d 1 false ++ useV a 1
  | .vexpnd _ _ d a _ => useD d 1 true ++ useV a 1
  | .viota _ _ d _ => useD d 1 false
  | .vrsumInt _ _ d a _ => useD d 1 false ++ useV a 1
  | .vrmaxInt _ _ d a _ => useD d 1 false ++ useV a 1
  | .vrminInt _ _ d a _ => useD d 1 false ++ useV a 1
  | .vargmaxInt _ _ d a _ => useD d 1 false ++ useV a 1
  | .vscanInt _ _ d a _ => useD d 1 false ++ useV a 1
  | .vscanExInt _ _ d a _ => useD d 1 false ++ useV a 1
  | .vcmpxInt _ _ d a _ _ _ => useD d 1 false ++ useV a 1
  | .pset _ _ _ => []
  | .pcnt _ d _ => useD d 1 false
  | .pfirst _ _ _ => []
  | .vrsumFloat _ _ d a _ => useD d 1 false ++ useV a 1
  | .vrmaxFloat _ _ d a _ => useD d 1 false ++ useV a 1
  | .vrminFloat _ _ d a _ => useD d 1 false ++ useV a 1
  | .vargmaxFloat _ _ d a _ => useD d 1 false ++ useV a 1
  | .vscanFloat _ _ d a _ => useD d 1 false ++ useV a 1
  | .vscanExFloat _ _ d a _ => useD d 1 false ++ useV a 1
  | .vcmpxFloat _ _ d a _ _ _ => useD d 1 false ++ useV a 1
  | .exp2 _ _ d a => useD d 1 false ++ useV a 1
  | .log2 _ _ d a => useD d 1 false ++ useV a 1
  | .rcp _ _ d a => useD d 1 false ++ useV a 1
  | .rsqrt _ _ d a => useD d 1 false ++ useV a 1
  | .sqrt _ _ d a => useD d 1 false ++ useV a 1
  | .sin _ _ d a => useD d 1 false ++ useV a 1
  | .cos _ _ d a => useD d 1 false ++ useV a 1
  | .tanh _ _ d a => useD d 1 false ++ useV a 1
  | .erf _ _ d a => useD d 1 false ++ useV a 1
  | .lds _ _ g b _ => useD g 1 false ++ useS b
  | .sts _ g b _ => useV g 1 ++ useS b
  | .ldss _ _ g b _ => useX g 1 ++ useS b
  | .stss _ g b _ => useS g ++ useS b
  | .ldsg _ _ g b i => useD g 1 false ++ useS b ++ useV i 1
  | .stsx _ g b i => useV g 1 ++ useS b ++ useV i 1
  | .spalloc a b => useS a ++ useS b
  | .spfree a => useS a
  | .renew a b => useS a ++ useS b
  | .splife _ d a => useX d 1 ++ useS a
  | .spfill a b => useS a ++ useS b
  | .wld h sw bar x => useSw h sw ++ useBar? bar ++ useS x
  | .mma h sw bar x => useSw h sw ++ useBar? bar ++ useS x
  | .accrd _ d a => useD d 1 false ++ useS a
  | .accst h sw bar x => useSw h sw ++ useBar? bar ++ useS x
  | .accld h sw bar x => useSw h sw ++ useBar? bar ++ useS x
  | .accclr a => useS a
  | .mgrp a => useS a
  | .mwait d a => useX d 1 ++ useS a
  | .ld _ _ g b _ => useX g 1 ++ useS b
  | .ldAcq _ _ g b _ => useX g 1 ++ useS b
  | .st _ g b _ => useS g ++ useS b
  | .stRel _ g b _ => useS g ++ useS b
  | .vld _ _ g b _ => useD g 1 false ++ useS b
  | .vldAcq _ _ g b _ => useD g 1 false ++ useS b
  | .vst _ g b _ => useV g 1 ++ useS b
  | .vstRel _ g b _ => useV g 1 ++ useS b
  | .vldg _ _ g b i => useD g 1 false ++ useS b ++ useV i 1
  | .vstx _ g b i => useV g 1 ++ useS b ++ useV i 1
  | .ldf _ g b => useX g 1 ++ useS b
  | .ldfAcq _ g b _ => useX g 1 ++ useS b
  | .stf g b => useS g ++ useS b
  | .stfRel g b _ => useS g ++ useS b
  | .pref _ b _ => useS b
  | .fenceAcq _ => []
  | .fenceRel _ => []
  | .fenceAr _ => []
  | .fencex _ _ _ => []
  | .cas _ _ g b _ _ => useX g 2 ++ useS b
  | .atomAdd _ _ g b _ _ => useX g 1 ++ useS b
  | .atomAnd _ _ g b _ _ => useX g 1 ++ useS b
  | .atomOr _ _ g b _ _ => useX g 1 ++ useS b
  | .atomXor _ _ g b _ _ => useX g 1 ++ useS b
  | .atomMin _ _ g b _ _ => useX g 1 ++ useS b
  | .atomMax _ _ g b _ _ => useX g 1 ++ useS b
  | .atomMinu _ _ g b _ _ => useX g 1 ++ useS b
  | .atomMaxu _ _ g b _ _ => useX g 1 ++ useS b
  | .atomSwap _ _ g b _ _ => useX g 1 ++ useS b
  | .copyOut h sw bar _ x => useSw h sw ++ useBar bar ++ useX x 2
  | .copyIn h sw bar _ x => useSw h sw ++ useBar bar ++ useX x 2
  | .copym h sw bar _ x => useSw h sw ++ useBar bar ++ useX x 4
  | .copys h sw bar x => useSw h sw ++ useBar bar ++ useX x 2
  | .copyx h sw bar x => useSw h sw ++ useBar bar ++ useX x 2
  | .gath h sw bar _ x => useSw h sw ++ useBar bar ++ useX x 3
  | .redcAdd h sw bar x => useSw h sw ++ useBar bar ++ useX x 2
  | .redcMax h sw bar x => useSw h sw ++ useBar bar ++ useX x 2
  | .redcMin h sw bar x => useSw h sw ++ useBar bar ++ useX x 2
  | .cpqSummary _ d => useX d 1
  | .cpqEntry _ d a => useX d 1 ++ useS a
  | .cpcan a b => useS a ++ useS b
  | .spawn bar x => useBar? bar ++ useS x
  | .pipw _ src => usePipeSrc src
  | .pipr _ dst _ => usePipeDst dst
  | .pipq _ d _ => useX d 1
  | .binit bar x => useBar bar ++ useS x
  | .barv bar => useBar bar
  | .barvExp bar x => useBar bar ++ useS x
  | .bexp bar x => useBar bar ++ useS x
  | .bwait bar x => useBar bar ++ useX x 1
  | .btry _ bar x => useBar bar ++ useX x 1
  | .ckpt => []
  | .stepend => []
  | .nop => []
  | .eret => []
  | .iflush => []
  | .yield => []
  | .statfl => []
  | .resultLanding _ => []
  | .variableResultLanding _ _ => []
  | .commitBufferDrain _ => []
  | .writeAcknowledge _ _ => []
  | .wrfailReport _ _ _ => []
  | .stepRetire _ => []
  | .syscallEntry _ => []
  | .eretReturn _ => []
  | .sleepWake _ => []
  | .asyncTrapDelivery _ => []
  | .preemption _ => []
  | .trapHandlerAbandon _ => []
  | .stepDispatch _ => []
  | .proofingAreaBuild _ _ _ => []
  | .proofingLoafRenew _ _ => []
  | .stepKill _ _ => []
  | .contextDestroy _ => []
  | .walkerGenerate _ => []
  | .completionWordWrite _ => []
  | .notifyWrite _ _ _ => []
  | .packetProcess _ _ => []
  | .packetAdmit _ _ => []
  | .markerComplete _ _ => []
  | .fabricMessageReceive _ _ => []
  | .fabricAcknowledge _ _ => []
  | .replayResend _ => []
  | .forwardingEntryExpire _ _ => []
  | .ldfRequestResolve _ _ => []
  | .cacheSectorFill _ _ => []
  | .tlbMissWalk _ _ => []
  | .atsTranslationCompletion _ _ _ _ _ _ => []
  | .hostAtsInvalidate _ _ _ => []
  | .xltInvalidateRange _ _ _ => []
  | .xltInvalidateContext _ _ => []
  | .xltReloadDescriptor _ _ => []
  | .xltCmdReservedKind _ => []
  | .xltCmdComplete _ => []
  | .copyStart _ => []
  | .copyElementTransfer _ _ => []
  | .copyComplete _ _ => []
  | .matrixCmdStart _ => []
  | .matrixCmdComplete _ => []
  | .accrdBusyLand _ => []
  | .statDrain _ => []
  | .linkReductionUpdate _ _ => []
  | .barrierUpdateApply _ _ _ _ => []
  | .loafExpire _ _ => []
  | .bankGuardGrant _ => []
  | .logicalCoreAbsent _ _ => []
  | .mergeOnResume _ _ _ => []
  | .contextSuspend _ => []
  | .contextFreezeReflection _ => []
  | .contextResume _ => []
  | .migrationRequest _ _ _ => []
  | .rotation _ => []
  | .budgetIntervalBoundary _ _ => []
  | .boostLeaseExpire _ => []
  | .sensorSample _ _ _ => []
  | .clusterGate _ => []
  | .vitLoad _ => []
  | .islMatrixWrite _ => []
  | .govLimitWrite _ => []
  | .fabBackoffWrite _ => []
  | .bridgeTrainGo _ => []
  | .mailboxRequestPost _ _ => []
  | .mailboxReplyConsume _ _ => []
  | .attestationReport _ _ => []
  | .deviceRegisterWrite _ _ _ => []
  | .bridgeMarginReport _ => []
  | .bridgeRetrainDone => []
  | .flitRetry _ _ => []
  | .patrolScrub _ => []
  | .coolantControlUpdate _ _ => []
  | .coolingFault _ _ => []
  | .mgmtSmbusWrite _ => []
  | .gracefulPowerDown => []
  | .bringUp _ _ => []
  | .hostWrite _ _ => []
  | .hostRead _ _ => []
  | .hostAtomicop _ _ _ => []
  | .fgbLoad _ _ _ _ => []
  | .contextCreate _ _ => []
  | .priPageResponse _ => []
  | .graphInstanceUnload _ _ => []
  | .pairQuarantineClear _ => []

end Sys2Proof.Machine
end

