-- ==== Sys2Proof/Machine/Issue.lean ====
section
/-! DEFINITION. A bundle before it issues: its slots, the rules it can break, what freezes it, and the delivery of an
asynchronous trap to a core that waits (03 R58 to R60, R66, R73, R76; 04 R101, R103, R106; 05 R116; 07 R162; 08 R171,
R173, R184; 11 R255, R263; 14 R334). -/

namespace Sys2Proof.Machine

/-- A slot of a bundle (03 R58, R59): its position, the ordinal of its unit, its word, and whether it is squashed. -/
structure Slot where
  pos : Nat
  unit : Nat
  word : Nat
  squash : Bool
  deriving DecidableEq, Repr

/-- The class of a slot word (03 R62). -/
def classOf (w : Nat) : Nat := bits w 30 29

/-- The slots that a class allows (01 R15). -/
def classLimit (k : Nat) : Nat :=
  match k with
  | 0 => 2 | 1 => 3 | 2 => 1 | _ => 2

/-- The slots of the bundle at hand from its words. -/
def Core.slots (c : Core) (ws : List Nat) : List Slot :=
  (List.range ws.length).map fun i =>
    let w := ws.getD i 0
    (Slot.mk i ((ws.take i).filter fun v => classOf v == classOf w).length w (c.squashed i))

/-- The instruction of a slot, if it decodes. -/
def Slot.instr (x : Slot) : Option Instr :=
  match decodeSlot (BitVec.ofNat 32 x.word) with
  | .ok i => some i
  | .error _ => none

/-- SYS, ERET and FREEZE (07 R162). -/
def isLevelChange (w : Nat) : Bool :=
  match sOp w with
  | some op => op == 0x54 || op == 0x55 || op == 0x57
  | none => false

/-- YIELD (14 R334). -/
def isYield (w : Nat) : Bool := sOp w == some 0x68

/-- CKPT. -/
def isCkpt (w : Nat) : Bool := sOp w == some 0x3F

/-- STEPEND. -/
def isStepend (w : Nat) : Bool := sOp w == some 0x41

/-- The privileged opcodes ERET, FREEZE and PAIRSET (03 R76). -/
def isPrivileged (w : Nat) : Bool :=
  match sOp w with
  | some op => op == 0x55 || op == 0x57 || op == 0x58
  | none => false

/-- Whether the shape register of a slot belongs to another M-unit (03 R66). -/
def wrongShape (x : Slot) : Bool :=
  match x.instr with
  | some (.wld h _ _ _) | some (.mma h _ _ _) | some (.accst h _ _ _) | some (.accld h _ _ _)
  | some (.copyOut h _ _ _ _) | some (.copyIn h _ _ _ _) | some (.gath h _ _ _ _) | some (.copym h _ _ _ _)
  | some (.copys h _ _ _) | some (.copyx h _ _ _) | some (.redcAdd h _ _ _) | some (.redcMax h _ _ _)
  | some (.redcMin h _ _ _) => h.val / 4 != x.unit
  | _ => false

/-- The registers that a slot that issues uses. -/
def Slot.uses (x : Slot) : List Use :=
  if x.squash then [] else
    match x.instr with
    | some i => usesOf i
    | none => []

/-- The main-file registers that slots read, each once (05 R116). -/
def mainReads (xs : List Slot) : List Nat :=
  ((xs.flatMap Slot.uses).filterMap fun u =>
    match u with
    | .v (.v i) true => some i.val
    | _ => none).dedup

/-- The positions at which a test holds. -/
def positions (xs : List Slot) (f : Slot → Bool) : List Nat := (xs.filter f).map (·.pos)

/-- Whether the modulo sequencer runs the bundle at hand (04 R106). -/
def Core.inModulo (c : Core) : Bool :=
  c.arch.modq.active && decide (c.arch.modq.start ≤ c.pc) && decide (c.pc ≤ c.arch.modq.stop)

/-- Whether the bundle at hand stands at the end of the top loop (04 R103). -/
def Core.atLoopEnd (c : Core) : Bool :=
  match c.arch.loops.getLast? with
  | some t => t.stop == c.pc
  | none => false

/-- Whether the bundle at hand stands at the end of some loop of the stack (04 R103). -/
def Core.atAnyEnd (c : Core) : Bool := c.arch.loops.any fun t => t.stop == c.pc

/-- The slots that break a rule of bundles, with the code each raises: a position may stand more than once. -/
def Core.faults (c : Core) (ws : List Nat) (xs : List Slot) : List (Nat × Nat) :=
  let ill := fun (l : List Nat) => l.map fun p => (p, tILLEGAL)
  let taken := match c.delay with
    | .after (some _) => true
    | _ => false
  let delay := c.delay != .none
  ill (if ws.length = 8 ∧ ws.getD 7 0 < 2 ^ 31 then [7] else []) ++
    ill (positions xs fun x => decide (classLimit (classOf x.word) ≤ x.unit)) ++
    ill (positions xs fun x => x.instr.isNone) ++
    ill ((positions xs fun x => isSeqControl x.word).drop 1) ++
    ill (if delay then positions xs fun x => isSeqControl x.word || isLevelChange x.word || isYield x.word else []) ++
    ill ((positions xs fun x => isLevelChange x.word).drop 1) ++
    ill (if ws.any fun w => isCkpt w || isStepend w || sOp w == some 0x54 || sOp w == some 0x57 then
      positions xs fun x => isYield x.word else []) ++
    ill (if c.inModulo then positions xs fun x => isLevelChange x.word || isYield x.word else []) ++
    ill (if taken && c.atAnyEnd then [0] else []) ++
    ill (if c.atLoopEnd then (positions xs fun x => isLoopEndBarred x.word).take 1 else []) ++
    ill (positions xs wrongShape) ++
    ill (positions xs fun x => decide (8 < (mainReads (xs.take (x.pos + 1))).length)) ++
    (if c.level = .u then (positions xs fun x => isPrivileged x.word && !x.squash).map fun p => (p, tPRIV) else [])

/-- The fault of a bundle that breaks rules (03 R60): at the lowest position, ILLEGAL before PRIV. -/
def Core.fault (c : Core) (ws : List Nat) (xs : List Slot) : Option (Nat × Nat) :=
  (sortBy (fun (f : Nat × Nat) => f.1 * 256 + f.2) (c.faults ws xs)).head?

/-- Whether the bundle takes a checkpoint before its slots issue (08 R170): CKPT, STEPEND, FREEZE, YIELD, an automatic
one. -/
def Core.startsCkpt (c : Core) (ws : List Nat) : Bool :=
  c.autoCkpt || ws.any fun w => isCkpt w || isStepend w || isYield w || sOp w == some 0x57

/-- Whether the bundle is a checkpoint bundle (08 R170, R171). -/
def Core.isCkptBundle (c : Core) (ws : List Nat) : Bool :=
  c.startsCkpt ws || ws.any isLevelChange

/-- Whether an asynchronous trap is delivered at the bundle (08 R184; 14 R334). -/
def Core.deliversAt (c : Core) (ws : List Nat) : Bool :=
  c.level = .u && (c.autoCkpt || ws.any fun w => isCkpt w || isStepend w || isYield w)

/-- The segment limit (08 R171, R183). -/
def Core.segLimit (c : Core) : Nat := if c.level = .u then c.arch.ckptmax else 4096

/-! ## Freezes (03 R73; 08 R173; 11 R255, R263; 12 R285) -/

/-- Whether a pending result names a register. -/
def PDst.matches (d : PDst) (u : Use) : Bool :=
  match d, u with
  | .x i, .x j => i == j
  | .v a, .v b _ => a == b
  | .sd i, .sd j => i == j
  | _, _ => false

/-- Global loads, LDF, PREF and ordered accesses, which wait for an acquire (11 R255, R263). -/
def waitsForAcquire (i : Instr) : Bool :=
  match i with
  | .ld _ _ _ _ _ | .ldAcq _ _ _ _ _ | .vld _ _ _ _ _ | .vldAcq _ _ _ _ _ | .vldg _ _ _ _ _ | .ldf _ _ _ | .ldfAcq _ _ _ _
  | .pref _ _ _ | .shcpMem _ _ | .stRel _ _ _ _ | .vstRel _ _ _ _ | .stfRel _ _ _ => true
  | .cas _ _ _ _ o _ | .atomAdd _ _ _ _ o _ | .atomAnd _ _ _ _ o _ | .atomOr _ _ _ _ o _ | .atomXor _ _ _ _ o _
  | .atomMin _ _ _ _ o _ | .atomMax _ _ _ _ o _ | .atomMinu _ _ _ _ o _ | .atomMaxu _ _ _ _ o _ | .atomSwap _ _ _ _ o _ =>
    o != .plain
  | _ => false

/-- Accesses of the core path that are read where their bundle issues: they come after an acquire too (12 R273). -/
def readsAtIssue (i : Instr) : Bool :=
  match i with
  | .lds _ _ _ _ _ | .ldss _ _ _ _ _ | .ldsg _ _ _ _ _ | .btry _ _ _ => true
  | _ => false

/-- Whether the accesses that read where their bundle issues wait for a pending result (12 R273; log 101): an ordered load.
A wait on a barrier holds no LDS that issues before it lands (12 R279; 20 R430; 22 R441), nor does a load before an
acquiring fence: a bundle without the accesses that R263 names issues without waiting. -/
def Pend.holdsReads (q : Pend) : Bool :=
  match q.wait with
  | .load _ _ _ acq _ | .future _ _ acq _ _ _ | .futureFwd _ acq => acq.isSome
  | _ => false

/-- Acquiring fences at IMAGE scope. -/
def isImageFence (i : Instr) : Bool :=
  match i with
  | .fenceAcq .image | .fenceAr .image => true
  | _ => false

/-- Whether a test holds of the instruction of a slot that issues. -/
def Slot.is (x : Slot) (f : Instr → Bool) : Bool := !x.squash && (x.instr.map f).getD false

/-- Whether the bundle waits for a pending result: it uses its register, it holds an access that comes after it, or it is a
checkpoint bundle. -/
def Core.frozenOn (c : Core) (ws : List Nat) (xs : List Slot) (q : Pend) : Bool :=
  (xs.any fun x => x.uses.any q.dst.matches) || (q.block && xs.any fun x => x.is waitsForAcquire) ||
    (q.holdsReads && xs.any fun x => x.is readsAtIssue) || (c.startsCkpt ws && q.dst ≠ .none)

/-- Whether the bundle freezes on a result of variable latency. -/
def State.freezes (s : State) (ws : List Nat) (xs : List Slot) : Bool :=
  s.core.pend.any (s.core.frozenOn ws xs) ||
    (!(s.acquireReady s.core (some .image)) && xs.any fun x => x.is isImageFence)

/-- The space that withheld and draining entries take (08 R173). -/
def Core.occupied (c : Core) : Nat :=
  c.cbuf.length + (c.drain.filter fun e => match e.kind with
    | .covered _ => false
    | _ => true).length

/-- Whether a full command buffer holds the drain (13 R289). -/
def Core.copyHeld (c : Core) : Bool :=
  match c.drain with
  | e :: _ => (match e.kind with
    | .copy _ => c.freePos.isNone
    | _ => false)
  | [] => false

/-- Whether an instruction is withheld as an entry of the commit buffer (08 R172, R173). -/
def makesEntry (i : Instr) : Bool :=
  match i with
  | .st _ _ _ _ | .stRel _ _ _ _ | .vst _ _ _ _ | .vstRel _ _ _ _ | .vstx _ _ _ _ | .stf _ _ | .stfRel _ _ _ | .sts _ _ _ _
  | .stss _ _ _ _ | .stsx _ _ _ _ => true
  | .spalloc _ _ | .spfree _ | .renew _ _ | .spfill _ _ => true
  | .wld _ _ _ _ | .mma _ _ _ _ | .accst _ _ _ _ | .accld _ _ _ _ | .accclr _ | .mgrp _ => true
  | .fenceRel _ | .fenceAr _ | .fencex _ _ _ => true
  | .cas _ _ _ _ _ _ | .atomAdd _ _ _ _ _ _ | .atomAnd _ _ _ _ _ _ | .atomOr _ _ _ _ _ _ | .atomXor _ _ _ _ _ _
  | .atomMin _ _ _ _ _ _ | .atomMax _ _ _ _ _ _ | .atomMinu _ _ _ _ _ _ | .atomMaxu _ _ _ _ _ _
  | .atomSwap _ _ _ _ _ _ => true
  | .copyOut _ _ _ _ _ | .copyIn _ _ _ _ _ | .copym _ _ _ _ _ | .copys _ _ _ _ | .copyx _ _ _ _ | .gath _ _ _ _ _
  | .redcAdd _ _ _ _ | .redcMax _ _ _ _ | .redcMin _ _ _ _ | .cpcan _ _ | .spawn _ _ => true
  | .pipw _ _ | .binit _ _ | .barv _ | .barvExp _ _ | .bexp _ _ | .statfl | .pairset _ _ _ => true
  | .csrw _ c | .csrs _ c | .csrc _ c => csrClass c.toNat == .c
  | _ => false

/-- Whether a bundle finds no place for its entries because of earlier segments' that a full command buffer holds (08 R173;
13 R289). -/
def Core.frozenByCopies (c : Core) (xs : List Slot) : Bool :=
  let n := (xs.filter fun x => x.is makesEntry).length
  c.copyHeld && decide (0 < n) && decide (c.cbuf.length + n ≤ bufferSize) && decide (bufferSize < c.occupied + n)

/-- Whether the kernel on the core waits in a way that lets an asynchronous trap in at once (08 R184; 13 R289): asleep,
frozen on a result of variable latency, or for want of places behind a full command buffer. -/
def State.waits (s : State) : Bool × State :=
  let c := s.core
  match c.phase with
  | .run =>
    if (c.sleep.map fun t => decide (s.tick < t.1)).getD false then (true, s)
    else
      match bundleAt s c.pc.toNat with
      | (.error _, s) => (false, s)
      | (.ok ws, s) =>
        let s := s.upd Core.landDue
        let xs := s.core.slots ws
        ((s.core.fault ws xs).isNone && (s.freezes ws xs || s.core.frozenByCopies xs), s)
  | .stepEnd | .sys _ _ _ => (c.anyPending, s)
  | _ => (false, s)

/-- Delivers a record at once (08 R184): rollback, and back to the checkpoint. -/
def State.deliverNow (s : State) (r : Nat) : State :=
  let pc := s.core.pc
  let s := s.rollbackCore
  s.enterTrap (causeWord true (s.pnat (r + 1) 1) 0 (s.pnat r 1)) pc (BitVec.ofNat 64 r) s.core.ckAddr

/-- ASYNC_TRAP_DELIVERY (08 R184): the oldest record, to the kernel on core c if it waits. -/
def execAsyncTrapDelivery (c : Nat) (s : State) : Res :=
  let s := s.switch c
  .next (match s.pendingRec with
    | none => s
    | some r => let w := s.waits; if w.1 then w.2.deliverNow r else s)

end Sys2Proof.Machine
end

