-- ==== Sys2Proof/Machine/VectorFloat.lean ====
section
/-! DEFINITION. Vector float instructions, conversions and the F-unit (05 R124 to R128, R136, R137). -/

namespace Sys2Proof.Machine

/-- A float operation of two sources (R124): one rounding, the union of the elements' flags, 4 beats. -/
def fltOp (f : Fmt → FCtl → Nat → Nat → Nat × Flags) (n : Bool) (t : FTy) (d : VDst) (a b : VSrc) (s : State) : Res :=
  let w := t.width
  let r := List.zipWith (f t.fmt s.fctl) (elems w (s.core.vx a)) (elems w (s.core.vx b))
  s.whenOk t.arith (s.retV 4 n [(d, ofElems w (valuesOf r))] (unionFlags r))

/-- A float operation of one source. -/
def fltOp1 (f : Fmt → FCtl → Nat → Nat × Flags) (n : Bool) (t : FTy) (d : VDst) (a : VSrc) (s : State) : Res :=
  let w := t.width
  let r := (elems w (s.core.vx a)).map (f t.fmt s.fctl)
  s.whenOk t.arith (s.retV 4 n [(d, ofElems w (valuesOf r))] (unionFlags r))

/-- ±(a × b) ± the old destination with one rounding (R124, R125). -/
def fmaOp (negP negD : Bool) (n : Bool) (t : FTy) (d : VDst) (a b : VSrc) (s : State) : Res :=
  let w := t.width
  let r := List.zipWith (fun (x : Nat × Nat) z => t.fmt.fmaF s.fctl negP negD x.1 x.2 z)
    (List.zip (elems w (s.core.vx a)) (elems w (s.core.vx b))) (elems w (s.core.vd d))
  s.whenOk t.arith (s.retV 4 n [(d, ofElems w (valuesOf r))] (unionFlags r))

/-- A float compare into a predicate (R125). -/
def fltCmp (cc : FCC) (n : Bool) (t : FTy) (d : PReg) (a b : VSrc) (s : State) : Res :=
  let w := t.width
  let r := List.zipWith (t.fmt.cmpF s.fctl cc) (elems w (s.core.vx a)) (elems w (s.core.vx b))
  .next (s.retVP 4 n d (ofPbits (r.map (·.1))) (unionCmp r))

/-- A special function on every element (R136): 12 beats, B5; before the fourth beat after the last F slot, ILLEGAL
(R137). -/
def fUnit (f : SFun) (n : Bool) (t : FTy) (d : VDst) (a : VSrc) (s : State) : Res :=
  let w := t.width
  let r := (elems w (s.core.vx a)).map (f.eval t.fmt s.fctl.ftz)
  s.whenOk (t.special && decide (3 ≤ s.core.fspace))
    ((s.upd fun c => { c with fspace := 0 }).retF 12 n d (ofElems w (valuesOf r)) (unionFlags r))

/-- FADD (R124, R125). -/
def execFadd (n : Bool) (t : FTy) (d : VDst) (a b : VSrc) (s : State) : Res := fltOp (Fmt.addF) n t d a b s

/-- FSUB (R124, R125). -/
def execFsub (n : Bool) (t : FTy) (d : VDst) (a b : VSrc) (s : State) : Res := fltOp (Fmt.subF) n t d a b s

/-- FMUL (R124, R125). -/
def execFmul (n : Bool) (t : FTy) (d : VDst) (a b : VSrc) (s : State) : Res := fltOp (Fmt.mulF) n t d a b s

/-- FMIN (R124, R125). -/
def execFmin (n : Bool) (t : FTy) (d : VDst) (a b : VSrc) (s : State) : Res := fltOp (fun f c => f.minmaxF c false) n t d a b s

/-- FMAX (R124, R125). -/
def execFmax (n : Bool) (t : FTy) (d : VDst) (a b : VSrc) (s : State) : Res := fltOp (fun f c => f.minmaxF c true) n t d a b s

/-- FMA (R124, R125): a × b plus the old destination. -/
def execFma (n : Bool) (t : FTy) (d : VDst) (a b : VSrc) (s : State) : Res := fmaOp false false n t d a b s

/-- FMS (R124, R125): a × b minus the old destination. -/
def execFms (n : Bool) (t : FTy) (d : VDst) (a b : VSrc) (s : State) : Res := fmaOp false true n t d a b s

/-- FNMA (R124, R125): the old destination minus a × b. -/
def execFnma (n : Bool) (t : FTy) (d : VDst) (a b : VSrc) (s : State) : Res := fmaOp true false n t d a b s

/-- FABS (R124, R125). -/
def execFabs (n : Bool) (t : FTy) (d : VDst) (a : VSrc) (s : State) : Res := fltOp1 (fun f c => f.signF c false) n t d a s

/-- FNEG (R124, R125). -/
def execFneg (n : Bool) (t : FTy) (d : VDst) (a : VSrc) (s : State) : Res := fltOp1 (fun f c => f.signF c true) n t d a s

/-- FRINT (R124, R125). -/
def execFrint (n : Bool) (t : FTy) (d : VDst) (a : VSrc) (s : State) : Res := fltOp1 (Fmt.rintF) n t d a s

/-- FCMP_EQ (R125). -/
def execFcmpEq (n : Bool) (t : FTy) (d : PReg) (a b : VSrc) (s : State) : Res := fltCmp .eq n t d a b s

/-- FCMP_NE (R125). -/
def execFcmpNe (n : Bool) (t : FTy) (d : PReg) (a b : VSrc) (s : State) : Res := fltCmp .ne n t d a b s

/-- FCMP_LT (R125). -/
def execFcmpLt (n : Bool) (t : FTy) (d : PReg) (a b : VSrc) (s : State) : Res := fltCmp .lt n t d a b s

/-- FCMP_LE (R125). -/
def execFcmpLe (n : Bool) (t : FTy) (d : PReg) (a b : VSrc) (s : State) : Res := fltCmp .le n t d a b s

/-- FCMP_UN (R125). -/
def execFcmpUn (n : Bool) (t : FTy) (d : PReg) (a b : VSrc) (s : State) : Res := fltCmp .un n t d a b s

/-- VCVT (R126): a group of k registers into one register. -/
def execVcvt (n : Bool) (t : ElTy) (d : VDst) (a : VSrc) (src : ElTy) (s : State) : Res :=
  let k := src.width / t.width
  let r := (s.core.groupElems a k src.width (4096 / t.width)).map (cvt src t s.fctl)
  s.whenOk (vcvtOk t src a) (s.retV 3 n [(d, ofElems t.width (valuesOf r))] (unionFlags r))

/-- VCVTW (R126): one register into a group of k registers. -/
def execVcvtw (n : Bool) (t : ElTy) (d : VDst) (a : VSrc) (src : ElTy) (s : State) : Res :=
  let k := t.width / src.width
  let r := (elems src.width (s.core.vx a)).map (cvt src t s.fctl)
  s.whenOk (vcvtwOk t src d) (s.retV 3 n (groupOf d k t.width (valuesOf r)) (unionFlags r))

/-- VPACK (R127): signed elements of twice the width, saturated. -/
def execVpack (n : Bool) (t : ITy) (d : VDst) (a b : VSrc) (s : State) : Res :=
  let w := t.width
  let x := fun (v : VSrc) => (elems (2 * w) (s.core.vx v)).map fun e => lowBits w (t.sat (sval e (2 * w)))
  s.whenOk (decide (w ≠ 32)) (s.retV 3 n [(d, ofElems w (x a ++ x b))] 0)

/-- VQNT (R128): scale in lane 0 of b, zero point in bits 63:32. -/
def execVqnt (n : Bool) (t : ITy) (d : VDst) (a b : VSrc) (s : State) : Res :=
  let k := 32 / t.width
  let y := (s.core.vx b).toNat
  let r := (s.core.groupElems a k 32 (4096 / t.width)).map fun x =>
    quantF t s.fctl x (y % 2 ^ 32) (sval (y / 2 ^ 32) 32)
  s.whenOk (a.group k) (s.retV 3 n [(d, ofElems t.width (valuesOf r))] (unionFlags r))

/-- EXP2 (R136, 02 R55). -/
def execExp2 (n : Bool) (t : FTy) (d : VDst) (a : VSrc) (s : State) : Res := fUnit .exp2 n t d a s

/-- LOG2 (R136, 02 R55). -/
def execLog2 (n : Bool) (t : FTy) (d : VDst) (a : VSrc) (s : State) : Res := fUnit .log2 n t d a s

/-- RCP (R136, 02 R55). -/
def execRcp (n : Bool) (t : FTy) (d : VDst) (a : VSrc) (s : State) : Res := fUnit .rcp n t d a s

/-- RSQRT (R136, 02 R55). -/
def execRsqrt (n : Bool) (t : FTy) (d : VDst) (a : VSrc) (s : State) : Res := fUnit .rsqrt n t d a s

/-- SQRT (R136, 02 R55). -/
def execSqrt (n : Bool) (t : FTy) (d : VDst) (a : VSrc) (s : State) : Res := fUnit .sqrt n t d a s

/-- SIN (R136, 02 R55). -/
def execSin (n : Bool) (t : FTy) (d : VDst) (a : VSrc) (s : State) : Res := fUnit .sin n t d a s

/-- COS (R136, 02 R55). -/
def execCos (n : Bool) (t : FTy) (d : VDst) (a : VSrc) (s : State) : Res := fUnit .cos n t d a s

/-- TANH (R136, 02 R55). -/
def execTanh (n : Bool) (t : FTy) (d : VDst) (a : VSrc) (s : State) : Res := fUnit .tanh n t d a s

/-- ERF (R136, 02 R55). -/
def execErf (n : Bool) (t : FTy) (d : VDst) (a : VSrc) (s : State) : Res := fUnit .erf n t d a s

end Sys2Proof.Machine
end

