-- ==== Sys2Proof/Machine/VectorInt.lean ====
section
/-! DEFINITION. Vector integer instructions (05 R121 to R123): element by element, no flags, 2 beats. -/

namespace Sys2Proof.Machine

/-- An integer operation of two sources on exact values (R121). -/
def intOp (f : Int → Int → Int) (n : Bool) (t : ITy) (d : VDst) (a b : VSrc) (s : State) : State :=
  s.retV 2 n [(d, ofInts t.width (List.zipWith f (s.core.ivals t a) (s.core.ivals t b)))] 0

/-- An operation of two sources on element bits (R121). -/
def bitOp (f : Nat → Nat → Nat) (n : Bool) (t : ITy) (d : VDst) (a b : VSrc) (s : State) : State :=
  s.retV 2 n [(d, ofElems t.width (List.zipWith f (elems t.width (s.core.vx a)) (elems t.width (s.core.vx b))))] 0

/-- An operation of one source on element bits (R121). -/
def bitOp1 (f : Nat → Nat) (n : Bool) (t : ITy) (d : VDst) (a : VSrc) (s : State) : State :=
  s.retV 2 n [(d, ofElems t.width ((elems t.width (s.core.vx a)).map f))] 0

/-- An integer compare into a predicate (R121, R119). -/
def intCmp (f : Int → Int → Bool) (n : Bool) (t : ITy) (d : PReg) (a b : VSrc) (s : State) : State :=
  s.retVP 2 n d (ofPbits (List.zipWith f (s.core.ivals t a) (s.core.ivals t b))) 0

/-- The totals of the 32-bit lanes of VDOT (R122, 02 R54). -/
def dotTotals (c : Core) (t : ITy) (d : VDst) (a b : VSrc) : List Int :=
  List.zipWith (· + ·) ((elems 32 (c.vd d)).map fun x => sval x 32)
    (chunkSums (32 / t.width) 128 (List.zipWith (· * ·) (c.ivals t a) (c.ivals t b)))

/-- VADD (R121). -/
def execVadd (n : Bool) (t : ITy) (d : VDst) (a b : VSrc) (s : State) : Res :=
  .next (intOp (fun x y => x + y) n t d a b s)

/-- VSUB (R121). -/
def execVsub (n : Bool) (t : ITy) (d : VDst) (a b : VSrc) (s : State) : Res :=
  .next (intOp (fun x y => x - y) n t d a b s)

/-- VADDS (R121). -/
def execVadds (n : Bool) (t : ITy) (d : VDst) (a b : VSrc) (s : State) : Res :=
  .next (intOp (fun x y => t.sat (x + y)) n t d a b s)

/-- VSUBS (R121). -/
def execVsubs (n : Bool) (t : ITy) (d : VDst) (a b : VSrc) (s : State) : Res :=
  .next (intOp (fun x y => t.sat (x - y)) n t d a b s)

/-- VMUL (R121). -/
def execVmul (n : Bool) (t : ITy) (d : VDst) (a b : VSrc) (s : State) : Res :=
  .next (intOp (fun x y => x * y) n t d a b s)

/-- VMULH (R121). -/
def execVmulh (n : Bool) (t : ITy) (d : VDst) (a b : VSrc) (s : State) : Res :=
  .next (intOp (fun x y => x * y / 2 ^ t.width) n t d a b s)

/-- VMIN (R121). -/
def execVmin (n : Bool) (t : ITy) (d : VDst) (a b : VSrc) (s : State) : Res :=
  .next (intOp (fun x y => Min.min x y) n t d a b s)

/-- VMAX (R121). -/
def execVmax (n : Bool) (t : ITy) (d : VDst) (a b : VSrc) (s : State) : Res :=
  .next (intOp (fun x y => Max.max x y) n t d a b s)

/-- VAND (R121). -/
def execVand (n : Bool) (t : ITy) (d : VDst) (a b : VSrc) (s : State) : Res :=
  .next (bitOp (fun x y => x &&& y) n t d a b s)

/-- VOR (R121). -/
def execVor (n : Bool) (t : ITy) (d : VDst) (a b : VSrc) (s : State) : Res :=
  .next (bitOp (fun x y => x ||| y) n t d a b s)

/-- VXOR (R121). -/
def execVxor (n : Bool) (t : ITy) (d : VDst) (a b : VSrc) (s : State) : Res :=
  .next (bitOp (fun x y => x ^^^ y) n t d a b s)

/-- VANDN (R121). -/
def execVandn (n : Bool) (t : ITy) (d : VDst) (a b : VSrc) (s : State) : Res :=
  .next (bitOp (fun x y => x &&& (2 ^ t.width - 1 - y)) n t d a b s)

/-- VSHL (R121). -/
def execVshl (n : Bool) (t : ITy) (d : VDst) (a b : VSrc) (s : State) : Res :=
  .next (bitOp (fun x y => x * 2 ^ (y % t.width)) n t d a b s)

/-- VSHR (R121). -/
def execVshr (n : Bool) (t : ITy) (d : VDst) (a b : VSrc) (s : State) : Res :=
  .next (bitOp (fun x y => x / 2 ^ (y % t.width)) n t d a b s)

/-- VSRA (R121). -/
def execVsra (n : Bool) (t : ITy) (d : VDst) (a b : VSrc) (s : State) : Res :=
  .next (bitOp (fun x y => lowBits t.width (sval x t.width / 2 ^ (y % t.width))) n t d a b s)

/-- VABS (R121). -/
def execVabs (n : Bool) (t : ITy) (d : VDst) (a : VSrc) (s : State) : Res :=
  .next (bitOp1 (fun x => lowBits t.width |t.val x|) n t d a s)

/-- VNEG (R121). -/
def execVneg (n : Bool) (t : ITy) (d : VDst) (a : VSrc) (s : State) : Res :=
  .next (bitOp1 (fun x => lowBits t.width (-(t.val x))) n t d a s)

/-- VCLZ (R121). -/
def execVclz (n : Bool) (t : ITy) (d : VDst) (a : VSrc) (s : State) : Res :=
  .next (bitOp1 (leadingZeros t.width) n t d a s)

/-- VPOPC (R121). -/
def execVpopc (n : Bool) (t : ITy) (d : VDst) (a : VSrc) (s : State) : Res :=
  .next (bitOp1 (onesOf t.width) n t d a s)

/-- VCMP_EQ (R121). -/
def execVcmpEq (n : Bool) (t : ITy) (d : PReg) (a b : VSrc) (s : State) : Res :=
  .next (intCmp (fun x y => x == y) n t d a b s)

/-- VCMP_NE (R121). -/
def execVcmpNe (n : Bool) (t : ITy) (d : PReg) (a b : VSrc) (s : State) : Res :=
  .next (intCmp (fun x y => x != y) n t d a b s)

/-- VCMP_LT (R121). -/
def execVcmpLt (n : Bool) (t : ITy) (d : PReg) (a b : VSrc) (s : State) : Res :=
  .next (intCmp (fun x y => decide (x < y)) n t d a b s)

/-- VCMP_LE (R121). -/
def execVcmpLe (n : Bool) (t : ITy) (d : PReg) (a b : VSrc) (s : State) : Res :=
  .next (intCmp (fun x y => decide (x ≤ y)) n t d a b s)

/-- VMULW (R123): exact double-width products into a pair; 32-bit types and odd destinations are ILLEGAL. -/
def execVmulw (n : Bool) (t : ITy) (d : VDst) (a b : VSrc) (s : State) : Res :=
  s.whenOk (decide (t.width ≠ 32) && d.aligned 2)
    (s.retV 2 n (groupOf d 2 (2 * t.width)
      ((List.zipWith (· * ·) (s.core.ivals t a) (s.core.ivals t b)).map (lowBits (2 * t.width)))) 0)

/-- VMAC (R121): the old destination plus the product. -/
def execVmac (n : Bool) (t : ITy) (d : VDst) (a b : VSrc) (s : State) : Res :=
  .next (s.retV 2 n [(d, ofInts t.width (List.zipWith (· + ·) ((elems t.width (s.core.vd d)).map t.val)
    (List.zipWith (· * ·) (s.core.ivals t a) (s.core.ivals t b))))] 0)

/-- VDOT (R122): wrapping; types of 16 and 32 bits are ILLEGAL. -/
def execVdot (n : Bool) (t : ITy) (d : VDst) (a b : VSrc) (s : State) : Res :=
  s.whenOk (decide (t.width < 16)) (s.retV 2 n [(d, ofInts 32 (dotTotals s.core t d a b))] 0)

/-- VDOT_SAT (R122): saturated once to i32. -/
def execVdotSat (n : Bool) (t : ITy) (d : VDst) (a b : VSrc) (s : State) : Res :=
  s.whenOk (decide (t.width < 16)) (s.retV 2 n [(d, ofInts 32 ((dotTotals s.core t d a b).map (satInt true 32)))] 0)

/-- VSEL (R121): a where the predicate bit is 1, else the old destination. -/
def execVsel (n : Bool) (t : ITy) (d : VDst) (a : VSrc) (p : PReg) (s : State) : Res :=
  let w := t.width
  .next (s.retV 2 n [(d, ofElems w (List.zipWith (fun (b : Bool) (xy : Nat × Nat) => if b then xy.1 else xy.2)
    (s.core.sel p w) (List.zip (elems w (s.core.vx a)) (elems w (s.core.vd d)))))] 0)

/-- PSET (R135): the first k bits; k above 1024 is ILLEGAL. -/
def execPset (n : Bool) (d : PReg) (k : BitVec 12) (s : State) : Res :=
  s.whenOk (decide (k.toNat ≤ 1024)) (s.retVP 1 n d (BitVec.ofNat 1024 (2 ^ k.toNat - 1)) 0)

/-- PCNT (R135). -/
def execPcnt (n : Bool) (d : VDst) (a : PReg) (s : State) : Res :=
  .next (s.retV 1 n [(d, BitVec.ofNat 4096 (onesOf 1024 (s.core.px a).toNat))] 0)

/-- PFIRST (R135). -/
def execPfirst (n : Bool) (d a : PReg) (s : State) : Res :=
  .next (s.retVP 1 n d (s.core.px a &&& -(s.core.px a)) 0)

end Sys2Proof.Machine
end

