-- ==== Sys2Proof/Machine/VectorMove.lean ====
section
/-! DEFINITION. Movement, reductions, scans and sorting steps (05 R129 to R134). -/

namespace Sys2Proof.Machine

/-- A movement result: elements of width w, 3 beats, no flags (R129). -/
def State.moved (s : State) (n : Bool) (t : ITy) (d : VDst) (l : List Nat) : State :=
  s.retV 3 n [(d, ofElems t.width l)] 0

/-- VMOV (R129). -/
def execVmov (n : Bool) (_t : ITy) (d : VDst) (a : VSrc) (s : State) : Res := .next (s.retV 3 n [(d, s.core.vx a)] 0)

/-- VBCAST (R129): element x of a everywhere, 0 when x names none. -/
def execVbcast (n : Bool) (t : ITy) (d : VDst) (a b : VSrc) (s : State) : Res :=
  let l := elems t.width (s.core.vx a)
  .next (s.moved n t d (l.map fun _ => l.getD (s.core.lane0 b) 0))

/-- VEXT (R129). -/
def execVext (n : Bool) (t : ITy) (d : VDst) (a b : VSrc) (s : State) : Res :=
  .next (s.moved n t d [(elems t.width (s.core.vx a)).getD (s.core.lane0 b) 0])

/-- VINS (R129): element 0 of a into the old destination at x. -/
def execVins (n : Bool) (t : ITy) (d : VDst) (a b : VSrc) (s : State) : Res :=
  .next (s.moved n t d (setNth (elems t.width (s.core.vd d)) (s.core.lane0 b) (elem t.width (s.core.vx a) 0)))

/-- VPERM (R129). -/
def execVperm (n : Bool) (t : ITy) (d : VDst) (a b : VSrc) (s : State) : Res :=
  let l := elems t.width (s.core.vx a)
  .next (s.moved n t d ((elems t.width (s.core.vx b)).map fun i => l.getD i 0))

/-- Two registers of a pair from a sequence of 2E elements, the first E in the first register (R129). -/
def halves (d : VDst) (w : Nat) (l : List Nat) : List (VDst × VWord) :=
  [(d, ofElems w (l.take (4096 / w))), (VDst.nth d 1, ofElems w (l.drop (4096 / w)))]

/-- VZIP (R129). -/
def execVzip (n : Bool) (t : ITy) (d : VDst) (a b : VSrc) (s : State) : Res :=
  let w := t.width
  s.whenOk (d.aligned 2)
    (s.retV 3 n (halves d w (interleave (4096 / w) [elems w (s.core.vx a), elems w (s.core.vx b)])) 0)

/-- VUNZIP (R129). -/
def execVunzip (n : Bool) (t : ITy) (d : VDst) (a b : VSrc) (s : State) : Res :=
  let w := t.width
  let c := elems w (s.core.vx a) ++ elems w (s.core.vx b)
  s.whenOk (d.aligned 2) (s.retV 3 n (halves d w (pick 2 (4096 / w) c ++ pick 2 (4096 / w) (c.drop 1))) 0)

/-- VSLIDE (R129): element i is a[i + s], 0 outside. -/
def execVslide (n : Bool) (t : ITy) (d : VDst) (a b : VSrc) (s : State) : Res :=
  let l := elems t.width (s.core.vx a)
  let k := sval (s.core.lane0 b) 32
  .next (s.moved n t d (if 0 ≤ k then l.drop k.toNat else (List.replicate (min (-k).toNat 1024) 0 ++ l).take l.length))

/-- VCOMPR (R129): the selected elements, packed from element 0. -/
def execVcompr (n : Bool) (t : ITy) (d : VDst) (a : VSrc) (p : PReg) (s : State) : Res :=
  .next (s.moved n t d (((List.zip (s.core.sel p t.width) (elems t.width (s.core.vx a))).filter (·.1)).map (·.2)))

/-- The expansion of a list into the selected places of an old one (R129). -/
def expand : List Bool → List Nat → List Nat → List Nat
  | b :: bs, o :: os, a => if b then a.headD 0 :: expand bs os a.tail else o :: expand bs os a
  | _, _, _ => []

/-- VEXPND (R129). -/
def execVexpnd (n : Bool) (t : ITy) (d : VDst) (a : VSrc) (p : PReg) (s : State) : Res :=
  let w := t.width
  .next (s.moved n t d (expand (s.core.sel p w) (elems w (s.core.vd d)) (elems w (s.core.vx a))))

/-- The counts of set bits below each place. -/
def countsBelow : Nat → List Bool → List Nat
  | _, [] => []
  | k, b :: bs => k :: countsBelow (if b then k + 1 else k) bs

/-- VIOTA (R129): low w bits of the counts. -/
def execViota (n : Bool) (t : ITy) (d : VDst) (p : PReg) (s : State) : Res :=
  .next (s.moved n t d (countsBelow 0 (s.core.sel p t.width)))

/-- The selected integer elements with their indices (R130). -/
def Core.selInts (c : Core) (t : ITy) (a : VSrc) (p : PReg) : List (Nat × Int) :=
  ((List.zip (c.sel p t.width) (List.zip (List.range (4096 / t.width)) (c.ivals t a))).filter (·.1)).map (·.2)

/-- The first entry that no other beats. -/
def best {α β : Type} (better : β → β → Bool) : Option (α × β) → List (α × β) → Option (α × β)
  | r, [] => r
  | none, x :: xs => best better (some x) xs
  | some y, x :: xs => best better (some (if better x.2 y.2 then x else y)) xs

/-- VRSUM_INT (R131): the exact sum as 64 bits. -/
def execVrsumInt (n : Bool) (t : ITy) (d : VDst) (a : VSrc) (p : PReg) (s : State) : Res :=
  let sum := ((s.core.selInts t a p).map (·.2)).foldl (· + ·) 0
  s.whenOk (decide (8 ≤ t.width)) (s.retV 6 n [(d, BitVec.ofNat 4096 (lowBits 64 sum))] 0)

/-- VRMAX_INT (R132): the type's least value when nothing is selected. -/
def execVrmaxInt (n : Bool) (t : ITy) (d : VDst) (a : VSrc) (p : PReg) (s : State) : Res :=
  let r := best (fun x y : Int => decide (y < x)) none (s.core.selInts t a p)
  s.whenOk (decide (8 ≤ t.width))
    (s.retV 6 n [(d, ofInts t.width [(r.map (·.2)).getD (t.sat (-(2 ^ 64)))])] 0)

/-- VRMIN_INT (R132): the type's greatest value when nothing is selected. -/
def execVrminInt (n : Bool) (t : ITy) (d : VDst) (a : VSrc) (p : PReg) (s : State) : Res :=
  let r := best (fun x y : Int => decide (x < y)) none (s.core.selInts t a p)
  s.whenOk (decide (8 ≤ t.width))
    (s.retV 6 n [(d, ofInts t.width [(r.map (·.2)).getD (t.sat (2 ^ 64))])] 0)

/-- Index and value lanes of VARGMAX (R130). -/
def argLanes (i v : Nat) : VWord := BitVec.ofNat 4096 (i + v % 2 ^ 32 * 2 ^ 32)

/-- VARGMAX_INT (R132): the lowest index among equal maxima; 0xFFFF_FFFF and 0 when nothing is selected. -/
def execVargmaxInt (n : Bool) (t : ITy) (d : VDst) (a : VSrc) (p : PReg) (s : State) : Res :=
  let r := best (fun x y : Int => decide (y < x)) none (s.core.selInts t a p)
  s.whenOk (decide (8 ≤ t.width))
    (s.retV 6 n [(d, match r with
      | some x => argLanes x.1 (lowBits t.width x.2)
      | none => argLanes 0xFFFFFFFF 0)] 0)

/-- A segmented prefix computation (R133): the results, and the flags of every addition. -/
def scan (ex : Bool) (plus : Nat → Nat → Nat × Flags) : Bool → Nat → List Bool → List Nat → List (Nat × Flags)
  | first, acc, h :: hs, x :: xs =>
    let acc := if first || h then 0 else acc
    let r := plus acc x
    ((if ex then acc else r.1), r.2) :: scan ex plus false r.1 hs xs
  | _, _, _, _ => []

/-- Integer scans (R133): wrapping. -/
def scanInt (ex : Bool) (n : Bool) (t : ITy) (d : VDst) (a : VSrc) (p : PReg) (s : State) : Res :=
  let w := t.width
  let r := scan ex (fun x y => ((x + y) % 2 ^ w, 0)) true 0 (s.core.sel p w) (elems w (s.core.vx a))
  s.whenOk (decide (8 ≤ w)) (s.retV 6 n [(d, ofElems w (valuesOf r))] 0)

/-- VSCAN_INT (R133). -/
def execVscanInt (n : Bool) (t : ITy) (d : VDst) (a : VSrc) (p : PReg) (s : State) : Res := scanInt false n t d a p s

/-- VSCAN_EX_INT (R133). -/
def execVscanExInt (n : Bool) (t : ITy) (d : VDst) (a : VSrc) (p : PReg) (s : State) : Res := scanInt true n t d a p s

/-- The partner of element i in a compare-exchange step (R134), and whether i is the lower of the two. -/
def partner (flip : Bool) (m i : Nat) : Nat × Bool :=
  let low := decide (i / m % 2 = 0)
  if flip then (i / (2 * m) * (2 * m) + (2 * m - 1 - i % (2 * m)), low)
  else (if low then i + m else i - m, low)

/-- One compare-exchange step over elements with their keys (R134). Under flip the element with bit j clear is the lower
of its pair as well. -/
def exchange (desc flip : Bool) (m : Nat) (l : List (Nat × Int)) : List Nat :=
  (List.zip (List.range l.length) l).map fun x =>
    let q := partner flip m x.1
    let y := l.getD q.1 x.2
    let wantHi := xor desc (!q.2)
    let keep := if q.2 then decide (x.2.2 ≤ y.2) else decide (y.2 ≤ x.2.2)
    if wantHi = q.2 then (if keep then y.1 else x.2.1) else (if keep then x.2.1 else y.1)

/-- VCMPX_INT (R134): j with 2^(j+1) above E is ILLEGAL. -/
def execVcmpxInt (n : Bool) (t : ITy) (d : VDst) (a : VSrc) (desc flip : Bool) (j : BitVec 4) (s : State) : Res :=
  let w := t.width
  let l := (elems w (s.core.vx a)).map fun e => (e, t.val e)
  s.whenOk (decide (8 ≤ w) && decide (2 ^ (j.toNat + 1) * w ≤ 4096))
    (s.retV 6 n [(d, ofElems w (exchange desc flip (2 ^ j.toNat) l))] 0)

/-- A selected element converted exactly to f32 (R131): a NaN keeps whether it signals. -/
def widen (t : FTy) (c : FCtl) (x : Nat) : Nat :=
  match FVal.read t.fmt c.ftz x with
  | .nan sig => if sig then 0x7F800001 else FTy.f32.fmt.nanEnc
  | v => (FTy.f32.fmt.enc 0 false v).1

/-- One addition of the tree of VRSUM (R131). -/
def treeAdd (c : FCtl) (x y : Option Nat) : Option Nat × Flags :=
  match x, y with
  | some u, some v => let r := FTy.f32.fmt.addF c u v; (some r.1, r.2)
  | some u, none => (some u, 0)
  | none, v => (v, 0)

/-- One level of the tree: neighbours added. -/
def treeLevel (c : FCtl) : List (Option Nat) → List (Option Nat × Flags)
  | x :: y :: l => treeAdd c x y :: treeLevel c l
  | _ => []

/-- The tree of VRSUM over n levels (R131). -/
def treeSum (c : FCtl) : Nat → List (Option Nat) → Option Nat × Flags
  | 0, l => (l.headD none, 0)
  | n + 1, l =>
    let r := treeLevel c l
    let u := treeSum c n (r.map (·.1))
    (u.1, r.foldl (fun f x => f ||| x.2) u.2)

/-- The selected float elements as read, with their indices (R130, R132). -/
def Core.selFlts (c : Core) (t : FTy) (f : FCtl) (a : VSrc) (p : PReg) : List (Nat × FVal) :=
  ((List.zip (c.sel p t.width) (List.zip (List.range (4096 / t.width))
    ((elems t.width (c.vx a)).map (FVal.read t.fmt f.ftz)))).filter (·.1)).map (·.2)

/-- The nv of signalling NaNs among selected elements (R132). -/
def snvs (l : List (Nat × FVal)) : Flags := l.foldl (fun f x => f ||| x.2.snv) 0

/-- VRSUM_FLOAT (R131): +0 when nothing is selected, a lone NaN as the canonical one, and nv for a signalling one although
nothing is added to it (02 R36, R56). -/
def execVrsumFloat (n : Bool) (t : FTy) (d : VDst) (a : VSrc) (p : PReg) (s : State) : Res :=
  let w := t.width
  let l := List.zipWith (fun (b : Bool) x => if b then some (widen t s.fctl x) else none) (s.core.sel p w)
    (elems w (s.core.vx a))
  let r := treeSum s.fctl (Nat.log2 (4096 / w)) l
  let v := r.1.getD 0
  let v := if (FVal.dec FTy.f32.fmt v).isNan then FTy.f32.fmt.nanEnc else v
  s.whenOk t.arith (s.retV 6 n [(d, BitVec.ofNat 4096 v)] (r.2 ||| snvs (s.core.selFlts t s.fctl a p)))

/-- The best selected element that is no NaN, else the first NaN (R132). -/
def bestFlt (isMax : Bool) (l : List (Nat × FVal)) : Option (Nat × FVal) :=
  let r := best (fun x y => if isMax then decide (0 < FVal.ord true x y) else decide (FVal.ord true x y < 0)) none
    (l.filter fun x => !x.2.isNan)
  r.or l.head?

/-- The encoding of an element as read (R132). -/
def asRead (t : FTy) (v : FVal) : Nat := (t.fmt.enc 0 false v).1

/-- VRMAX_FLOAT (R132): -infinity when nothing is selected. -/
def execVrmaxFloat (n : Bool) (t : FTy) (d : VDst) (a : VSrc) (p : PReg) (s : State) : Res :=
  let l := s.core.selFlts t s.fctl a p
  let v := ((bestFlt true l).map (·.2)).getD (.inf true)
  s.whenOk t.arith (s.retV 6 n [(d, BitVec.ofNat 4096 (asRead t v))] (snvs l))

/-- VRMIN_FLOAT (R132): +infinity when nothing is selected. -/
def execVrminFloat (n : Bool) (t : FTy) (d : VDst) (a : VSrc) (p : PReg) (s : State) : Res :=
  let l := s.core.selFlts t s.fctl a p
  let v := ((bestFlt false l).map (·.2)).getD (.inf false)
  s.whenOk t.arith (s.retV 6 n [(d, BitVec.ofNat 4096 (asRead t v))] (snvs l))

/-- VARGMAX_FLOAT (R132). -/
def execVargmaxFloat (n : Bool) (t : FTy) (d : VDst) (a : VSrc) (p : PReg) (s : State) : Res :=
  let l := s.core.selFlts t s.fctl a p
  s.whenOk t.arith
    (s.retV 6 n [(d, match bestFlt true l with
      | some x => argLanes x.1 (asRead t x.2)
      | none => argLanes 0xFFFFFFFF 0)] (snvs l))

/-- Float scans (R133): additions in the element's format, flags of each. -/
def scanFlt (ex : Bool) (n : Bool) (t : FTy) (d : VDst) (a : VSrc) (p : PReg) (s : State) : Res :=
  let w := t.width
  let r := scan ex (t.fmt.addF s.fctl) true 0 (s.core.sel p w) (elems w (s.core.vx a))
  s.whenOk t.arith (s.retV 6 n [(d, ofElems w (valuesOf r))] (unionFlags r))

/-- VSCAN_FLOAT (R133). -/
def execVscanFloat (n : Bool) (t : FTy) (d : VDst) (a : VSrc) (p : PReg) (s : State) : Res := scanFlt false n t d a p s

/-- VSCAN_EX_FLOAT (R133). -/
def execVscanExFloat (n : Bool) (t : FTy) (d : VDst) (a : VSrc) (p : PReg) (s : State) : Res := scanFlt true n t d a p s

/-- VCMPX_FLOAT (R134): the total order with NaN above all; NaNs written canonical, subnormals unchanged. -/
def execVcmpxFloat (n : Bool) (t : FTy) (d : VDst) (a : VSrc) (desc flip : Bool) (j : BitVec 4) (s : State) : Res :=
  let w := t.width
  let es := elems w (s.core.vx a)
  let l := es.map fun e => (if (FVal.dec t.fmt e).isNan then t.fmt.nanEnc else e, t.fmt.key e)
  s.whenOk (t.arith && decide (2 ^ (j.toNat + 1) * w ≤ 4096))
    (s.retV 6 n [(d, ofElems w (exchange desc flip (2 ^ j.toNat) l))]
      (es.foldl (fun f e => f ||| (FVal.dec t.fmt e).snv) 0))

end Sys2Proof.Machine
end

