-- ==== Sys2Proof/Machine/Dispatch.lean ====
section
/-! DEFINITION. What every instruction does: one arm for each constructor of Instr, each a direct call of its meaning. A
slot instruction acts for the current core; an event acts on the core, the context or the part of the chip that it names. -/

namespace Sys2Proof.Machine

/-- The effect of an instruction or event (03 R66; the table of 99). -/
def exec (i : Instr) (s : State) : Host.Outcome State Fault Refusal :=
  match i with
  | .add n d a b => Sys2Proof.Machine.execAdd n d a b s
  | .sub n d a b => Sys2Proof.Machine.execSub n d a b s
  | .mul n d a b => Sys2Proof.Machine.execMul n d a b s
  | .mulh n d a b => Sys2Proof.Machine.execMulh n d a b s
  | .mulhu n d a b => Sys2Proof.Machine.execMulhu n d a b s
  | .div n d a b => Sys2Proof.Machine.execDiv n d a b s
  | .divu n d a b => Sys2Proof.Machine.execDivu n d a b s
  | .rem n d a b => Sys2Proof.Machine.execRem n d a b s
  | .remu n d a b => Sys2Proof.Machine.execRemu n d a b s
  | .and n d a b => Sys2Proof.Machine.execAnd n d a b s
  | .or n d a b => Sys2Proof.Machine.execOr n d a b s
  | .xor n d a b => Sys2Proof.Machine.execXor n d a b s
  | .andn n d a b => Sys2Proof.Machine.execAndn n d a b s
  | .shl n d a b => Sys2Proof.Machine.execShl n d a b s
  | .shr n d a b => Sys2Proof.Machine.execShr n d a b s
  | .sra n d a b => Sys2Proof.Machine.execSra n d a b s
  | .rotl n d a b => Sys2Proof.Machine.execRotl n d a b s
  | .min n d a b => Sys2Proof.Machine.execMin n d a b s
  | .max n d a b => Sys2Proof.Machine.execMax n d a b s
  | .minu n d a b => Sys2Proof.Machine.execMinu n d a b s
  | .maxu n d a b => Sys2Proof.Machine.execMaxu n d a b s
  | .clz n d a => Sys2Proof.Machine.execClz n d a s
  | .ctz n d a => Sys2Proof.Machine.execCtz n d a s
  | .popc n d a => Sys2Proof.Machine.execPopc n d a s
  | .sel n d a b => Sys2Proof.Machine.execSel n d a b s
  | .exts n d a w => Sys2Proof.Machine.execExts n d a w s
  | .extz n d a w => Sys2Proof.Machine.execExtz n d a w s
  | .bfx n d a b => Sys2Proof.Machine.execBfx n d a b s
  | .bfi n d a b => Sys2Proof.Machine.execBfi n d a b s
  | .mov n d a => Sys2Proof.Machine.execMov n d a s
  | .adda n d a b => Sys2Proof.Machine.execAdda n d a b s
  | .widf n d k => Sys2Proof.Machine.execWidf n d k s
  | .addi n d a imm => Sys2Proof.Machine.execAddi n d a imm s
  | .andi n d a imm => Sys2Proof.Machine.execAndi n d a imm s
  | .ori n d a imm => Sys2Proof.Machine.execOri n d a imm s
  | .xori n d a imm => Sys2Proof.Machine.execXori n d a imm s
  | .shli n d a imm => Sys2Proof.Machine.execShli n d a imm s
  | .shri n d a imm => Sys2Proof.Machine.execShri n d a imm s
  | .srai n d a imm => Sys2Proof.Machine.execSrai n d a imm s
  | .cmpiEq n d a imm => Sys2Proof.Machine.execCmpiEq n d a imm s
  | .cmpiNe n d a imm => Sys2Proof.Machine.execCmpiNe n d a imm s
  | .cmpiLt n d a imm => Sys2Proof.Machine.execCmpiLt n d a imm s
  | .cmpiLe n d a imm => Sys2Proof.Machine.execCmpiLe n d a imm s
  | .cmpiLtn n d a imm => Sys2Proof.Machine.execCmpiLtn n d a imm s
  | .cmpiLen n d a imm => Sys2Proof.Machine.execCmpiLen n d a imm s
  | .li n d imm => Sys2Proof.Machine.execLi n d imm s
  | .lih n d imm => Sys2Proof.Machine.execLih n d imm s
  | .cmpEq n d a b => Sys2Proof.Machine.execCmpEq n d a b s
  | .cmpNe n d a b => Sys2Proof.Machine.execCmpNe n d a b s
  | .cmpLt n d a b => Sys2Proof.Machine.execCmpLt n d a b s
  | .cmpLe n d a b => Sys2Proof.Machine.execCmpLe n d a b s
  | .cmpLtn n d a b => Sys2Proof.Machine.execCmpLtn n d a b s
  | .cmpLen n d a b => Sys2Proof.Machine.execCmpLen n d a b s
  | .pand n d a b => Sys2Proof.Machine.execPand n d a b s
  | .por n d a b => Sys2Proof.Machine.execPor n d a b s
  | .pxor n d a b => Sys2Proof.Machine.execPxor n d a b s
  | .pnot n d a => Sys2Proof.Machine.execPnot n d a s
  | .pmov n d a => Sys2Proof.Machine.execPmov n d a s
  | .br p neg disp => Sys2Proof.Machine.execBr p neg disp s
  | .call n p neg disp => Sys2Proof.Machine.execCall n p neg disp s
  | .ret a => Sys2Proof.Machine.execRet a s
  | .jmpx n d a => Sys2Proof.Machine.execJmpx n d a s
  | .loop d imm => Sys2Proof.Machine.execLoop d imm s
  | .loopm d imm => Sys2Proof.Machine.execLoopm d imm s
  | .brkl neg p => Sys2Proof.Machine.execBrkl neg p s
  | .sleep a => Sys2Proof.Machine.execSleep a s
  | .shf fld a sd => Sys2Proof.Machine.execShf fld a sd s
  | .shfAdd fld a sd => Sys2Proof.Machine.execShfAdd fld a sd s
  | .shfi imm fld sd => Sys2Proof.Machine.execShfi imm fld sd s
  | .shfiAdd imm fld sd => Sys2Proof.Machine.execShfiAdd imm fld sd s
  | .shcpD sd t => Sys2Proof.Machine.execShcpD sd t s
  | .shcpSd sd t => Sys2Proof.Machine.execShcpSd sd t s
  | .shcpMem sd a => Sys2Proof.Machine.execShcpMem sd a s
  | .shrd n d r fld => Sys2Proof.Machine.execShrd n d r fld s
  | .shchk n d r => Sys2Proof.Machine.execShchk n d r s
  | .csrr n g c => Sys2Proof.Machine.execCsrr n g c s
  | .csrw g c => Sys2Proof.Machine.execCsrw g c s
  | .csrs g c => Sys2Proof.Machine.execCsrs g c s
  | .csrc g c => Sys2Proof.Machine.execCsrc g c s
  | .sys f => Sys2Proof.Machine.execSys f s
  | .freeze n d a => Sys2Proof.Machine.execFreeze n d a s
  | .pairset n d a => Sys2Proof.Machine.execPairset n d a s
  | .ctc n d => Sys2Proof.Machine.execCtc n d s
  | .budq n d a => Sys2Proof.Machine.execBudq n d a s
  | .boost n d a => Sys2Proof.Machine.execBoost n d a s
  | .jrd n d a => Sys2Proof.Machine.execJrd n d a s
  | .thq n d a => Sys2Proof.Machine.execThq n d a s
  | .vadd n t d a b => Sys2Proof.Machine.execVadd n t d a b s
  | .vsub n t d a b => Sys2Proof.Machine.execVsub n t d a b s
  | .vadds n t d a b => Sys2Proof.Machine.execVadds n t d a b s
  | .vsubs n t d a b => Sys2Proof.Machine.execVsubs n t d a b s
  | .vmul n t d a b => Sys2Proof.Machine.execVmul n t d a b s
  | .vmulh n t d a b => Sys2Proof.Machine.execVmulh n t d a b s
  | .vmulw n t d a b => Sys2Proof.Machine.execVmulw n t d a b s
  | .vmac n t d a b => Sys2Proof.Machine.execVmac n t d a b s
  | .vdot n t d a b => Sys2Proof.Machine.execVdot n t d a b s
  | .vand n t d a b => Sys2Proof.Machine.execVand n t d a b s
  | .vor n t d a b => Sys2Proof.Machine.execVor n t d a b s
  | .vxor n t d a b => Sys2Proof.Machine.execVxor n t d a b s
  | .vandn n t d a b => Sys2Proof.Machine.execVandn n t d a b s
  | .vshl n t d a b => Sys2Proof.Machine.execVshl n t d a b s
  | .vshr n t d a b => Sys2Proof.Machine.execVshr n t d a b s
  | .vsra n t d a b => Sys2Proof.Machine.execVsra n t d a b s
  | .vmin n t d a b => Sys2Proof.Machine.execVmin n t d a b s
  | .vmax n t d a b => Sys2Proof.Machine.execVmax n t d a b s
  | .vabs n t d a => Sys2Proof.Machine.execVabs n t d a s
  | .vneg n t d a => Sys2Proof.Machine.execVneg n t d a s
  | .vcmpEq n t d a b => Sys2Proof.Machine.execVcmpEq n t d a b s
  | .vcmpNe n t d a b => Sys2Proof.Machine.execVcmpNe n t d a b s
  | .vcmpLt n t d a b => Sys2Proof.Machine.execVcmpLt n t d a b s
  | .vcmpLe n t d a b => Sys2Proof.Machine.execVcmpLe n t d a b s
  | .vsel n t d a p => Sys2Proof.Machine.execVsel n t d a p s
  | .vclz n t d a => Sys2Proof.Machine.execVclz n t d a s
  | .vpopc n t d a => Sys2Proof.Machine.execVpopc n t d a s
  | .vdotSat n t d a b => Sys2Proof.Machine.execVdotSat n t d a b s
  | .fadd n t d a b => Sys2Proof.Machine.execFadd n t d a b s
  | .fsub n t d a b => Sys2Proof.Machine.execFsub n t d a b s
  | .fmul n t d a b => Sys2Proof.Machine.execFmul n t d a b s
  | .fma n t d a b => Sys2Proof.Machine.execFma n t d a b s
  | .fms n t d a b => Sys2Proof.Machine.execFms n t d a b s
  | .fnma n t d a b => Sys2Proof.Machine.execFnma n t d a b s
  | .fmin n t d a b => Sys2Proof.Machine.execFmin n t d a b s
  | .fmax n t d a b => Sys2Proof.Machine.execFmax n t d a b s
  | .fabs n t d a => Sys2Proof.Machine.execFabs n t d a s
  | .fneg n t d a => Sys2Proof.Machine.execFneg n t d a s
  | .fcmpEq n t d a b => Sys2Proof.Machine.execFcmpEq n t d a b s
  | .fcmpNe n t d a b => Sys2Proof.Machine.execFcmpNe n t d a b s
  | .fcmpLt n t d a b => Sys2Proof.Machine.execFcmpLt n t d a b s
  | .fcmpLe n t d a b => Sys2Proof.Machine.execFcmpLe n t d a b s
  | .fcmpUn n t d a b => Sys2Proof.Machine.execFcmpUn n t d a b s
  | .frint n t d a => Sys2Proof.Machine.execFrint n t d a s
  | .vcvt n t d a src => Sys2Proof.Machine.execVcvt n t d a src s
  | .vcvtw n t d a src => Sys2Proof.Machine.execVcvtw n t d a src s
  | .vpack n t d a b => Sys2Proof.Machine.execVpack n t d a b s
  | .vqnt n t d a b => Sys2Proof.Machine.execVqnt n t d a b s
  | .vmov n t d a => Sys2Proof.Machine.execVmov n t d a s
  | .vbcast n t d a b => Sys2Proof.Machine.execVbcast n t d a b s
  | .vext n t d a b => Sys2Proof.Machine.execVext n t d a b s
  | .vins n t d a b => Sys2Proof.Machine.execVins n t d a b s
  | .vperm n t d a b => Sys2Proof.Machine.execVperm n t d a b s
  | .vzip n t d a b => Sys2Proof.Machine.execVzip n t d a b s
  | .vunzip n t d a b => Sys2Proof.Machine.execVunzip n t d a b s
  | .vslide n t d a b => Sys2Proof.Machine.execVslide n t d a b s
  | .vcompr n t d a p => Sys2Proof.Machine.execVcompr n t d a p s
  | .vexpnd n t d a p => Sys2Proof.Machine.execVexpnd n t d a p s
  | .viota n t d p => Sys2Proof.Machine.execViota n t d p s
  | .vrsumInt n t d a p => Sys2Proof.Machine.execVrsumInt n t d a p s
  | .vrmaxInt n t d a p => Sys2Proof.Machine.execVrmaxInt n t d a p s
  | .vrminInt n t d a p => Sys2Proof.Machine.execVrminInt n t d a p s
  | .vargmaxInt n t d a p => Sys2Proof.Machine.execVargmaxInt n t d a p s
  | .vscanInt n t d a p => Sys2Proof.Machine.execVscanInt n t d a p s
  | .vscanExInt n t d a p => Sys2Proof.Machine.execVscanExInt n t d a p s
  | .vcmpxInt n t d a desc flip j => Sys2Proof.Machine.execVcmpxInt n t d a desc flip j s
  | .pset n d k => Sys2Proof.Machine.execPset n d k s
  | .pcnt n d a => Sys2Proof.Machine.execPcnt n d a s
  | .pfirst n d a => Sys2Proof.Machine.execPfirst n d a s
  | .vrsumFloat n t d a p => Sys2Proof.Machine.execVrsumFloat n t d a p s
  | .vrmaxFloat n t d a p => Sys2Proof.Machine.execVrmaxFloat n t d a p s
  | .vrminFloat n t d a p => Sys2Proof.Machine.execVrminFloat n t d a p s
  | .vargmaxFloat n t d a p => Sys2Proof.Machine.execVargmaxFloat n t d a p s
  | .vscanFloat n t d a p => Sys2Proof.Machine.execVscanFloat n t d a p s
  | .vscanExFloat n t d a p => Sys2Proof.Machine.execVscanExFloat n t d a p s
  | .vcmpxFloat n t d a desc flip j => Sys2Proof.Machine.execVcmpxFloat n t d a desc flip j s
  | .exp2 n t d a => Sys2Proof.Machine.execExp2 n t d a s
  | .log2 n t d a => Sys2Proof.Machine.execLog2 n t d a s
  | .rcp n t d a => Sys2Proof.Machine.execRcp n t d a s
  | .rsqrt n t d a => Sys2Proof.Machine.execRsqrt n t d a s
  | .sqrt n t d a => Sys2Proof.Machine.execSqrt n t d a s
  | .sin n t d a => Sys2Proof.Machine.execSin n t d a s
  | .cos n t d a => Sys2Proof.Machine.execCos n t d a s
  | .tanh n t d a => Sys2Proof.Machine.execTanh n t d a s
  | .erf n t d a => Sys2Proof.Machine.execErf n t d a s
  | .lds n t g b off => Sys2Proof.Machine.execLds n t g b off s
  | .sts t g b off => Sys2Proof.Machine.execSts t g b off s
  | .ldss n z g b off => Sys2Proof.Machine.execLdss n z g b off s
  | .stss z g b off => Sys2Proof.Machine.execStss z g b off s
  | .ldsg n t g b ix => Sys2Proof.Machine.execLdsg n t g b ix s
  | .stsx t g b ix => Sys2Proof.Machine.execStsx t g b ix s
  | .spalloc a b => Sys2Proof.Machine.execSpalloc a b s
  | .spfree a => Sys2Proof.Machine.execSpfree a s
  | .renew a b => Sys2Proof.Machine.execRenew a b s
  | .splife n d a => Sys2Proof.Machine.execSplife n d a s
  | .spfill a b => Sys2Proof.Machine.execSpfill a b s
  | .wld h sw bar x => Sys2Proof.Machine.execWld h sw bar x s
  | .mma h sw bar x => Sys2Proof.Machine.execMma h sw bar x s
  | .accrd n d a => Sys2Proof.Machine.execAccrd n d a s
  | .accst h sw bar x => Sys2Proof.Machine.execAccst h sw bar x s
  | .accld h sw bar x => Sys2Proof.Machine.execAccld h sw bar x s
  | .accclr a => Sys2Proof.Machine.execAccclr a s
  | .mgrp a => Sys2Proof.Machine.execMgrp a s
  | .mwait d a => Sys2Proof.Machine.execMwait d a s
  | .ld n z g b off => Sys2Proof.Machine.execLd n z g b off s
  | .ldAcq n z g b sc => Sys2Proof.Machine.execLdAcq n z g b sc s
  | .st z g b off => Sys2Proof.Machine.execSt z g b off s
  | .stRel z g b sc => Sys2Proof.Machine.execStRel z g b sc s
  | .vld n t g b off => Sys2Proof.Machine.execVld n t g b off s
  | .vldAcq n t g b sc => Sys2Proof.Machine.execVldAcq n t g b sc s
  | .vst t g b off => Sys2Proof.Machine.execVst t g b off s
  | .vstRel t g b sc => Sys2Proof.Machine.execVstRel t g b sc s
  | .vldg n t g b ix => Sys2Proof.Machine.execVldg n t g b ix s
  | .vstx t g b ix => Sys2Proof.Machine.execVstx t g b ix s
  | .ldf n g b => Sys2Proof.Machine.execLdf n g b s
  | .ldfAcq n g b sc => Sys2Proof.Machine.execLdfAcq n g b sc s
  | .stf g b => Sys2Proof.Machine.execStf g b s
  | .stfRel g b sc => Sys2Proof.Machine.execStfRel g b sc s
  | .pref l1 b off => Sys2Proof.Machine.execPref l1 b off s
  | .fenceAcq sc => Sys2Proof.Machine.execFenceAcq sc s
  | .fenceRel sc => Sys2Proof.Machine.execFenceRel sc s
  | .fenceAr sc => Sys2Proof.Machine.execFenceAr sc s
  | .fencex sc p q => Sys2Proof.Machine.execFencex sc p q s
  | .cas n sc g b o sz => Sys2Proof.Machine.execCas n sc g b o sz s
  | .atomAdd n sc g b o sz => Sys2Proof.Machine.execAtomAdd n sc g b o sz s
  | .atomAnd n sc g b o sz => Sys2Proof.Machine.execAtomAnd n sc g b o sz s
  | .atomOr n sc g b o sz => Sys2Proof.Machine.execAtomOr n sc g b o sz s
  | .atomXor n sc g b o sz => Sys2Proof.Machine.execAtomXor n sc g b o sz s
  | .atomMin n sc g b o sz => Sys2Proof.Machine.execAtomMin n sc g b o sz s
  | .atomMax n sc g b o sz => Sys2Proof.Machine.execAtomMax n sc g b o sz s
  | .atomMinu n sc g b o sz => Sys2Proof.Machine.execAtomMinu n sc g b o sz s
  | .atomMaxu n sc g b o sz => Sys2Proof.Machine.execAtomMaxu n sc g b o sz s
  | .atomSwap n sc g b o sz => Sys2Proof.Machine.execAtomSwap n sc g b o sz s
  | .copyOut h sw bar dense x => Sys2Proof.Machine.execCopyOut h sw bar dense x s
  | .copyIn h sw bar dense x => Sys2Proof.Machine.execCopyIn h sw bar dense x s
  | .copym h sw bar post x => Sys2Proof.Machine.execCopym h sw bar post x s
  | .copys h sw bar x => Sys2Proof.Machine.execCopys h sw bar x s
  | .copyx h sw bar x => Sys2Proof.Machine.execCopyx h sw bar x s
  | .gath h sw bar dense x => Sys2Proof.Machine.execGath h sw bar dense x s
  | .redcAdd h sw bar x => Sys2Proof.Machine.execRedcAdd h sw bar x s
  | .redcMax h sw bar x => Sys2Proof.Machine.execRedcMax h sw bar x s
  | .redcMin h sw bar x => Sys2Proof.Machine.execRedcMin h sw bar x s
  | .cpqSummary n d => Sys2Proof.Machine.execCpqSummary n d s
  | .cpqEntry n d a => Sys2Proof.Machine.execCpqEntry n d a s
  | .cpcan a b => Sys2Proof.Machine.execCpcan a b s
  | .spawn bar x => Sys2Proof.Machine.execSpawn bar x s
  | .pipw e src => Sys2Proof.Machine.execPipw e src s
  | .pipr n dst e => Sys2Proof.Machine.execPipr n dst e s
  | .pipq n d e => Sys2Proof.Machine.execPipq n d e s
  | .binit bar x => Sys2Proof.Machine.execBinit bar x s
  | .barv bar => Sys2Proof.Machine.execBarv bar s
  | .barvExp bar x => Sys2Proof.Machine.execBarvExp bar x s
  | .bexp bar x => Sys2Proof.Machine.execBexp bar x s
  | .bwait bar x => Sys2Proof.Machine.execBwait bar x s
  | .btry n bar x => Sys2Proof.Machine.execBtry n bar x s
  | .ckpt => Sys2Proof.Machine.execCkpt s
  | .stepend => Sys2Proof.Machine.execStepend s
  | .nop => Sys2Proof.Machine.execNop s
  | .eret => Sys2Proof.Machine.execEret s
  | .iflush => Sys2Proof.Machine.execIflush s
  | .yield => Sys2Proof.Machine.execYield s
  | .statfl => Sys2Proof.Machine.execStatfl s
  | .resultLanding c => Sys2Proof.Machine.execResultLanding c s
  | .variableResultLanding c k => Sys2Proof.Machine.execVariableResultLanding c k s
  | .commitBufferDrain c => Sys2Proof.Machine.execCommitBufferDrain c s
  | .writeAcknowledge c k => Sys2Proof.Machine.execWriteAcknowledge c k s
  | .wrfailReport c k link => Sys2Proof.Machine.execWrfailReport c k link s
  | .stepRetire c => Sys2Proof.Machine.execStepRetire c s
  | .syscallEntry c => Sys2Proof.Machine.execSyscallEntry c s
  | .eretReturn c => Sys2Proof.Machine.execEretReturn c s
  | .sleepWake c => Sys2Proof.Machine.execSleepWake c s
  | .asyncTrapDelivery c => Sys2Proof.Machine.execAsyncTrapDelivery c s
  | .preemption c => Sys2Proof.Machine.execPreemption c s
  | .trapHandlerAbandon c => Sys2Proof.Machine.execTrapHandlerAbandon c s
  | .stepDispatch isl => Sys2Proof.Machine.execStepDispatch isl s
  | .proofingAreaBuild c task wid => Sys2Proof.Machine.execProofingAreaBuild c task wid s
  | .proofingLoafRenew c loaf => Sys2Proof.Machine.execProofingLoafRenew c loaf s
  | .stepKill task wid => Sys2Proof.Machine.execStepKill task wid s
  | .contextDestroy ctx => Sys2Proof.Machine.execContextDestroy ctx s
  | .walkerGenerate task => Sys2Proof.Machine.execWalkerGenerate task s
  | .completionWordWrite task => Sys2Proof.Machine.execCompletionWordWrite task s
  | .notifyWrite vi q val => Sys2Proof.Machine.execNotifyWrite vi q val s
  | .packetProcess vi q => Sys2Proof.Machine.execPacketProcess vi q s
  | .packetAdmit vi q => Sys2Proof.Machine.execPacketAdmit vi q s
  | .markerComplete vi q => Sys2Proof.Machine.execMarkerComplete vi q s
  | .fabricMessageReceive c k => Sys2Proof.Machine.execFabricMessageReceive c k s
  | .fabricAcknowledge c k => Sys2Proof.Machine.execFabricAcknowledge c k s
  | .replayResend c => Sys2Proof.Machine.execReplayResend c s
  | .forwardingEntryExpire c k => Sys2Proof.Machine.execForwardingEntryExpire c k s
  | .ldfRequestResolve c k => Sys2Proof.Machine.execLdfRequestResolve c k s
  | .cacheSectorFill a bad => Sys2Proof.Machine.execCacheSectorFill a bad s
  | .tlbMissWalk c va => Sys2Proof.Machine.execTlbMissWalk c va s
  | .atsTranslationCompletion pasid va size hpa rights present => Sys2Proof.Machine.execAtsTranslationCompletion pasid va size hpa rights present s
  | .hostAtsInvalidate pasid va size => Sys2Proof.Machine.execHostAtsInvalidate pasid va size s
  | .xltInvalidateRange vi ctx range => Sys2Proof.Machine.execXltInvalidateRange vi ctx range s
  | .xltInvalidateContext vi ctx => Sys2Proof.Machine.execXltInvalidateContext vi ctx s
  | .xltReloadDescriptor vi ctx => Sys2Proof.Machine.execXltReloadDescriptor vi ctx s
  | .xltCmdReservedKind vi => Sys2Proof.Machine.execXltCmdReservedKind vi s
  | .xltCmdComplete vi => Sys2Proof.Machine.execXltCmdComplete vi s
  | .copyStart c => Sys2Proof.Machine.execCopyStart c s
  | .copyElementTransfer c pos => Sys2Proof.Machine.execCopyElementTransfer c pos s
  | .copyComplete c pos => Sys2Proof.Machine.execCopyComplete c pos s
  | .matrixCmdStart c => Sys2Proof.Machine.execMatrixCmdStart c s
  | .matrixCmdComplete c => Sys2Proof.Machine.execMatrixCmdComplete c s
  | .accrdBusyLand c => Sys2Proof.Machine.execAccrdBusyLand c s
  | .statDrain c => Sys2Proof.Machine.execStatDrain c s
  | .linkReductionUpdate c pos => Sys2Proof.Machine.execLinkReductionUpdate c pos s
  | .barrierUpdateApply ctx l idx upd => Sys2Proof.Machine.execBarrierUpdateApply ctx l idx upd s
  | .loafExpire c loaf => Sys2Proof.Machine.execLoafExpire c loaf s
  | .bankGuardGrant c => Sys2Proof.Machine.execBankGuardGrant c s
  | .logicalCoreAbsent ctx l => Sys2Proof.Machine.execLogicalCoreAbsent ctx l s
  | .mergeOnResume ctx l c => Sys2Proof.Machine.execMergeOnResume ctx l c s
  | .contextSuspend ctx => Sys2Proof.Machine.execContextSuspend ctx s
  | .contextFreezeReflection ctx => Sys2Proof.Machine.execContextFreezeReflection ctx s
  | .contextResume ctx => Sys2Proof.Machine.execContextResume ctx s
  | .migrationRequest ctx l dest => Sys2Proof.Machine.execMigrationRequest ctx l dest s
  | .rotation ctx => Sys2Proof.Machine.execRotation ctx s
  | .budgetIntervalBoundary isl shares => Sys2Proof.Machine.execBudgetIntervalBoundary isl shares s
  | .boostLeaseExpire cl => Sys2Proof.Machine.execBoostLeaseExpire cl s
  | .sensorSample cores slices cool => Sys2Proof.Machine.execSensorSample cores slices cool s
  | .clusterGate cl => Sys2Proof.Machine.execClusterGate cl s
  | .vitLoad vi => Sys2Proof.Machine.execVitLoad vi s
  | .islMatrixWrite v => Sys2Proof.Machine.execIslMatrixWrite v s
  | .govLimitWrite v => Sys2Proof.Machine.execGovLimitWrite v s
  | .fabBackoffWrite v => Sys2Proof.Machine.execFabBackoffWrite v s
  | .bridgeTrainGo step => Sys2Proof.Machine.execBridgeTrainGo step s
  | .mailboxRequestPost vi wr => Sys2Proof.Machine.execMailboxRequestPost vi wr s
  | .mailboxReplyConsume vi rd => Sys2Proof.Machine.execMailboxReplyConsume vi rd s
  | .attestationReport vi nonce => Sys2Proof.Machine.execAttestationReport vi nonce s
  | .deviceRegisterWrite a wide v => Sys2Proof.Machine.execDeviceRegisterWrite a wide v s
  | .bridgeMarginReport mv => Sys2Proof.Machine.execBridgeMarginReport mv s
  | .bridgeRetrainDone => Sys2Proof.Machine.execBridgeRetrainDone s
  | .flitRetry rx good => Sys2Proof.Machine.execFlitRetry rx good s
  | .patrolScrub a => Sys2Proof.Machine.execPatrolScrub a s
  | .coolantControlUpdate pump valves => Sys2Proof.Machine.execCoolantControlUpdate pump valves s
  | .coolingFault kind on => Sys2Proof.Machine.execCoolingFault kind on s
  | .mgmtSmbusWrite v => Sys2Proof.Machine.execMgmtSmbusWrite v s
  | .gracefulPowerDown => Sys2Proof.Machine.execGracefulPowerDown s
  | .bringUp ok block => Sys2Proof.Machine.execBringUp ok block s
  | .hostWrite a bs => Sys2Proof.Machine.execHostWrite a bs s
  | .hostRead a len => Sys2Proof.Machine.execHostRead a len s
  | .hostAtomicop a wide op => Sys2Proof.Machine.execHostAtomicop a wide op s
  | .fgbLoad ctx file places tables => Sys2Proof.Machine.execFgbLoad ctx file places tables s
  | .contextCreate vi ctx => Sys2Proof.Machine.execContextCreate vi ctx s
  | .priPageResponse vi => Sys2Proof.Machine.execPriPageResponse vi s
  | .graphInstanceUnload ctx gi => Sys2Proof.Machine.execGraphInstanceUnload ctx gi s
  | .pairQuarantineClear c => Sys2Proof.Machine.execPairQuarantineClear c s

end Sys2Proof.Machine
end

