-- ==== Sys2Proof/Machine/Bundle.lean ====
section
/-! DEFINITION. A bundle issues: checks, freezes, the checkpoint it takes, its swaps, its slots in order of position, and
what follows it (03 R58 to R73; 04 R100 to R111; 06 R148; 07 R160; 08 R170 to R175, R184, R186, R190 to R192; log 3). -/

namespace Sys2Proof.Machine

/-- Goes on from a next state. -/
def thenDo (r : Res) (f : State → Res) : Res :=
  match r with
  | .next s => f s
  | .fault e => .fault e
  | .refused e => .refused e

/-! ## Slots -/

/-- The shape register that a slot swaps with its shadow (06 R147). -/
def swapOf (i : Instr) : Option (Fin 8) :=
  match i with
  | .wld h sw _ _ | .mma h sw _ _ | .accst h sw _ _ | .accld h sw _ _ | .copyOut h sw _ _ _ | .copyIn h sw _ _ _
  | .copym h sw _ _ _ | .copys h sw _ _ | .copyx h sw _ _ | .gath h sw _ _ _ | .redcAdd h sw _ _ | .redcMax h sw _ _
  | .redcMin h sw _ _ => if sw then some h else none
  | _ => none

/-- The swaps of a bundle, before any slot reads (06 R148). -/
def Core.swapAll (c : Core) (xs : List Slot) : Core :=
  { c with
    arch := ((xs.filter fun x => !x.squash).filterMap fun x => x.instr.bind swapOf).foldl Arch.swap c.arch
    iss := { c.iss with swapped := true } }

/-- Whether a withheld entry makes a register await its commit (08 R175). -/
def Entry.awaits (e : Entry) (u : Use) : Bool :=
  match e.kind, u with
  | .atom _ _ _ _ _ _ _ _ (some d) _, .x i => d == i
  | _, _ => false

/-- Whether a slot uses a register that awaits commit by an entry of its segment (08 R175). -/
def Slot.waitsSelf (x : Slot) (es : List Entry) : Bool := es.any fun e => x.uses.any e.awaits

/-- One slot issues (03 R66); es are the entries of its segment from before its bundle. -/
def State.runSlot (s : State) (es : List Entry) (x : Slot) : Res :=
  let s := s.upd fun c => { c with iss := { c.iss with pos := x.pos, unit := x.unit } }
  if x.waitsSelf es then .next (s.trap tWAITSELF 0 0)
  else
    match x.instr with
    | some i => exec i s
    | none => .next s

/-- The slots of a list in order, up to one that traps; a squashed slot does nothing (04 R106). -/
def runSlots (es : List Entry) : List Slot → State → Res
  | [], s => .next s
  | x :: xs, s =>
    if x.squash then runSlots es xs s
    else thenDo (s.runSlot es x) fun t => if t.core.iss.stopped then .next t else runSlots es xs t

/-! ## The parts of a bundle -/

/-- CKPT, YIELD and STEPEND, which act before the bundle's swaps and other slots (04 R109, R111; 08 R170; 14 R334). -/
def Slot.early (x : Slot) : Bool := isCkpt x.word || isYield x.word || isStepend x.word

/-- FREEZE, whose checkpoint stands before the bundle's swaps (07 R166). -/
def Slot.isFreeze (x : Slot) : Bool := sOp x.word == some 0x57

/-- A YIELD that issues (14 R334). -/
def Slot.isYielding (x : Slot) : Bool := isYield x.word && !x.squash

/-- The issue context at the start of a bundle of n words. -/
def Core.openIssue (c : Core) (n : Nat) : Core :=
  { c with iss := (Issue.mk 0 0 false false none none (c.pc + BitVec.ofNat 64 (4 * n)) 0) }

/-- The scope of a release part, if there is one. -/
def relCode (r : Option Scope) : Nat := (r.map fun sc => scopeCode sc + 1).getD 0

/-- An ordering in a commit signature. -/
def ordCode : Ord → Nat
  | .plain => 0 | .acq => 1 | .rel => 2

/-- An atomic operation in a commit signature. -/
def AOp.code : AOp → Nat
  | .add => 0 | .and => 1 | .or => 2 | .xor => 3 | .min => 4 | .max => 5 | .minu => 6 | .maxu => 7 | .swap => 8 | .cas => 9

/-- A loaf operation in a commit signature. -/
def SpOp.code : SpOp → Nat
  | .alloc => 0 | .free => 1 | .renew => 2 | .fill => 3

/-- A matrix command in a commit signature. -/
def MKind.code : MKind → Nat
  | .wld => 0 | .mma => 1 | .accst => 2 | .accld => 3 | .accclr => 4 | .mgrp => 5

/-- A barrier operand in a commit signature. -/
def BarRef.code (b : BarRef) : List Nat := [b2n b.named, b.lcore, b.idx]

/-- A barrier that may be absent. -/
def barCode (b : Option BarRef) : List Nat := (b.map fun b => 1 :: b.code).getD [0]

/-- A barrier update in a commit signature. -/
def updateCode : BarUpdate → List Nat
  | .init n => [0, n]
  | .arrive => [1]
  | .arriveExp v => [2, v.toNat]
  | .expect v => [3, v.toNat]
  | .post n bad => [4, n, b2n bad]

/-- What a commit signature folds in of an entry (08 R191): its whole content, what it is and every operand of it. -/
def EKind.observed (k : EKind) : List Nat :=
  match k with
  | .spStore cs => 0 :: cs.flatMap fun c => [c.va, c.bytes.length, ofBytes c.bytes]
  | .spMgmt op f n v => [1, op.code, f, n, v.toNat]
  | .gStore cs rel => [2, relCode rel] ++ cs.flatMap fun c => [c.va, c.pa, c.bytes.length, ofBytes c.bytes]
  | .stf va pa v rel => [3, va, pa, v.toNat, relCode rel]
  | .atom op va pa n cmp x o sc d _ =>
    [4, op.code, va, pa, n, cmp.toNat, x.toNat, ordCode o, scopeCode sc, (d.map fun d => d.val + 1).getD 0]
  | .fenceRel sc => [5, scopeCode sc]
  | .fencex sc p q => [6, scopeCode sc, p, q]
  | .barrier b u => 7 :: (b.code ++ updateCode u)
  | .pipw e l pe m => [8, e, l, pe, m.toNat]
  | .copy c => [9, c.kind.code, c.notBefore] ++ c.recs.map (·.toNat) ++ c.ops.map (·.toNat) ++ c.bar.code
  | .cpcan p a v => [10, p, a, v.toNat]
  | .matrix m => [11, m.kind.code, m.shape.toNat, m.x.toNat] ++ barCode m.bar
  | .spawn va post => [12, va] ++ barCode post
  | .statfl => [13]
  | .csr n v => [14, n, v.toNat]
  | .pairset c p => [15, c, b2n p]
  | .covered ls => 16 :: ls

/-- The signature of a paired core after a bundle (08 R191): its address and the entries it created; what lands is folded in
as it lands. -/
def Core.signed (c : Core) (entries : Nat) : Core :=
  c.signs (c.pc.toNat :: (c.cbuf.drop entries).flatMap fun e => e.kind.observed)

/-- The core after a bundle that issued to its end: the counts of the segment and of beats, the F-unit's spacing, the
time, the next bundle. -/
def Core.finish (c : Core) (xs : List Slot) (cycle : Nat) : Core :=
  let f := xs.any fun x => classOf x.word == 2 && !x.squash
  ({ c with
    segBundles := c.segBundles + 1
    beat := c.beat + 1
    fspace := if f then c.fspace else min 3 (c.fspace + 1)
    ltime := c.ltime + cycle
    yielded := false }).advance

/-- Quarantines the pair of the current core (08 R192): both cores stop, at the last checkpoint; the step is parked there,
at once or, where a committed command holds it, by the pre-emption that then waits for the core, the other members of its
gang each at its own next boundary (01 R23), and the pair's translations go (15 R342). The bundle of the PAIRQ record, which
no command caused, is the core's: the model's choice (log 141). -/
def State.quarantine (s : State) : State :=
  let c := s.core
  let p := c.pcore
  let s := s.event c.vi (eventRec cPAIRQ (p % 256) 0 0 s.tick c.pc 0 [] noPos)
  let shut := fun (c : Core) => { c with quarantined := true, port := { c.port with tlb := [] } }
  let s := ((s.setCore (shut (s.getCore (p + 1)))).upd shut).rollbackCore.upd fun c => { c with phase := .halted }
  let s := (drainWhile Core.mustDrain 8192 s).preemptCore p
  match c.seat.bind fun z => s.stepOf z.task z.wid with
  | some u => (u.cores.filter (· != p)).foldl State.preemptCore s
  | none => s

/-- A paired bundle whose signatures disagree (08 R191, R192): both cores roll back, or the pair is quarantined. -/
def State.disagree (s : State) : State :=
  let b := s.core.beat - 1
  let s := s.upd fun c => { c with upsets := c.upsets.filter (· != b), mismatches := c.mismatches + 1 }
  if 3 ≤ s.core.mismatches then s.quarantine else s.rollbackCore

/-- The end of a bundle that issued to its end. -/
def State.endBundle (s : State) (xs : List Slot) (entries : Nat) : State :=
  let k := s.cycle s.core.pcore
  let s := s.upd fun c => (c.signed entries).finish xs k
  if s.core.paired && s.core.upsets.contains (s.core.beat - 1) then s.disagree else s

/-- A core that cannot issue now takes a pending record at once (08 R184). -/
def State.heldOr (s : State) (now : Bool) : Bool × Res :=
  match if now then s.pendingRec else none with
  | some r => (true, .next (s.deliverNow r))
  | none => (false, .next s)

/-- The bundle's slots issue, after its checkpoint if it takes one. A bundle whose entries find no free space because of
draining ones does not issue (08 R173), STEPEND neither. The first component says whether it issued. -/
def State.issueSlots (s : State) (xs : List Slot) : Bool × Res :=
  let es := s.core.cbuf
  let r := thenDo (runSlots es (xs.filter Slot.isFreeze) s) fun t =>
    if t.core.iss.stopped then .next t
    else runSlots es (xs.filter fun x => !x.early && !x.isFreeze) (t.upd fun c => c.swapAll xs)
  match r with
  | .next t =>
    if t.core.iss.stopped || t.core.seat.isNone then (true, .next t)
    else if decide (bufferSize < t.core.occupied) then
      (s.upd fun c => { c with phase := .run }).heldOr (s.core.frozenByCopies xs)
    else (true, .next (t.endBundle xs es.length))
  | r => (true, r)

/-- The checkpoint of the bundle (08 R170), CKPT and YIELD, and what leaves the core there; then its slots. The bundle
waits for the old values of its atomics (R175), and, where the step is to leave, for the commands that are completed first
(17 R393); a full command buffer in their way lets a record in (13 R289). -/
def State.openBundle (s : State) (ws : List Nat) (xs : List Slot) : Bool × Res :=
  let s := s.upd fun c => c.openIssue ws.length
  let s := if s.core.autoCkpt || xs.any Slot.isFreeze then s.checkpoint else s
  match runSlots s.core.cbuf (xs.filter Slot.early) s with
  | .next s =>
    if s.core.iss.stopped || s.core.seat.isNone then (true, .next s)
    else if s.core.awaitsOld || (xs.any Slot.isYielding && s.yieldHeld) then s.heldOr s.core.copyHeld
    else
      match if s.core.startsCkpt ws then s.leaveHere else (true, s) with
      | (false, s) => s.heldOr s.core.copyHeld
      | (true, s) => if s.core.seat.isNone then (true, .next s) else s.issueSlots xs
  | r => (true, r)

/-- A record is delivered at the checkpoint of the bundle, and no slot of it issues (08 R184; 14 R334). -/
def State.deliverAt (s : State) (r : Nat) : Bool × Res :=
  if s.core.anyPending then (true, .next (s.deliverNow r))
  else
    let s := s.checkpoint
    if s.core.awaitsOld then s.heldOr s.core.copyHeld else (true, .next (s.deliver r s.core.pc))

/-- A bundle whose words are at hand: its faults (03 R60; 08 R171, R186), its freezes, a delivery at it, its issue. -/
def State.issueWords (s : State) (ws : List Nat) : Bool × Res :=
  let xs := s.core.slots ws
  match s.core.fault ws xs with
  | some f =>
    let due := s.core.deliversAt ws && s.oldestRec.isSome
    (true, .next ((s.upd fun c => { c with asyncDue := c.asyncDue || due }).trapAt f.1 f.2 0 0))
  | none =>
    if decide (s.core.segLimit ≤ s.core.segBundles) && !s.core.isCkptBundle ws then
      (true, .next (s.trapAt 0 tSEGLONG 0 0))
    else if s.freezes ws xs then (s.upd fun c => c.settleFixed (c.frozenOn ws xs)).heldOr true
    else if s.core.deliversAt ws && s.recWaits then (false, .next s)
    else
      match if s.core.deliversAt ws then s.pendingRec else none with
      | some r => s.deliverAt r
      | none => s.openBundle ws xs

/-- The current core's time and the chip's meet (log 13). -/
def State.catchUp (s : State) : State :=
  let t := max s.core.ltime (s.tick * 4845)
  (s.upd fun c => { c with ltime := t }).reach (t / 4845)

/-- Whether the current core sleeps (04 R110). -/
def State.asleep (s : State) : Bool :=
  match s.core.sleep with
  | some t => decide (s.tick < t.1)
  | none => false

/-- The current core issues its next bundle, if it can. -/
def State.issueBundle (s : State) : Bool × Res :=
  let s := s.catchUp
  if s.core.asyncDue && s.core.level = .u then
    if s.stewardDraining then (false, .next s) else (true, .next s.lateDelivery)
  else if s.asleep then (s.slept.upd Core.landDue).heldOr true
  else
    match bundleAt (s.slept.upd fun c => { c with sleep := none }) s.core.pc.toNat with
    | (.error f, s) =>
      let due := s.core.level = .u && s.core.autoCkpt && s.oldestRec.isSome
      (true, .next ((s.upd fun c => { c with asyncDue := c.asyncDue || due }).fetchTrap 0 f))
    | (.ok ws, s) => (s.upd Core.landDue).issueWords ws

end Sys2Proof.Machine
end

