-- ==== Sys2Proof/Machine/Events.lean ====
section
/-! DEFINITION. The events of the opcode table as the schedule and the machine itself raise them (log 1). -/

namespace Sys2Proof.Machine

/-- An event happens. -/
def act (a : Act) (s : State) : Res :=
  match a with
  | .resultLanding c => Sys2Proof.Machine.execResultLanding c s
  | .variableResultLanding c k => Sys2Proof.Machine.execVariableResultLanding c k s
  | .commitBufferDrain c => Sys2Proof.Machine.execCommitBufferDrain c s
  | .writeAcknowledge c k => Sys2Proof.Machine.execWriteAcknowledge c k s
  | .wrfailReport c k link => Sys2Proof.Machine.execWrfailReport c k link s
  | .stepRetire c => Sys2Proof.Machine.execStepRetire c s
  | .syscallEntry c => Sys2Proof.Machine.execSyscallEntry c s
  | .eretReturn c => Sys2Proof.Machine.execEretReturn c s
  | .sleepWake c => Sys2Proof.Machine.execSleepWake c s
  | .asyncTrapDelivery c => Sys2Proof.Machine.execAsyncTrapDelivery c s
  | .preemption c => Sys2Proof.Machine.execPreemption c s
  | .trapHandlerAbandon c => Sys2Proof.Machine.execTrapHandlerAbandon c s
  | .stepDispatch isl => Sys2Proof.Machine.execStepDispatch isl s
  | .proofingAreaBuild c task wid => Sys2Proof.Machine.execProofingAreaBuild c task wid s
  | .proofingLoafRenew c loaf => Sys2Proof.Machine.execProofingLoafRenew c loaf s
  | .stepKill task wid => Sys2Proof.Machine.execStepKill task wid s
  | .contextDestroy ctx => Sys2Proof.Machine.execContextDestroy ctx s
  | .walkerGenerate task => Sys2Proof.Machine.execWalkerGenerate task s
  | .completionWordWrite task => Sys2Proof.Machine.execCompletionWordWrite task s
  | .notifyWrite vi q val => Sys2Proof.Machine.execNotifyWrite vi q val s
  | .packetProcess vi q => Sys2Proof.Machine.execPacketProcess vi q s
  | .packetAdmit vi q => Sys2Proof.Machine.execPacketAdmit vi q s
  | .markerComplete vi q => Sys2Proof.Machine.execMarkerComplete vi q s
  | .fabricMessageReceive c k => Sys2Proof.Machine.execFabricMessageReceive c k s
  | .fabricAcknowledge c k => Sys2Proof.Machine.execFabricAcknowledge c k s
  | .replayResend c => Sys2Proof.Machine.execReplayResend c s
  | .forwardingEntryExpire c k => Sys2Proof.Machine.execForwardingEntryExpire c k s
  | .ldfRequestResolve c k => Sys2Proof.Machine.execLdfRequestResolve c k s
  | .cacheSectorFill a bad => Sys2Proof.Machine.execCacheSectorFill a bad s
  | .tlbMissWalk c va => Sys2Proof.Machine.execTlbMissWalk c va s
  | .atsTranslationCompletion pasid va size hpa rights present => Sys2Proof.Machine.execAtsTranslationCompletion pasid va size hpa rights present s
  | .hostAtsInvalidate pasid va size => Sys2Proof.Machine.execHostAtsInvalidate pasid va size s
  | .xltInvalidateRange vi ctx range => Sys2Proof.Machine.execXltInvalidateRange vi ctx range s
  | .xltInvalidateContext vi ctx => Sys2Proof.Machine.execXltInvalidateContext vi ctx s
  | .xltReloadDescriptor vi ctx => Sys2Proof.Machine.execXltReloadDescriptor vi ctx s
  | .xltCmdReservedKind vi => Sys2Proof.Machine.execXltCmdReservedKind vi s
  | .xltCmdComplete vi => Sys2Proof.Machine.execXltCmdComplete vi s
  | .copyStart c => Sys2Proof.Machine.execCopyStart c s
  | .copyElementTransfer c pos => Sys2Proof.Machine.execCopyElementTransfer c pos s
  | .copyComplete c pos => Sys2Proof.Machine.execCopyComplete c pos s
  | .matrixCmdStart c => Sys2Proof.Machine.execMatrixCmdStart c s
  | .matrixCmdComplete c => Sys2Proof.Machine.execMatrixCmdComplete c s
  | .accrdBusyLand c => Sys2Proof.Machine.execAccrdBusyLand c s
  | .statDrain c => Sys2Proof.Machine.execStatDrain c s
  | .linkReductionUpdate c pos => Sys2Proof.Machine.execLinkReductionUpdate c pos s
  | .barrierUpdateApply ctx l idx upd => Sys2Proof.Machine.execBarrierUpdateApply ctx l idx upd s
  | .loafExpire c loaf => Sys2Proof.Machine.execLoafExpire c loaf s
  | .bankGuardGrant c => Sys2Proof.Machine.execBankGuardGrant c s
  | .logicalCoreAbsent ctx l => Sys2Proof.Machine.execLogicalCoreAbsent ctx l s
  | .mergeOnResume ctx l c => Sys2Proof.Machine.execMergeOnResume ctx l c s
  | .contextSuspend ctx => Sys2Proof.Machine.execContextSuspend ctx s
  | .contextFreezeReflection ctx => Sys2Proof.Machine.execContextFreezeReflection ctx s
  | .contextResume ctx => Sys2Proof.Machine.execContextResume ctx s
  | .migrationRequest ctx l dest => Sys2Proof.Machine.execMigrationRequest ctx l dest s
  | .rotation ctx => Sys2Proof.Machine.execRotation ctx s
  | .budgetIntervalBoundary isl shares => Sys2Proof.Machine.execBudgetIntervalBoundary isl shares s
  | .boostLeaseExpire cl => Sys2Proof.Machine.execBoostLeaseExpire cl s
  | .sensorSample cores slices cool => Sys2Proof.Machine.execSensorSample cores slices cool s
  | .clusterGate cl => Sys2Proof.Machine.execClusterGate cl s
  | .vitLoad vi => Sys2Proof.Machine.execVitLoad vi s
  | .islMatrixWrite v => Sys2Proof.Machine.execIslMatrixWrite v s
  | .govLimitWrite v => Sys2Proof.Machine.execGovLimitWrite v s
  | .fabBackoffWrite v => Sys2Proof.Machine.execFabBackoffWrite v s
  | .bridgeTrainGo step => Sys2Proof.Machine.execBridgeTrainGo step s
  | .mailboxRequestPost vi wr => Sys2Proof.Machine.execMailboxRequestPost vi wr s
  | .mailboxReplyConsume vi rd => Sys2Proof.Machine.execMailboxReplyConsume vi rd s
  | .attestationReport vi nonce => Sys2Proof.Machine.execAttestationReport vi nonce s
  | .deviceRegisterWrite a wide v => Sys2Proof.Machine.execDeviceRegisterWrite a wide v s
  | .bridgeMarginReport mv => Sys2Proof.Machine.execBridgeMarginReport mv s
  | .bridgeRetrainDone => Sys2Proof.Machine.execBridgeRetrainDone s
  | .flitRetry rx good => Sys2Proof.Machine.execFlitRetry rx good s
  | .patrolScrub a => Sys2Proof.Machine.execPatrolScrub a s
  | .coolantControlUpdate pump valves => Sys2Proof.Machine.execCoolantControlUpdate pump valves s
  | .coolingFault kind on => Sys2Proof.Machine.execCoolingFault kind on s
  | .mgmtSmbusWrite v => Sys2Proof.Machine.execMgmtSmbusWrite v s
  | .gracefulPowerDown => Sys2Proof.Machine.execGracefulPowerDown s
  | .bringUp ok block => Sys2Proof.Machine.execBringUp ok block s
  | .hostWrite a bs => Sys2Proof.Machine.execHostWrite a bs s
  | .hostRead a len => Sys2Proof.Machine.execHostRead a len s
  | .hostAtomicop a wide op => Sys2Proof.Machine.execHostAtomicop a wide op s
  | .fgbLoad ctx file places tables => Sys2Proof.Machine.execFgbLoad ctx file places tables s
  | .contextCreate vi ctx => Sys2Proof.Machine.execContextCreate vi ctx s
  | .priPageResponse vi => Sys2Proof.Machine.execPriPageResponse vi s
  | .graphInstanceUnload ctx gi => Sys2Proof.Machine.execGraphInstanceUnload ctx gi s
  | .pairQuarantineClear c => Sys2Proof.Machine.execPairQuarantineClear c s
  | .cacheFlush => Sys2Proof.Machine.execCacheFlush s
  | .mailboxTake vi => Sys2Proof.Machine.execMailboxTake vi s
  | .mailboxReply vi body => Sys2Proof.Machine.execMailboxReply vi body s
  | .peerRate lower => Sys2Proof.Machine.execPeerRate lower s
  | .coolantReading speed flow => Sys2Proof.Machine.execCoolantReading speed flow s
  | .mgmtRead item => Sys2Proof.Machine.execMgmtRead item s
  | .windowMap lo n on => Sys2Proof.Machine.execWindowMap lo n on s
  | .emergencySave => Sys2Proof.Machine.execEmergencySave s
  | .cellUpset a => Sys2Proof.Machine.execCellUpset a s

end Sys2Proof.Machine
end

