-- ==== Sys2Proof/Machine/Turns.lean ====
section
/-! DEFINITION. What happens next (log 1): the schedule, the interval boundary, the core whose turn it is, and the events
that the machine raises itself. The spec orders the agents of the chip only where its rules say so. -/

namespace Sys2Proof.Machine

/-! ## Events of the machine's own -/

/-- The events that may be due on a core: landings, ends of steps and traps, its drain, its engines, its fabric port. -/
def Core.acts (c : Core) (tick : Nat) : List Act :=
  let p := c.pcore
  let upTo := fun (n : Nat) (f : Nat → Act) => (List.range n).map f
  let pos := (c.eng.bte.filter fun k => k.state = .running).map (·.pos)
  let preempted := c.preempt.isSome || (decide (c.phase = .halted) && c.seat.isSome)
  let abandoned := (c.preempt.map fun t => t.2 && decide (t.1 + abandonAfter ≤ tick)).getD false
  let woken := (c.sleep.map fun t => decide (t.1 ≤ tick)).getD false
  (match c.phase with
    | .stepEnd => [Act.stepRetire p]
    | .sys _ _ _ => [Act.syscallEntry p]
    | .eret _ _ => [Act.eretReturn p]
    | _ => []) ++
    upTo c.pend.length (Act.variableResultLanding p) ++ upTo c.pend.length (Act.ldfRequestResolve p) ++
    (if c.drain = [] then [] else [Act.commitBufferDrain p]) ++
    upTo c.port.window.length (Act.fabricMessageReceive p) ++ upTo c.port.window.length (Act.fabricAcknowledge p) ++
    (if c.port.window = [] then [] else [Act.replayResend p]) ++ upTo c.port.acks.length (Act.writeAcknowledge p) ++
    (if c.mx.queue = [] ∧ c.mx.pushing = [] then [] else [Act.matrixCmdStart p, .matrixCmdComplete p]) ++
    (if c.eng.bte = [] then [] else [Act.copyStart p]) ++ pos.map (Act.linkReductionUpdate p) ++
    pos.map (Act.copyElementTransfer p) ++ pos.map (Act.copyComplete p) ++
    (if c.eng.statq = [] then [] else [Act.statDrain p]) ++ (if woken then [Act.sleepWake p] else []) ++
    (if preempted then [Act.preemption p] else []) ++ (if abandoned then [Act.trapHandlerAbandon p] else []) ++
    (((List.range c.port.fwd.length).filter fun k => ((c.port.fwd[k]?).map fun f => decide (f.expiry ≤ tick)).getD false).map
      (Act.forwardingEntryExpire p)) ++
    ((c.sp.proof.map fun q => q.map.map (·.1)).getD []).map (Act.proofingLoafRenew p)

/-- The queues that the packet processor looks at: those that run, and those with work in hand (14 R312, R314). -/
def State.queues (s : State) : List (Nat × Nat) :=
  ((s.loaded.flatMap fun e => ((List.range 64).filter fun q => s.pnat (queueAddr e.2 q + 9) 1 == 1).map fun q => (e.1, q)) ++
    s.pqueues.map fun p => (p.vi, p.q)).dedup

/-- The events that may be due on a context: its requests (07 R166; 17 R393, R402, R404, R406). -/
def Ctx.acts (ctx : Nat) (x : Ctx) : List Act :=
  match x.stopping with
  | [] => [Act.rotation ctx]
  | r :: _ =>
    match r % 4 with
    | 0 => [Act.contextSuspend ctx]
    | 1 => [Act.contextFreezeReflection ctx]
    | _ => [Act.contextResume ctx]

/-- The proofing areas that the dispatcher may build: for each resident core, for each Ready step (09 R205). -/
def State.proofActs (s : State) : List Act :=
  ((s.allCores.filter fun c => c.seat.isSome && c.sp.proof.isNone).map (·.pcore)).flatMap fun p =>
    ((s.considered (s.islandOf (clusterOf p))).filter fun e => e.2.state = .ready || e.2.state = .held).map fun e =>
      Act.proofingAreaBuild p e.1.id e.2.wid

/-- Every event that may be due. -/
def State.acts (s : State) : List Act :=
  (s.allCores.flatMap fun c => c.acts s.tick) ++ (s.tasks.flatMap fun t => [Act.walkerGenerate t.id, .completionWordWrite t.id]) ++
    (s.queues.flatMap fun q => [Act.packetProcess q.1 q.2, .packetAdmit q.1 q.2, .markerComplete q.1 q.2]) ++
    (s.ctxs.flatMap fun e => e.2.acts e.1) ++ (if s.steps = [] then [] else (List.range 4).map Act.stepDispatch) ++ s.proofActs ++
    (((List.range 64).filter fun v => !(s.xlt[Fin.ofNat 64 v]).cmds.isEmpty).map Act.xltCmdComplete) ++
    (((List.range 8).filter fun k => ((s.clusterAt k).lease.map fun l => decide (l.expiry ≤ s.tick)).getD false).map
      Act.boostLeaseExpire) ++ (if s.saves = [] then [] else [Act.emergencySave]) ++ (List.range 8).map Act.clusterGate

/-- Whether an event did something: more than making another core the current one, or counting a free choice. -/
def State.differs (s t : State) : Bool := decide ({ t.switch s.core.pcore with free := s.free } ≠ s)

/-- The first event of a list that does something, with what it leaves; the current core stays the same. -/
def State.firstOf (s : State) : List Act → Option Res
  | [] => none
  | a :: as =>
    match act a s with
    | .next t => if s.differs t then some (.next (t.switch s.core.pcore)) else s.firstOf as
    | r => some r

/-- One event of the machine's own, the search begun at a place that moves with time, so that none is passed over for
ever. -/
def State.ownEvent (s : State) : Option Res :=
  let l := s.acts
  let k := s.tick / 2 % (l.length + 1)
  s.firstOf (l.drop k ++ l.take k)

/-! ## Cores -/

/-- Whether bundles issue on a core. -/
def Core.runnable (c : Core) : Bool := decide (c.phase = .run) && c.seat.isSome

/-- The core that issues next: the one furthest behind in time, the current one of equals; none where none runs. -/
def State.nextCore (s : State) : Option Nat :=
  let best := fun (b : Option Core) (c : Core) =>
    if !c.runnable then b
    else match b with
      | none => some c
      | some d => if c.ltime < d.ltime then some c else b
  (s.others.foldl best (if s.core.runnable then some s.core else none)).map (·.pcore)

/-- A core's turn: a bundle issues, or the core lets a cycle pass (03 R73). -/
def State.turn (s : State) : Bool × Res :=
  match s.issueBundle with
  | (true, r) => (true, r)
  | (false, r) => (false, thenDo r fun t => .next (t.upd fun c => { c with ltime := c.ltime + t.cycle t.core.pcore }))

/-- An open choice of the measurements of an interval (16 R378, R383; log 19): the energy of each island and the share of
each resident core. -/
def State.measure (s : State) : (List Nat × List EnergyShare) × State :=
  let isl := (List.range 4).foldl
    (fun (a : List Nat × State) _ => let w := a.2.freeWord; (a.1 ++ [w.1.toNat], w.2)) ([], s)
  let es := ((s.allCores.filter fun c => c.seat.isSome).map (·.pcore)).foldl
    (fun (a : List EnergyShare × State) p => let w := a.2.freeWord; (a.1 ++ [EnergyShare.mk p w.1.toNat], w.2)) ([], isl.2)
  ((isl.1, es.1), es.2)

/-- Time passes (16 R366, R367). -/
def State.advance (s : State) (n : Nat) : State := s.reach (s.tick + n)

/-- One tick passes. -/
def State.pass (s : State) : State := s.advance 1

/-- What the schedule names (log 1): a core's turn, an event, or that time passes. -/
def State.take (s : State) (t : Turn) : Res :=
  match t with
  | .core p => let s := s.switch (p % 128); if s.core.runnable then s.turn.2 else .next s
  | .act a => act a s
  | .time n => .next (s.advance n)

/-- The dispatcher considers the balances of a new interval, on every island (23 R445). -/
def State.passAll (s : State) : Res :=
  (List.range 4).foldl (fun r i => thenDo r fun t => execStepDispatch i t) (.next { s with passDue := false })

/-- The ticks after a boundary in which its processing is completed (23 R445). -/
def boundaryTicks : Nat := 1000

/-- Whether an interval has ended whose boundary is still to be processed (16 R368, R378). -/
def State.boundaryDue (s : State) : Bool := s.wrapped || decide ((s.interval + 1) * intervalTicks ≤ s.tick)

/-- Whether a boundary, or the dispatcher's look at the balances that it left, has not been done in its time (23 R445). -/
def State.overdue (s : State) : Bool :=
  (s.passDue && (s.wrapped || decide (s.interval * intervalTicks + boundaryTicks ≤ s.tick))) ||
    (s.boundaryDue && decide (s.nextInterval * intervalTicks + boundaryTicks ≤ s.tick))

/-- The ticks to the end of the interval at hand. -/
def State.toBoundary (s : State) : Nat := min ((s.interval + 1) * intervalTicks) (2 ^ 64) - s.tick

/-- What comes before anything that would happen past the time of a boundary's processing (23 R445): the dispatcher's look at
the balances of the last one, the boundary, or the time up to it. -/
def State.boundaryFirst (s : State) : Res :=
  if s.passDue then s.passAll
  else if s.boundaryDue then
    let m := s.measure
    execBudgetIntervalBoundary m.1.1 m.1.2 m.2
  else .next (s.advance s.toBoundary)

/-- What happens where the schedule names nothing: an interval ends when it is due (16 R378), and the dispatcher considers
the new balances; on even ticks the next core issues; otherwise, and where it cannot, an event of the machine's own, or time
passes. -/
def State.auto (s : State) : Res :=
  if s.passDue || s.boundaryDue then s.boundaryFirst
  else
    match s.nextCore with
    | none => (s.pass.ownEvent).getD (.next s.pass)
    | some p =>
      if s.tick % 2 = 0 then
        match (s.switch p).turn with
        | (true, r) => r
        | (false, r) => thenDo r fun t => (t.ownEvent).getD (.next t.pass)
      else
        match s.ownEvent with
        | some r => thenDo r fun t => .next t.pass
        | none => (s.switch p).turn.2

/-- A turn, unless it would leave a boundary unprocessed past its time: then something else comes first (23 R445). -/
def State.inTime (r : Res) (first : Res) : Res :=
  match r with
  | .next t => if t.overdue then first else .next t
  | r => r

/-- Time that the schedule lets pass, up to the end of the interval at hand where it would leave the boundary unprocessed. -/
def State.timeFirst (s : State) (n : Nat) (ts : List Turn) : Res :=
  if s.passDue || s.boundaryDue then s.boundaryFirst
  else .next { s.advance s.toBoundary with schedule := .time (n - s.toBoundary) :: ts }

/-- One step of the machine: nothing happens without power (16 R384; 18 R419), and an interval boundary is processed in its
time (23 R445). -/
def State.oneTurn (s : State) : Res :=
  if s.power = .off then .fault .poweredOff
  else
    match s.schedule with
    | .time n :: ts => State.inTime ({ s with schedule := ts }.take (.time n)) (s.timeFirst n ts)
    | t :: ts => State.inTime ({ s with schedule := ts }.take t) s.boundaryFirst
    | [] => State.inTime s.auto s.boundaryFirst

/-! ## A program by hand (log 4) -/

/-- The context in which a hand-placed word runs: no tables of its own in memory. -/
def plainCtx : Ctx :=
  { vi := 0, desc := 0, root := 0, pasid := 0, lcores := 1, logBase := 0, logWin := 0, logSize := 0, map := 0, div := 0,
    memQuota := 0, prioCap := 0, lclCores := 1, lclusters := 1, state := 0, paired := false, statRing := 0, statWr := 0,
    statLost := 0, joule := 0, stopping := [], memUsed := 0, resumed := false, stopAt := 0, pins := [] }

/-- The current core runs a step of context 0, with the page of its pc translated one to one for fetches. -/
def Core.placed (c : Core) : Core :=
  let page := c.pc.toNat / 4096 * 4096
  { c with
    phase := .run
    seat := some (Seat.mk 0 0 0 0 0 0 1 3)
    sleep := none
    pend := []
    level := .u
    delay := .none
    port := { c.port with tlb := [(Tlb.mk 0 page 4096 (page % 2 ^ 38) 115 0)], l1i := [] } }

/-- A one-slot bundle of a word at the pc of the current core, which runs it next. -/
def State.placeWord (s : State) (w : Nat) : State :=
  let s := s.upd Core.placed
  { s with
    mem := { s.mem with bytes := s.mem.bytes.write (s.core.pc.toNat % 2 ^ 38) (toBytes 4 (w % 2 ^ 31 + 2 ^ 31)) }
    ctxs := Tab.put s.ctxs 0 plainCtx
    power := .on
    schedule := [] }

end Sys2Proof.Machine
end

