-- ==== Sys2Proof/Machine/Step.lean ====
section
/-! DEFINITION. One step of the machine, and a word placed where the next step issues it. -/

namespace Sys2Proof.Machine

/-- One step: what Turns.lean says happens next, the follower of every pair going where its leader goes (08 R190), and what
was corrected on the way reported (11 R250). -/
def step (s : State) : Host.Outcome State Fault Refusal := thenDo s.oneTurn fun t => .next t.settle

/-- A slot word as a one-slot bundle at the pc of the current core: its end bit is set, as a bundle of one slot has it
(03 R58). A program is loaded from outside and dispatched; this stands for that (log 4). -/
def State.withFetchWord (s : State) (_nbits w : Nat) : State := s.placeWord w

end Sys2Proof.Machine
end

