-- ==== Sys2Proof/Safety.lean ====
section
/-! DEFINITION. What a run relies on: the canonical forms of the state, and the words that its fields have to keep. -/

namespace Sys2Proof

open Sys2Proof.Machine

/-- X0 reads as zero wherever a core holds scalar registers (03 R68). -/
def ZeroReg (a : Arch) : Prop := a.x[0] = 0

/-- A core in good form: X0 is zero, the scratchpad and barrier cells are canonical, and the commit buffer is within its
size (03 R68; 07 R156; 08 R173). -/
structure CoreOk (c : Core) : Prop where
  zero : ZeroReg c.arch
  ckZero : ZeroReg c.ck
  cells : c.sp.cells.wf
  bars : c.bars.wf
  buffer : c.cbuf.length ≤ bufferSize

/-- Memory in its canonical form. -/
structure MemOk (m : Memory) : Prop where
  bytes : m.bytes.wf
  host : m.host.wf

/-- A state in good form, on every core. -/
structure StateOk (s : State) : Prop where
  cores : ∀ c ∈ s.core :: s.others, CoreOk c
  mem : MemOk s.mem

end Sys2Proof
end

