-- ==== Sys2Proof/Certificates/Slice0/Obligations.lean ====
section
/-! DEFINITION. The statements for the provers. Claims holds their vocabulary: what a slot puts in flight, lanes of a
vector register, a kernel core ready to issue. -/

open Sys2Proof Sys2Proof.Machine

namespace Sys2Proof.Claims

/-- s after the slot in issue has put one result in flight: due lat bundles on, the register unwritten under n, the
latch, the flags (03 R69, R70, R72). Everything else is unchanged. -/
def flying (s : State) (lat : Nat) (n : Bool) (dst : Dst) (latch : Option (Nat × VWord)) (fl : Flags) : State :=
  { s with core := { s.core with
    flight := s.core.flight ++ [(Flight.mk (s.core.beat + lat) (if n then .none else dst) latch fl true s.core.beat
      s.core.iss.pos)] } }

/-- A scalar result of the slot's S-unit: X(d), and the unit's latch B0 or B1. -/
def toX (s : State) (lat : Nat) (n : Bool) (d : SDst) (v : Word) : State :=
  flying s lat n (.x d v) (some (s.core.iss.unit % 2, v.setWidth 4096)) 0

/-- A predicate result of the slot's S-unit after one beat; the latch holds its bits 63:0 (04 R99). -/
def toP (s : State) (n : Bool) (d : PReg) (v : PWord) : State :=
  flying s 1 n (.p d v) (some (s.core.iss.unit % 2, (v.setWidth 64).setWidth 4096)) 0

/-- A scalar result of the slot's M-unit, with its latch B6 or B7. -/
def toMx (s : State) (lat : Nat) (n : Bool) (d : SDst) (v : Word) : State :=
  flying s lat n (.x d v) (some (6 + s.core.iss.unit % 2, v.setWidth 4096)) 0

/-- A result of the slot's V-unit: registers, the flags, and the unit's latch B2 to B4 with the first of them. -/
def toV (s : State) (lat : Nat) (n : Bool) (d : VDst) (v : VWord) (fl : Flags) : State :=
  flying s lat n (.v [(d, v)]) (some (2 + s.core.iss.unit % 3, v)) fl

/-- A pair of registers from a V-unit. -/
def toV2 (s : State) (lat : Nat) (n : Bool) (d : VDst) (v w : VWord) (fl : Flags) : State :=
  flying s lat n (.v [(d, v), (VDst.nth d 1, w)]) (some (2 + s.core.iss.unit % 3, v)) fl

/-- A predicate result of the slot's V-unit. -/
def toVP (s : State) (lat : Nat) (n : Bool) (d : PReg) (v : PWord) (fl : Flags) : State :=
  flying s lat n (.p d v) (some (2 + s.core.iss.unit % 3, v.setWidth 4096)) fl

/-- Lane i of a vector register at width w (05 R114). -/
def lane (w : Nat) (v : VWord) (i : Nat) : BitVec w := v.extractLsb' (w * i) w

/-- The low 64 of 128 product bits, or the high ones. -/
def high64 (x : BitVec 128) : Word := x.extractLsb' 64 64

/-- s with one more entry withheld by the slot in issue, where the segment has room (08 R172, R173). -/
def withheld (s : State) (k : EKind) : State :=
  { s with core := { s.core with cbuf := s.core.cbuf ++
    [(Entry.mk k s.core.level s.core.pc ((s.core.seat.map (·.ctx)).getD 0) ((s.core.seat.map (·.lcore)).getD 0)
      (Owner.mk ((s.core.seat.map (·.task)).getD 0) ((s.core.seat.map (·.wid)).getD 0)) 0)] } }

/-- The segment has room for one more entry (08 R173). -/
def room (s : State) : Prop := s.core.cbuf.length < 64

/-- s with one more pending register of the slot in issue (03 R73). -/
def pending (s : State) (dst : PDst) (w : Wait) (latch : Nat) (block : Bool) : State :=
  { s with core := { s.core with
    pend := s.core.pend ++ [(Pend.mk dst w latch s.core.beat s.core.ltime true s.core.pc s.core.iss.pos block)] } }

/-- The value of a lane under an integer type (02 R32). -/
def num (t : ITy) (x : BitVec t.width) : Int := if t.signed then x.toInt else x.toNat

/-- A number of the integer type's range, the nearest to x (00 R10). -/
def clamp (t : ITy) (x : Int) : Int :=
  if t.signed then max (-(2 ^ (t.width - 1))) (min (2 ^ (t.width - 1) - 1) x) else max 0 (min (2 ^ t.width - 1) x)

/-- Every lane of a register, at a width. -/
def lanesAre (w : Nat) (r : VWord) (f : Nat → BitVec w) : Prop := ∀ i < 4096 / w, lane w r i = f i

/-- Bit i of a predicate is the answer for element i below E, and 0 from there on (05 R119). -/
def bitsAre (w : Nat) (r : PWord) (f : Nat → Prop) : Prop :=
  ∀ i < 1024, r.getLsbD i = true ↔ i < 4096 / w ∧ f i

/-- The lanes of a result and the union of the lanes' flags (02 R56, R57). -/
def flaggedLanes (w m : Nat) (r : VWord) (fl : Flags) (f : Nat → Nat × Flags) : Prop :=
  (∀ i < m, lane w r i = BitVec.ofNat w (f i).1) ∧ ∀ k < 5, fl.getLsbD k = true ↔ ∃ i < m, (f i).2.getLsbD k = true

/-- The number (-1)^neg × m × 2^e over 2^e0, for e0 up to e. -/
def at2 (neg : Bool) (m : Nat) (e e0 : Int) : Int := if neg then -(m * 2 ^ (e - e0).toNat : Nat) else (m * 2 ^ (e - e0).toNat : Nat)

/-- r is the number (-1)^neg × m × 2^e. -/
abbrev exactly (neg : Bool) (m : Nat) (e r : Int) : Prop := at2 neg m e (min e 0) = r * 2 ^ (-(min e 0)).toNat

/-- r is an integer to which the number (-1)^neg × m × 2^e rounds in mode rm (02 R49, R53). -/
def roundsTo (rm : Nat) (neg : Bool) (m : Nat) (e r : Int) : Prop :=
  let v := at2 neg m e (min e 0)
  let one : Int := 2 ^ (-(min e 0)).toNat
  let x := r * one
  (rm = 0 → 2 * (v - x).natAbs ≤ one.natAbs ∧ (2 * (v - x).natAbs = one.natAbs → r % 2 = 0)) ∧
    (rm = 1 → x.natAbs ≤ v.natAbs ∧ v.natAbs < x.natAbs + one.natAbs ∧ 0 ≤ x * v) ∧
    (rm = 2 → v ≤ x ∧ x < v + one) ∧ (rm = 3 → x ≤ v ∧ v < x + one)

/-- An operand as read: under ftz a subnormal of a format that ftz touches is a zero of its sign (02 R50). -/
def flushed (f : Fmt) (ftz : Bool) (a : Nat) : Nat :=
  if ftz = true ∧ f.ftzable = true ∧ f.sub a = true then f.signed (decide (f.signBit ≤ a % 2 ^ f.width)) 0 else a % 2 ^ f.width

/-- ILLEGAL raised by the slot in issue (03 R60, 08 R180). -/
def illegal (s : State) : State := s.trapAt s.core.iss.pos 1 0 0

end Sys2Proof.Claims

open Sys2Proof.Claims

/-! ## Scalar slots (04) -/

/-- 04 R93, the rows without a bit count or a bit field: each answers the state with its result in flight. -/
def Sys2Proof.Claims.ScalarResults : Prop :=
  ∀ (n : Bool) (d : SDst) (ra rb : SSrc) (s : State),
    let a := s.core.sx ra
    let b := s.core.sx rb
    let k := (b.setWidth 6).toNat
    exec (.add n d ra rb) s = .next (toX s 1 n d (a + b)) ∧
    exec (.sub n d ra rb) s = .next (toX s 1 n d (a - b)) ∧
    exec (.mul n d ra rb) s = .next (toX s 3 n d (a * b)) ∧
    exec (.mulh n d ra rb) s = .next (toX s 3 n d (high64 (a.signExtend 128 * b.signExtend 128))) ∧
    exec (.mulhu n d ra rb) s = .next (toX s 3 n d (high64 (a.setWidth 128 * b.setWidth 128))) ∧
    exec (.and n d ra rb) s = .next (toX s 1 n d (a &&& b)) ∧
    exec (.or n d ra rb) s = .next (toX s 1 n d (a ||| b)) ∧
    exec (.xor n d ra rb) s = .next (toX s 1 n d (a ^^^ b)) ∧
    exec (.andn n d ra rb) s = .next (toX s 1 n d (a &&& ~~~b)) ∧
    exec (.shl n d ra rb) s = .next (toX s 1 n d (a <<< k)) ∧
    exec (.shr n d ra rb) s = .next (toX s 1 n d (a >>> k)) ∧
    exec (.sra n d ra rb) s = .next (toX s 1 n d (a.sshiftRight k)) ∧
    exec (.rotl n d ra rb) s = .next (toX s 1 n d (a <<< k ||| a >>> (64 - k))) ∧
    exec (.min n d ra rb) s = .next (toX s 1 n d (if a.toInt ≤ b.toInt then a else b)) ∧
    exec (.max n d ra rb) s = .next (toX s 1 n d (if a.toInt ≤ b.toInt then b else a)) ∧
    exec (.minu n d ra rb) s = .next (toX s 1 n d (if a.toNat ≤ b.toNat then a else b)) ∧
    exec (.maxu n d ra rb) s = .next (toX s 1 n d (if a.toNat ≤ b.toNat then b else a)) ∧
    exec (.sel n d ra rb) s = .next (toX s 1 n d (if b ≠ 0 then a else s.core.xr d)) ∧
    exec (.mov n d ra) s = .next (toX s 1 n d a) ∧
    exec (.adda n d ra rb) s = .next (toX s 1 n d (((a + b).setWidth 57).signExtend 64))

/-- 04 R93, division: truncated toward zero; a zero divisor and the overflow of DIV have results and no trap. -/
def Sys2Proof.Claims.ScalarDivision : Prop :=
  ∀ (n : Bool) (d : SDst) (ra rb : SSrc) (s : State),
    let a := s.core.sx ra
    let b := s.core.sx rb
    (b = 0 →
      exec (.div n d ra rb) s = .next (toX s 12 n d (-1)) ∧
      exec (.divu n d ra rb) s = .next (toX s 12 n d (BitVec.allOnes 64)) ∧
      exec (.rem n d ra rb) s = .next (toX s 12 n d a) ∧
      exec (.remu n d ra rb) s = .next (toX s 12 n d a)) ∧
    (a = BitVec.intMin 64 ∧ b = -1 →
      exec (.div n d ra rb) s = .next (toX s 12 n d (BitVec.intMin 64)) ∧
      exec (.rem n d ra rb) s = .next (toX s 12 n d 0)) ∧
    (b ≠ 0 →
      exec (.divu n d ra rb) s = .next (toX s 12 n d (a / b)) ∧
      exec (.remu n d ra rb) s = .next (toX s 12 n d (a % b))) ∧
    (b ≠ 0 ∧ ¬ (a = BitVec.intMin 64 ∧ b = -1) → ∃ q r : Word,
      exec (.div n d ra rb) s = .next (toX s 12 n d q) ∧
      exec (.rem n d ra rb) s = .next (toX s 12 n d r) ∧
      a.toInt = q.toInt * b.toInt + r.toInt ∧ r.toInt.natAbs < b.toInt.natAbs ∧ (r = 0 ∨ (0 ≤ a.toInt ↔ 0 ≤ r.toInt)))

/-- 04 R93, R94: bit counts, extensions and bit fields, bit by bit. -/
def Sys2Proof.Claims.ScalarBits : Prop :=
  ∀ (n : Bool) (d : SDst) (ra rb : SSrc) (w : BitVec 6) (s : State),
    let a := s.core.sx ra
    let b := s.core.sx rb
    let p := (b.setWidth 6).toNat
    let v := min (min (b.extractLsb' 8 7).toNat 64) (64 - p)
    (∃ k ≤ 64, exec (.clz n d ra) s = .next (toX s 1 n d (BitVec.ofNat 64 k)) ∧
      (∀ j < k, a.getMsbD j = false) ∧ (k < 64 → a.getMsbD k = true)) ∧
    (∃ k ≤ 64, exec (.ctz n d ra) s = .next (toX s 1 n d (BitVec.ofNat 64 k)) ∧
      (∀ j < k, a.getLsbD j = false) ∧ (k < 64 → a.getLsbD k = true)) ∧
    exec (.popc n d ra) s = .next (toX s 1 n d (BitVec.ofNat 64 ((List.range 64).countP fun j => a.getLsbD j))) ∧
    exec (.exts n d ra w) s = .next (toX s 1 n d ((a.setWidth (w.toNat + 1)).signExtend 64)) ∧
    exec (.extz n d ra w) s = .next (toX s 1 n d ((a.setWidth (w.toNat + 1)).setWidth 64)) ∧
    (∃ r, exec (.bfx n d ra rb) s = .next (toX s 1 n d r) ∧
      ∀ j < 64, r.getLsbD j = (decide (j < v) && a.getLsbD (p + j))) ∧
    (∃ r, exec (.bfi n d ra rb) s = .next (toX s 1 n d r) ∧
      ∀ j < 64, r.getLsbD j = if p ≤ j ∧ j < p + v then a.getLsbD (j - p) else (s.core.xr d).getLsbD j)

/-- 04 R95, R96: immediates; a shift count outside 0 to 63 raises ILLEGAL at the shift's own slot. -/
def Sys2Proof.Claims.ScalarImmediates : Prop :=
  ∀ (n : Bool) (d : SDst) (ra : SSrc) (imm : BitVec 9) (long : BitVec 15) (s : State),
    let a := s.core.sx ra
    exec (.addi n d ra imm) s = .next (toX s 1 n d (a + imm.signExtend 64)) ∧
    exec (.andi n d ra imm) s = .next (toX s 1 n d (a &&& imm.signExtend 64)) ∧
    exec (.ori n d ra imm) s = .next (toX s 1 n d (a ||| imm.signExtend 64)) ∧
    exec (.xori n d ra imm) s = .next (toX s 1 n d (a ^^^ imm.signExtend 64)) ∧
    exec (.li n d long) s = .next (toX s 1 n d (long.signExtend 64)) ∧
    exec (.lih n d long) s = .next (toX s 1 n d (s.core.xr d * 2 ^ 15 + long.setWidth 64)) ∧
    (0 ≤ imm.toInt ∧ imm.toInt ≤ 63 →
      exec (.shli n d ra imm) s = .next (toX s 1 n d (a <<< imm.toInt.toNat)) ∧
      exec (.shri n d ra imm) s = .next (toX s 1 n d (a >>> imm.toInt.toNat)) ∧
      exec (.srai n d ra imm) s = .next (toX s 1 n d (a.sshiftRight imm.toInt.toNat))) ∧
    (imm.toInt < 0 ∨ 63 < imm.toInt →
      exec (.shli n d ra imm) s = .next (illegal s) ∧
      exec (.shri n d ra imm) s = .next (illegal s) ∧
      exec (.srai n d ra imm) s = .next (illegal s))

/-- 04 R93, R95, R96: scalar arithmetic, division and immediates, one result in flight each; a shift count outside 0 to 63
raises ILLEGAL. -/
def Obligations.ScalarArithmetic : Prop :=
  Sys2Proof.Claims.ScalarResults ∧ Sys2Proof.Claims.ScalarDivision ∧ Sys2Proof.Claims.ScalarImmediates

/-- 04 R98: the conditions of CMP and CMPI; the answer fills all 1024 bits. -/
def Sys2Proof.Claims.ScalarCompares : Prop :=
  ∀ (n : Bool) (d : PReg) (ra rb : SSrc) (imm : BitVec 9) (s : State),
    let a := s.core.sx ra
    let b := s.core.sx rb
    let i := imm.signExtend 64
    let all := fun (c : Prop) [Decidable c] => if c then BitVec.allOnes 1024 else 0#1024
    exec (.cmpEq n d ra rb) s = .next (toP s n d (all (a = b))) ∧
    exec (.cmpNe n d ra rb) s = .next (toP s n d (all (a ≠ b))) ∧
    exec (.cmpLt n d ra rb) s = .next (toP s n d (all (a.toInt < b.toInt))) ∧
    exec (.cmpLe n d ra rb) s = .next (toP s n d (all (a.toInt ≤ b.toInt))) ∧
    exec (.cmpLtn n d ra rb) s = .next (toP s n d (all (a.toNat < b.toNat))) ∧
    exec (.cmpLen n d ra rb) s = .next (toP s n d (all (a.toNat ≤ b.toNat))) ∧
    exec (.cmpiEq n d ra imm) s = .next (toP s n d (all (a = i))) ∧
    exec (.cmpiNe n d ra imm) s = .next (toP s n d (all (a ≠ i))) ∧
    exec (.cmpiLt n d ra imm) s = .next (toP s n d (all (a.toInt < i.toInt))) ∧
    exec (.cmpiLe n d ra imm) s = .next (toP s n d (all (a.toInt ≤ i.toInt))) ∧
    exec (.cmpiLtn n d ra imm) s = .next (toP s n d (all (a.toNat < i.toNat))) ∧
    exec (.cmpiLen n d ra imm) s = .next (toP s n d (all (a.toNat ≤ i.toNat)))

/-- 04 R99: the predicate instructions act on all 1024 bits. -/
def Sys2Proof.Claims.PredicateLogic : Prop :=
  ∀ (n : Bool) (d a b : PReg) (s : State),
    exec (.pand n d a b) s = .next (toP s n d (s.core.arch.p[a] &&& s.core.arch.p[b])) ∧
    exec (.por n d a b) s = .next (toP s n d (s.core.arch.p[a] ||| s.core.arch.p[b])) ∧
    exec (.pxor n d a b) s = .next (toP s n d (s.core.arch.p[a] ^^^ s.core.arch.p[b])) ∧
    exec (.pnot n d a) s = .next (toP s n d (~~~s.core.arch.p[a])) ∧
    exec (.pmov n d a) s = .next (toP s n d s.core.arch.p[a])

/-- 04 R98, R99: compares fill a predicate with their answer; predicate logic acts on all 1024 bits. -/
def Obligations.ScalarPredicates : Prop := Sys2Proof.Claims.ScalarCompares ∧ Sys2Proof.Claims.PredicateLogic

/-- 04 R97: WIDF reads a field of the step identity, the identity or the count of its fields; k above 7 raises
ILLEGAL. The field of bits starts where the narrower fields end. -/
def Sys2Proof.Claims.WorkIdentifierFields : Prop :=
  ∀ (n : Bool) (d : SDst) (k : BitVec 6) (s : State),
    let w := s.core.arch.widths
    let start := (w.take k.toNat).sum
    (k.toNat < 6 → k.toNat < s.core.arch.depth →
      exec (.widf n d k) s =
        .next (toX s 1 n d (BitVec.ofNat 64 (s.core.arch.wid.toNat / 2 ^ start % 2 ^ w.getD k.toNat 0)))) ∧
    (k.toNat < 6 → s.core.arch.depth ≤ k.toNat → exec (.widf n d k) s = .next (toX s 1 n d 0)) ∧
    (k = 6 → exec (.widf n d k) s = .next (toX s 1 n d s.core.arch.wid)) ∧
    (k = 7 → exec (.widf n d k) s = .next (toX s 1 n d (BitVec.ofNat 64 s.core.arch.depth))) ∧
    (8 ≤ k.toNat → exec (.widf n d k) s = .next (illegal s))

/-- 04 R93, R94, R97: bit counts, extensions, bit fields, and the fields of the step identity. -/
def Obligations.ScalarBitFields : Prop := Sys2Proof.Claims.ScalarBits ∧ Sys2Proof.Claims.WorkIdentifierFields

/-! ## Vector slots (05) -/

/-- 05 R121, element arithmetic: each lane of the result from the lanes of the sources, after 2 beats, without a flag.
num reads a lane as its type says. -/
def Sys2Proof.Claims.VectorIntegerElements : Prop :=
  ∀ (n : Bool) (t : ITy) (d : VDst) (va vb : VSrc) (s : State),
    let w := t.width
    let a := lane w (s.core.vx va)
    let b := lane w (s.core.vx vb)
    let old := lane w (s.core.vd d)
    let gives := fun (i : Instr) (f : Nat → BitVec w) => ∃ r, exec i s = .next (toV s 2 n d r 0) ∧ lanesAre w r f
    gives (.vadd n t d va vb) (fun i => a i + b i) ∧
    gives (.vsub n t d va vb) (fun i => a i - b i) ∧
    gives (.vadds n t d va vb) (fun i => BitVec.ofInt w (clamp t (num t (a i) + num t (b i)))) ∧
    gives (.vsubs n t d va vb) (fun i => BitVec.ofInt w (clamp t (num t (a i) - num t (b i)))) ∧
    gives (.vmul n t d va vb) (fun i => a i * b i) ∧
    gives (.vmulh n t d va vb) (fun i => (BitVec.ofInt (w + w) (num t (a i) * num t (b i))).extractLsb' w w) ∧
    gives (.vmac n t d va vb) (fun i => old i + a i * b i) ∧
    gives (.vmin n t d va vb) (fun i => if num t (a i) ≤ num t (b i) then a i else b i) ∧
    gives (.vmax n t d va vb) (fun i => if num t (a i) ≤ num t (b i) then b i else a i) ∧
    gives (.vabs n t d va) (fun i => if num t (a i) < 0 then -(a i) else a i) ∧
    gives (.vneg n t d va) (fun i => -(a i))

/-- 05 R121, element bits: logic, shifts by the count modulo the width, counts, and selection under a predicate. -/
def Sys2Proof.Claims.VectorBitElements : Prop :=
  ∀ (n : Bool) (t : ITy) (d : VDst) (va vb : VSrc) (p : PReg) (s : State),
    let w := t.width
    let a := lane w (s.core.vx va)
    let b := lane w (s.core.vx vb)
    let gives := fun (i : Instr) (f : Nat → BitVec w) => ∃ r, exec i s = .next (toV s 2 n d r 0) ∧ lanesAre w r f
    gives (.vand n t d va vb) (fun i => a i &&& b i) ∧
    gives (.vor n t d va vb) (fun i => a i ||| b i) ∧
    gives (.vxor n t d va vb) (fun i => a i ^^^ b i) ∧
    gives (.vandn n t d va vb) (fun i => a i &&& ~~~(b i)) ∧
    gives (.vshl n t d va vb) (fun i => a i <<< ((b i).toNat % w)) ∧
    gives (.vshr n t d va vb) (fun i => a i >>> ((b i).toNat % w)) ∧
    gives (.vsra n t d va vb) (fun i => (a i).sshiftRight ((b i).toNat % w)) ∧
    gives (.vsel n t d va p) (fun i => if s.core.arch.p[p].getLsbD i then a i else lane w (s.core.vd d) i) ∧
    gives (.vpopc n t d va) (fun i => BitVec.ofNat w ((List.range w).countP fun j => (a i).getLsbD j)) ∧
    ∃ r, exec (.vclz n t d va) s = .next (toV s 2 n d r 0) ∧ ∀ i < 4096 / w, ∃ k ≤ w,
      lane w r i = BitVec.ofNat w k ∧ (∀ j < k, (a i).getMsbD j = false) ∧ (k < w → (a i).getMsbD k = true)

/-- 05 R121: the integer element instructions. -/
def Obligations.VectorElements : Prop :=
  Sys2Proof.Claims.VectorIntegerElements ∧ Sys2Proof.Claims.VectorBitElements

/-- 05 R121, R119: vector compares; a predicate's bits past the last element are cleared. -/
def Sys2Proof.Claims.VectorCompares : Prop :=
  ∀ (n : Bool) (t : ITy) (d : PReg) (va vb : VSrc) (s : State),
    let w := t.width
    let a := fun i => num t (lane w (s.core.vx va) i)
    let b := fun i => num t (lane w (s.core.vx vb) i)
    let gives := fun (i : Instr) (f : Nat → Prop) => ∃ r, exec i s = .next (toVP s 2 n d r 0) ∧ bitsAre w r f
    gives (.vcmpEq n t d va vb) (fun i => a i = b i) ∧
    gives (.vcmpNe n t d va vb) (fun i => a i ≠ b i) ∧
    gives (.vcmpLt n t d va vb) (fun i => a i < b i) ∧
    gives (.vcmpLe n t d va vb) (fun i => a i ≤ b i)

/-- 05 R122, R123, R127; 02 R54: products of twice the width into an interleaved pair, dot products into 32-bit lanes,
and packing; each form the spec refuses raises ILLEGAL. -/
def Obligations.VectorWideElements : Prop :=
  ∀ (n : Bool) (t : ITy) (d : VDst) (va vb : VSrc) (s : State),
    let w := t.width
    let a := lane w (s.core.vx va)
    let b := lane w (s.core.vx vb)
    let old := fun i => (lane 32 (s.core.vd d) i).toInt
    let total := fun i => old i + ((List.range (32 / w)).map fun j =>
      num t (a (i * (32 / w) + j)) * num t (b (i * (32 / w) + j))).sum
    (w ≠ 32 ∧ d.aligned 2 = true → ∃ r q, exec (.vmulw n t d va vb) s = .next (toV2 s 2 n d r q 0) ∧
      ∀ i < 4096 / w, lane (2 * w) (if i % 2 = 0 then r else q) (i / 2) =
        BitVec.ofInt (2 * w) (num t (a i) * num t (b i))) ∧
    (w = 32 ∨ d.aligned 2 = false → exec (.vmulw n t d va vb) s = .next (illegal s)) ∧
    (w < 16 → ∃ r q,
      exec (.vdot n t d va vb) s = .next (toV s 2 n d r 0) ∧ lanesAre 32 r (fun i => BitVec.ofInt 32 (total i)) ∧
      exec (.vdotSat n t d va vb) s = .next (toV s 2 n d q 0) ∧
      lanesAre 32 q (fun i => BitVec.ofInt 32 (clamp .i32 (total i)))) ∧
    (16 ≤ w → exec (.vdot n t d va vb) s = .next (illegal s) ∧ exec (.vdotSat n t d va vb) s = .next (illegal s)) ∧
    (w ≠ 32 → ∃ r, exec (.vpack n t d va vb) s = .next (toV s 3 n d r 0) ∧
      lanesAre w r (fun i => BitVec.ofInt w (clamp t (
        if i < 4096 / w / 2 then (lane (2 * w) (s.core.vx va) i).toInt
        else (lane (2 * w) (s.core.vx vb) (i - 4096 / w / 2)).toInt)))) ∧
    (w = 32 → exec (.vpack n t d va vb) s = .next (illegal s))

/-- 05 R129: movement between the elements of registers, after 3 beats and without a flag. x is lane 0 of b. -/
def Obligations.VectorMovement : Prop :=
  ∀ (n : Bool) (t : ITy) (d : VDst) (va vb : VSrc) (p : PReg) (s : State),
    let w := t.width
    let m := 4096 / w
    let a := lane w (s.core.vx va)
    let b := lane w (s.core.vx vb)
    let old := lane w (s.core.vd d)
    let x := (lane 32 (s.core.vx vb) 0).toNat
    let z := (lane 32 (s.core.vx vb) 0).toInt
    let bit := fun i => s.core.arch.p[p].getLsbD i
    let below := fun i => (List.range i).countP bit
    let gives := fun (i : Instr) (f : Nat → BitVec w) => ∃ r, exec i s = .next (toV s 3 n d r 0) ∧ lanesAre w r f
    exec (.vmov n t d va) s = .next (toV s 3 n d (s.core.vx va) 0) ∧
    gives (.vbcast n t d va vb) (fun _ => if x < m then a x else 0) ∧
    gives (.vext n t d va vb) (fun i => if i = 0 ∧ x < m then a x else 0) ∧
    gives (.vins n t d va vb) (fun i => if i = x then a 0 else old i) ∧
    gives (.vperm n t d va vb) (fun i => if (b i).toNat < m then a (b i).toNat else 0) ∧
    gives (.vslide n t d va vb) (fun i => if 0 ≤ i + z ∧ i + z < m then a (i + z).toNat else 0) ∧
    gives (.vexpnd n t d va p) (fun i => if bit i then a (below i) else old i) ∧
    gives (.viota n t d p) (fun i => BitVec.ofNat w (below i)) ∧
    (∃ r, exec (.vcompr n t d va p) s = .next (toV s 3 n d r 0) ∧
      (∀ i < m, bit i = true → lane w r (below i) = a i) ∧ (∀ i < m, below m ≤ i → lane w r i = 0)) ∧
    (d.aligned 2 = true → ∃ r q, exec (.vzip n t d va vb) s = .next (toV2 s 3 n d r q 0) ∧
      ∀ i < 2 * m, lane w (if i < m then r else q) (i % m) = if i % 2 = 0 then a (i / 2) else b (i / 2)) ∧
    (d.aligned 2 = true → ∃ r q, exec (.vunzip n t d va vb) s = .next (toV2 s 3 n d r q 0) ∧
      (∀ i < m, lane w r i = if 2 * i < m then a (2 * i) else b (2 * i - m)) ∧
      (∀ i < m, lane w q i = if 2 * i + 1 < m then a (2 * i + 1) else b (2 * i + 1 - m))) ∧
    (d.aligned 2 = false → exec (.vzip n t d va vb) s = .next (illegal s) ∧
      exec (.vunzip n t d va vb) s = .next (illegal s))

/-- 05 R135: the instructions that make and count predicates. -/
def Sys2Proof.Claims.PredicateCounts : Prop :=
  ∀ (n : Bool) (p q : PReg) (d : VDst) (k : BitVec 12) (s : State),
    let bit := fun i => s.core.arch.p[q].getLsbD i
    (k.toNat ≤ 1024 → ∃ r, exec (.pset n p k) s = .next (toVP s 1 n p r 0) ∧
      ∀ i < 1024, r.getLsbD i = decide (i < k.toNat)) ∧
    (1024 < k.toNat → exec (.pset n p k) s = .next (illegal s)) ∧
    exec (.pcnt n d q) s = .next (toV s 1 n d (BitVec.ofNat 4096 ((List.range 1024).countP bit)) 0) ∧
    (∃ r, exec (.pfirst n p q) s = .next (toVP s 1 n p r 0) ∧
      ∀ i < 1024, r.getLsbD i = true ↔ bit i = true ∧ ∀ j < i, bit j = false)

/-- 05 R119, R121, R135: vector compares and the instructions that make and count predicates. -/
def Obligations.VectorPredicates : Prop := Sys2Proof.Claims.VectorCompares ∧ Sys2Proof.Claims.PredicateCounts

/-! ## Vector float slots, conversions, reductions and the F-unit (02, 05) -/

/-- 05 R124, element float arithmetic: each lane is the element function of the same lanes, and the flags are the
union of the lanes' flags, after 4 beats; the 8-bit types raise ILLEGAL. What the element functions answer is stated
below. -/
def Sys2Proof.Claims.FloatElements : Prop :=
  ∀ (n : Bool) (t : FTy) (d : VDst) (va vb : VSrc) (s : State),
    let w := t.width
    let c := FCtl.ofWord s.core.arch.fpctl
    let f := t.fmt
    let a := fun i => (lane w (s.core.vx va) i).toNat
    let b := fun i => (lane w (s.core.vx vb) i).toNat
    let old := fun i => (lane w (s.core.vd d) i).toNat
    let gives := fun (i : Instr) (g : Nat → Nat × Flags) =>
      (t.arith = true → ∃ r fl, exec i s = .next (toV s 4 n d r fl) ∧ flaggedLanes w (4096 / w) r fl g) ∧
      (t.arith = false → exec i s = .next (illegal s))
    gives (.fadd n t d va vb) (fun i => f.addF c (a i) (b i)) ∧
    gives (.fsub n t d va vb) (fun i => f.subF c (a i) (b i)) ∧
    gives (.fmul n t d va vb) (fun i => f.mulF c (a i) (b i)) ∧
    gives (.fma n t d va vb) (fun i => f.fmaF c false false (a i) (b i) (old i)) ∧
    gives (.fms n t d va vb) (fun i => f.fmaF c false true (a i) (b i) (old i)) ∧
    gives (.fnma n t d va vb) (fun i => f.fmaF c true false (a i) (b i) (old i)) ∧
    gives (.fmin n t d va vb) (fun i => f.minmaxF c false (a i) (b i)) ∧
    gives (.fmax n t d va vb) (fun i => f.minmaxF c true (a i) (b i)) ∧
    gives (.fabs n t d va) (fun i => f.signF c false (a i)) ∧
    gives (.fneg n t d va) (fun i => f.signF c true (a i)) ∧
    gives (.frint n t d va) (fun i => f.rintF c (a i))

/-- 05 R125, R119: float compares, on every float type; the flags are the union of the elements' flags. -/
def Sys2Proof.Claims.FloatCompares : Prop :=
  ∀ (n : Bool) (t : FTy) (d : PReg) (va vb : VSrc) (s : State),
    let w := t.width
    let c := FCtl.ofWord s.core.arch.fpctl
    let a := fun i => FVal.read t.fmt c.ftz (lane w (s.core.vx va) i).toNat
    let b := fun i => FVal.read t.fmt c.ftz (lane w (s.core.vx vb) i).toNat
    let un := fun i => (a i).isNan = true ∨ (b i).isNan = true
    let quiet := fun i => a i = .nan true ∨ b i = .nan true
    let gives := fun (i : Instr) (g : Nat → Prop) (nv : Nat → Prop) => ∃ r fl,
      exec i s = .next (toVP s 4 n d r fl) ∧ bitsAre w r g ∧ ((∃ j < 4096 / w, nv j) → fl = fNV) ∧
      ((¬ ∃ j < 4096 / w, nv j) → fl = 0)
    gives (.fcmpEq n t d va vb) (fun i => ¬ un i ∧ FVal.ord false (a i) (b i) = 0) quiet ∧
    gives (.fcmpNe n t d va vb) (fun i => un i ∨ FVal.ord false (a i) (b i) ≠ 0) quiet ∧
    gives (.fcmpLt n t d va vb) (fun i => ¬ un i ∧ FVal.ord false (a i) (b i) < 0) un ∧
    gives (.fcmpLe n t d va vb) (fun i => ¬ un i ∧ FVal.ord false (a i) (b i) ≤ 0) un ∧
    gives (.fcmpUn n t d va vb) un quiet

/-- 05 R124, R125: float arithmetic and compares, element by element. -/
def Obligations.FloatArithmetic : Prop := Sys2Proof.Claims.FloatElements ∧ Sys2Proof.Claims.FloatCompares

/-- 02 R35, R36, R49; 05 R125: what the element functions answer for NaNs, infinities and zeros, whatever the format
and the rounding. x and y are the operands as read. -/
def Sys2Proof.Claims.FloatSpecialOperands : Prop :=
  ∀ (f : Fmt) (c : FCtl) (a b : Nat),
    let x := FVal.read f c.ftz a
    let y := FVal.read f c.ftz b
    let nv := if x = .nan true ∨ y = .nan true then fNV else 0
    (x.isNan = true ∨ y.isNan = true →
      f.addF c a b = (f.nanEnc, nv) ∧ f.subF c a b = (f.nanEnc, nv) ∧ f.mulF c a b = (f.nanEnc, nv)) ∧
    (∀ p q, x = .inf p → y = .inf q →
      (p ≠ q → f.addF c a b = (f.nanEnc, fNV)) ∧ (p = q → f.subF c a b = (f.nanEnc, fNV))) ∧
    (∀ p q e, (x = .inf p ∧ y = .fin q 0 e) ∨ (x = .fin q 0 e ∧ y = .inf p) → f.mulF c a b = (f.nanEnc, fNV)) ∧
    (∀ p q e g, x = .fin p 0 e → y = .fin q 0 g →
      f.addF c a b = (f.signed (if p = q then p else decide (c.rm = 3)) 0, 0) ∧
      f.mulF c a b = (f.signed (xor p q) 0, 0)) ∧
    (∀ p, x = .inf p → y.isNan = false →
      (y ≠ .inf (!p) → f.addF c a b = (f.signed p f.infEnc, 0)) ∧ (y ≠ .inf p → f.subF c a b = (f.signed p f.infEnc, 0))) ∧
    (∀ p q m e, x = .fin p m e → y = .inf q →
      f.addF c a b = (f.signed q f.infEnc, 0) ∧ f.subF c a b = (f.signed (!q) f.infEnc, 0)) ∧
    (∀ p q m e, m ≠ 0 → (x = .inf p ∧ (y = .inf q ∨ y = .fin q m e)) ∨ (x = .fin p m e ∧ y = .inf q) →
      f.mulF c a b = (f.signed (xor p q) f.infEnc, 0)) ∧
    (∀ p q e l g, l ≠ 0 → x = .fin p 0 e → y = .fin q l g → f.addF c a b = f.round c.rm c.ftz q l g ∧
      f.subF c a b = f.round c.rm c.ftz (!q) l g ∧ f.mulF c a b = (f.signed (xor p q) 0, 0)) ∧
    (∀ p q m e g, m ≠ 0 → x = .fin p m e → y = .fin q 0 g → f.addF c a b = f.round c.rm c.ftz p m e ∧
      f.subF c a b = f.round c.rm c.ftz p m e ∧ f.mulF c a b = (f.signed (xor p q) 0, 0)) ∧
    (∀ p q e g, x = .fin p 0 e → y = .fin q 0 g →
      f.subF c a b = (f.signed (if p = !q then p else decide (c.rm = 3)) 0, 0)) ∧
    (x.isNan = true ∧ y.isNan = true → ∀ m, f.minmaxF c m a b = (f.nanEnc, nv)) ∧
    (x = .nan true → (∀ k, f.signF c k a = (f.nanEnc, fNV)) ∧ f.rintF c a = (f.nanEnc, fNV)) ∧
    (x = .nan false → (∀ k, f.signF c k a = (f.nanEnc, 0)) ∧ f.rintF c a = (f.nanEnc, 0))

/-- 02 R36, R50; 05 R124, R125: minimum, maximum, sign and rounding to an integer of operands that are no NaN. A NaN beside a
number gives the number; -0 is below +0. FABS clears the sign of its operand as read and FNEG inverts it, without a flag.
FRINT leaves an infinity, rounds a finite value by the mode and keeps its sign; nx tells whether it changed. -/
def Sys2Proof.Claims.OrdinaryOperands : Prop :=
  ∀ (t : FTy) (c : FCtl) (a b : Nat), t.arith = true →
    let f := t.fmt
    let x := FVal.read f c.ftz a
    let y := FVal.read f c.ftz b
    let u := flushed f c.ftz a
    let v := flushed f c.ftz b
    let nv := if x = .nan true ∨ y = .nan true then fNV else 0
    (x.isNan = false → y.isNan = true → ∀ k, f.minmaxF c k a b = (u, nv)) ∧
    (x.isNan = true → y.isNan = false → ∀ k, f.minmaxF c k a b = (v, nv)) ∧
    (x.isNan = false → y.isNan = false →
      f.minmaxF c false a b = (if f.key u ≤ f.key v then u else v, 0) ∧
      f.minmaxF c true a b = (if f.key v ≤ f.key u then u else v, 0)) ∧
    (x.isNan = false → f.signF c false a = (u % f.signBit, 0) ∧
      f.signF c true a = (if u < f.signBit then u + f.signBit else u - f.signBit, 0)) ∧
    (∀ n, x = .inf n → f.rintF c a = (u, 0)) ∧
    (∀ n m e, x = .fin n m e → c.rm < 4 → ∃ r : Int, roundsTo c.rm n m e r ∧
      (f.rintF c a).2 = (if exactly n m e r then 0 else fNX) ∧ (r = 0 → (f.rintF c a).1 = f.signed n 0) ∧
      (r ≠ 0 → ∃ k h, FVal.dec f (f.rintF c a).1 = .fin n k h ∧ exactly n k h r))

/-- 02 R35, R36, R49; 05 R124, R125: the fused forms with a NaN, an infinity or a zero among their operands. Each term is
taken with the sign that it has in the sum. -/
def Sys2Proof.Claims.FusedSpecialOperands : Prop :=
  ∀ (f : Fmt) (c : FCtl) (i j : Bool) (a b d : Nat),
    let x := FVal.read f c.ftz a
    let y := FVal.read f c.ftz b
    let z := FVal.read f c.ftz d
    let res := f.fmaF c i j a b d
    let zeroInf := ∃ p q e, (x = .inf p ∧ y = .fin q 0 e) ∨ (x = .fin q 0 e ∧ y = .inf p)
    let infinite := fun (s : Bool) => ∃ p q, s = xor i (xor p q) ∧
      ((x = .inf p ∧ (y = .inf q ∨ ∃ m e, m ≠ 0 ∧ y = .fin q m e)) ∨ (y = .inf q ∧ ∃ m e, m ≠ 0 ∧ x = .fin p m e))
    (zeroInf → res = (f.nanEnc, fNV)) ∧
    (¬ zeroInf → x.isNan = true ∨ y.isNan = true ∨ z.isNan = true →
      res = (f.nanEnc, if x = .nan true ∨ y = .nan true ∨ z = .nan true then fNV else 0)) ∧
    (∀ s, infinite s → z.isNan = false →
      (z = .inf (xor j !s) → res = (f.nanEnc, fNV)) ∧ (z ≠ .inf (xor j !s) → res = (f.signed s f.infEnc, 0))) ∧
    ∀ p q m l e g, x = .fin p m e → y = .fin q l g →
      let s := xor i (xor p q)
      (∀ n, z = .inf n → res = (f.signed (xor j n) f.infEnc, 0)) ∧
      ∀ n o h, z = .fin n o h →
        (m * l = 0 → o = 0 → res = (f.signed (if s = xor j n then s else decide (c.rm = 3)) 0, 0)) ∧
        (m * l = 0 → o ≠ 0 → res = f.round c.rm c.ftz (xor j n) o h) ∧
        (m * l ≠ 0 → o = 0 → res = f.round c.rm c.ftz s (m * l) (e + g))

/-- 02 R34, R49, R56: rounding the exact value of an encoding gives the encoding back, without a flag, in every mode.
Operands that are finite and not zero; a format of the spec. -/
def Sys2Proof.Claims.ExactRounding : Prop :=
  ∀ (t : FTy) (rm : Nat) (x m : Nat) (neg : Bool) (e : Int), x < 2 ^ t.fmt.width →
    FVal.dec t.fmt x = .fin neg m e → m ≠ 0 → t.fmt.round rm false neg m e = (x, 0)

/-- 02 R49; 05 R124: sums, differences, products and fused products of finite operands that are not zero: the exact result,
whichever way it is written as a sign, a whole number and a power of two, rounded once, with the flags of that rounding; an
exact zero sum has the sign that the rounding mode gives it. -/
def Sys2Proof.Claims.FiniteResults : Prop :=
  ∀ (f : Fmt) (c : FCtl) (a b d : Nat) (p q r : Bool) (m l o : Nat) (e g h : Int),
    FVal.read f c.ftz a = .fin p m e → FVal.read f c.ftz b = .fin q l g → FVal.read f c.ftz d = .fin r o h →
    m ≠ 0 → l ≠ 0 → o ≠ 0 →
    let exact := fun (v : Int) (e0 : Int) (res : Nat × Flags) =>
      (v = 0 → res = (f.signed (decide (c.rm = 3)) 0, 0)) ∧
      ∀ neg k j, k ≠ 0 → e0 ≤ j → at2 neg k j e0 = v → res = f.round c.rm c.ftz neg k j
    f.mulF c a b = f.round c.rm c.ftz (xor p q) (m * l) (e + g) ∧
    (∀ e0, e0 ≤ e → e0 ≤ g →
      exact (at2 p m e e0 + at2 q l g e0) e0 (f.addF c a b) ∧ exact (at2 p m e e0 - at2 q l g e0) e0 (f.subF c a b)) ∧
    ∀ e0, e0 ≤ e + g → e0 ≤ h →
      let x := at2 (xor p q) (m * l) (e + g) e0
      let y := at2 r o h e0
      exact (x + y) e0 (f.fmaF c false false a b d) ∧ exact (x - y) e0 (f.fmaF c false true a b d) ∧
      exact (y - x) e0 (f.fmaF c true false a b d)

/-- 02 R34, R49, R56; 05 R124: encodings are exact, and arithmetic on finite operands rounds the exact result once. -/
def Obligations.FloatRoundsExactValues : Prop := Sys2Proof.Claims.ExactRounding ∧ Sys2Proof.Claims.FiniteResults

/-- 02 R49, R52, R56: what a rounding gives, in a format of the spec. Without overflow it is the encoding that the mode
names among all finite ones: the nearest, the even one of two; the next toward zero, toward plus or toward minus infinity;
and nx tells whether it differs from the exact value. With overflow the value is beyond every finite encoding, of and nx are
set, and infinity or the largest finite encoding is the result, the latter in e4m3 always. -/
def Obligations.FloatRoundsOnce : Prop :=
  ∀ (t : FTy) (rm : Nat) (neg : Bool) (m : Nat) (e : Int), rm < 4 → m ≠ 0 →
    let f := t.fmt
    let z := f.round rm false neg m e
    let finite := fun (n : Bool) (k : Nat) (h : Int) => ∃ y < 2 ^ f.width, FVal.dec f y = .fin n k h
    (z.2.getLsbD 2 = false → ∃ n k h, FVal.dec f z.1 = .fin n k h ∧ ∀ n' k' h' e0, finite n' k' h' →
      e0 ≤ e → e0 ≤ h → e0 ≤ h' →
      let v := at2 neg m e e0
      let x := at2 n k h e0
      let y := at2 n' k' h' e0
      (z.2.getLsbD 4 = true ↔ x ≠ v) ∧
      (rm = 0 → (v - x).natAbs ≤ (v - y).natAbs ∧ ((v - x).natAbs = (v - y).natAbs → y ≠ x → z.1 % 2 = 0)) ∧
      (rm = 1 → x.natAbs ≤ v.natAbs ∧ 0 ≤ x * v ∧ (y.natAbs ≤ v.natAbs → y.natAbs ≤ x.natAbs)) ∧
      (rm = 2 → v ≤ x ∧ (v ≤ y → x ≤ y)) ∧ (rm = 3 → x ≤ v ∧ (y ≤ v → y ≤ x))) ∧
    (z.2.getLsbD 2 = true → z.2 = fOF ||| fNX ∧
      z.1 = f.signed neg (if t ≠ .e4m3 ∧ (rm = 0 ∨ (rm = 2 ∧ neg = false) ∨ (rm = 3 ∧ neg = true)) then f.infEnc else f.maxFin) ∧
      ∀ n' k' h' e0, finite n' k' h' → e0 ≤ e → e0 ≤ h' → (at2 n' k' h' e0).natAbs < (at2 neg m e e0).natAbs)

/-- 02 R52, R53; 05 R126: the conversions, element by element. A float source is rounded once to a float destination; a NaN
gives its canonical NaN, an infinity an infinity, in e4m3 the largest value with overflow. To an integer, the value is rounded
by the mode and saturates with nv alone, a NaN gives 0 with nv. An integer source is rounded once, or saturates in an integer
destination, without a flag. -/
def Sys2Proof.Claims.ConvertedElements : Prop :=
  ∀ (c : FCtl) (fs fd : FTy) (is it : ITy) (a : Nat),
    let s := fs.fmt
    let d := fd.fmt
    let v := FVal.read s c.ftz a
    let x := is.val a
    let out := fun (t : ITy) (x : Int) => (BitVec.ofInt t.width (clamp t x)).toNat
    (∀ sg, v = .nan sg → cvt (.f fs) (.f fd) c a = (d.nanEnc, if sg then fNV else 0) ∧ cvt (.f fs) (.i it) c a = (0, fNV)) ∧
    (∀ n, v = .inf n →
      cvt (.f fs) (.f fd) c a = (if fd = .e4m3 then (d.signed n d.maxFin, fOF ||| fNX) else (d.signed n d.infEnc, 0)) ∧
      cvt (.f fs) (.i it) c a = (out it (if n then -(2 ^ 64) else 2 ^ 64), fNV)) ∧
    (∀ n m e, v = .fin n m e →
      cvt (.f fs) (.f fd) c a = (if m = 0 then (d.signed n 0, 0) else d.round c.rm c.ftz n m e) ∧
      (c.rm < 4 → ∃ r : Int, roundsTo c.rm n m e r ∧ cvt (.f fs) (.i it) c a = (out it r,
        if clamp it r ≠ r then fNV else if exactly n m e r then 0 else fNX))) ∧
    cvt (.i is) (.f fd) c a = (if x = 0 then (0, 0) else d.round c.rm c.ftz (decide (x < 0)) x.natAbs 0) ∧
    cvt (.i is) (.i it) c a = (out it x, 0)

/-- 05 R128: VQNT on one element: the exact product rounded to an integer, plus the zero point, saturated. -/
def Sys2Proof.Claims.QuantisedElements : Prop :=
  ∀ (c : FCtl) (t : ITy) (x s : Nat) (z : Int),
    let p := (FVal.mul (FVal.read FTy.f32.fmt c.ftz x) (FVal.read FTy.f32.fmt c.ftz s)).1
    let out := fun (x : Int) => (BitVec.ofInt t.width (clamp t x)).toNat
    (p.isNan = true → quantF t c x s z = (out z, fNV)) ∧
    (∀ n, p = .inf n → quantF t c x s z = (out (if n then -(2 ^ 64) else 2 ^ 64), fNV)) ∧
    (∀ n m e, p = .fin n m e → c.rm < 4 → ∃ r : Int, roundsTo c.rm n m e r ∧ quantF t c x s z = (out (r + z),
      (if exactly n m e r then 0 else fNX) ||| (if clamp t (r + z) ≠ r + z then fNV else 0)))

/-- 05 R115, R126: the width relations of VCVT and VCVTW, and the alignment of their groups. -/
def Sys2Proof.Claims.ConversionForms : Prop :=
  ∀ (t src : ElTy) (i : Fin 48) (j : Fin 8),
    let fits := fun (first : Nat) => ∃ k, (k = 1 ∨ k = 2 ∨ k = 4 ∨ k = 8) ∧ src.width = k * t.width ∧ first % k = 0
    let widens := fun (first : Nat) => ∃ k, (k = 2 ∨ k = 4) ∧ t.width = k * src.width ∧ first % k = 0
    (vcvtOk t src (.v i) = true ↔ fits i) ∧ (vcvtOk t src (.w j) = true ↔ fits j) ∧
    (∀ b ∈ [VSrc.b2, .b3, .b4, .b5, .b6, .b7], vcvtOk t src b = true ↔ src.width = t.width) ∧
    (vcvtwOk t src (.v i) = true ↔ widens i) ∧ (vcvtwOk t src (.w j) = true ↔ widens j)

/-- 05 R126, R128: conversions and quantisation through interleaved register groups; every other width relation and a
misaligned group raise ILLEGAL. Element i of a group of k stands in register first + (i mod k) at position i div k. -/
def Sys2Proof.Claims.ConversionSlots : Prop :=
  ∀ (n : Bool) (t src : ElTy) (ti : ITy) (d : VDst) (va vb : VSrc) (s : State),
    let wd := t.width
    let ws := src.width
    let c := FCtl.ofWord s.core.arch.fpctl
    let grp := fun (w k i : Nat) => (lane w (s.core.vx (VSrc.nth va (i % k))) (i / k)).toNat
    (vcvtOk t src va = true → ∃ r fl, exec (.vcvt n t d va src) s = .next (toV s 3 n d r fl) ∧
      flaggedLanes wd (4096 / wd) r fl (fun i => cvt src t c (grp ws (ws / wd) i))) ∧
    (vcvtOk t src va = false → exec (.vcvt n t d va src) s = .next (illegal s)) ∧
    (vcvtwOk t src d = true → ∃ (rs : Nat → VWord) (fl : Flags),
      exec (.vcvtw n t d va src) s = .next (flying s 3 n (.v ((List.range (wd / ws)).map fun j => (VDst.nth d j, rs j)))
        (some (2 + s.core.iss.unit % 3, rs 0)) fl) ∧
      (∀ i < 4096 / ws, lane wd (rs (i % (wd / ws))) (i / (wd / ws)) =
        BitVec.ofNat wd (cvt src t c (lane ws (s.core.vx va) i).toNat).1) ∧
      ∀ k < 5, fl.getLsbD k = true ↔ ∃ i < 4096 / ws, (cvt src t c (lane ws (s.core.vx va) i).toNat).2.getLsbD k = true) ∧
    (vcvtwOk t src d = false → exec (.vcvtw n t d va src) s = .next (illegal s)) ∧
    (va.group (32 / ti.width) = true → ∃ r fl, exec (.vqnt n ti d va vb) s = .next (toV s 3 n d r fl) ∧
      flaggedLanes ti.width (4096 / ti.width) r fl (fun i => quantF ti c (grp 32 (32 / ti.width) i)
        (lane 32 (s.core.vx vb) 0).toNat (lane 32 (s.core.vx vb) 1).toInt)) ∧
    (va.group (32 / ti.width) = false → exec (.vqnt n ti d va vb) s = .next (illegal s))

/-- 02 R52, R53; 05 R115, R126, R128: conversions and quantisation. -/
def Obligations.VectorConversions : Prop :=
  Sys2Proof.Claims.ConversionSlots ∧ Sys2Proof.Claims.ConversionForms ∧ Sys2Proof.Claims.ConvertedElements ∧
    Sys2Proof.Claims.QuantisedElements

/-- 05 R136, R137: the F-unit's functions, element by element, after 12 beats into B5; a type but bf16 and f32, and a
slot fewer than 4 beats after the last F slot, raise ILLEGAL. -/
def Obligations.SpecialFunctions : Prop :=
  ∀ (n : Bool) (t : FTy) (d : VDst) (va : VSrc) (s : State),
    let w := t.width
    let c := FCtl.ofWord s.core.arch.fpctl
    let gives := fun (i : Instr) (g : SFun) =>
      (t.special = true ∧ 3 ≤ s.core.fspace → ∃ r fl,
        exec i s = .next (flying { s with core := { s.core with fspace := 0 } } 12 n (.v [(d, r)]) (some (5, r)) fl) ∧
        flaggedLanes w (4096 / w) r fl (fun i => g.eval t.fmt c.ftz (lane w (s.core.vx va) i).toNat)) ∧
      (¬ (t.special = true ∧ 3 ≤ s.core.fspace) → exec i s = .next (illegal s))
    gives (.exp2 n t d va) .exp2 ∧ gives (.log2 n t d va) .log2 ∧ gives (.rcp n t d va) .rcp ∧
    gives (.rsqrt n t d va) .rsqrt ∧ gives (.sqrt n t d va) .sqrt ∧ gives (.sin n t d va) .sin ∧
    gives (.cos n t d va) .cos ∧ gives (.tanh n t d va) .tanh ∧ gives (.erf n t d va) .erf

/-- 02 R55: the special inputs of the functions. -/
def Sys2Proof.Claims.SpecialFunctionPoints : Prop :=
  ∀ (g : SFun) (t : FTy) (ftz : Bool) (x : Nat), t.special = true →
    let v := FVal.read t.fmt ftz x
    let one := t.fmt.bias * 2 ^ t.fmt.fbits
    (v = .nan true → g.eval t.fmt ftz x = (t.fmt.nanEnc, fNV)) ∧
    (v = .nan false → g.eval t.fmt ftz x = (t.fmt.nanEnc, 0)) ∧
    (∀ e p, v = .fin p 0 e →
      SFun.rcp.eval t.fmt ftz x = (t.fmt.signed p t.fmt.infEnc, fDZ) ∧
      SFun.rsqrt.eval t.fmt ftz x = (t.fmt.signed p t.fmt.infEnc, fDZ) ∧
      SFun.log2.eval t.fmt ftz x = (t.fmt.signed true t.fmt.infEnc, fDZ) ∧
      SFun.sqrt.eval t.fmt ftz x = (t.fmt.signed p 0, 0) ∧ SFun.sin.eval t.fmt ftz x = (t.fmt.signed p 0, 0) ∧
      SFun.tanh.eval t.fmt ftz x = (t.fmt.signed p 0, 0) ∧ SFun.erf.eval t.fmt ftz x = (t.fmt.signed p 0, 0) ∧
      SFun.cos.eval t.fmt ftz x = (one, 0)) ∧
    SFun.log2.eval t.fmt ftz one = (0, 0) ∧
    (∀ m e, v = .fin true m e → m ≠ 0 →
      SFun.log2.eval t.fmt ftz x = (t.fmt.nanEnc, fNV) ∧ SFun.sqrt.eval t.fmt ftz x = (t.fmt.nanEnc, fNV) ∧
      SFun.rsqrt.eval t.fmt ftz x = (t.fmt.nanEnc, fNV)) ∧
    (∀ p, v = .inf p →
      SFun.sin.eval t.fmt ftz x = (t.fmt.nanEnc, fNV) ∧ SFun.cos.eval t.fmt ftz x = (t.fmt.nanEnc, fNV) ∧
      SFun.rcp.eval t.fmt ftz x = (t.fmt.signed p 0, 0) ∧
      SFun.exp2.eval t.fmt ftz x = (if p then 0 else t.fmt.infEnc, 0) ∧
      SFun.log2.eval t.fmt ftz x = (if p then (t.fmt.nanEnc, fNV) else (t.fmt.infEnc, 0)) ∧
      SFun.sqrt.eval t.fmt ftz x = (if p then (t.fmt.nanEnc, fNV) else (t.fmt.infEnc, 0)) ∧
      SFun.rsqrt.eval t.fmt ftz x = (if p then (t.fmt.nanEnc, fNV) else (0, 0)) ∧
      SFun.tanh.eval t.fmt ftz x = (t.fmt.signed p one, 0) ∧ SFun.erf.eval t.fmt ftz x = (t.fmt.signed p one, 0))

/-- 02 R55: the reciprocals and roots of powers of two that are exact in f32, without a flag; x is the biased exponent. -/
def Sys2Proof.Claims.ExactPowers : Prop :=
  ∀ (ftz neg : Bool) (x : Nat), 1 ≤ x → x ≤ 253 →
    let f := FTy.f32.fmt
    SFun.rcp.eval f ftz (f.signed neg (x * 2 ^ 23)) = (f.signed neg ((254 - x) * 2 ^ 23), 0) ∧
    (x % 2 = 1 → SFun.sqrt.eval f ftz (x * 2 ^ 23) = ((x + 127) / 2 * 2 ^ 23, 0) ∧
      SFun.rsqrt.eval f ftz (x * 2 ^ 23) = ((381 - x) / 2 * 2 ^ 23, 0))

/-- 02 R35, R36, R49, R50, R55; 05 R124, R125: what NaNs, infinities and zeros give, in arithmetic, in the fused forms and in
the special functions; minima, maxima, signs and integral values; exact reciprocals and roots. -/
def Obligations.FloatSpecialValues : Prop :=
  Sys2Proof.Claims.FloatSpecialOperands ∧ Sys2Proof.Claims.OrdinaryOperands ∧ Sys2Proof.Claims.FusedSpecialOperands ∧
    Sys2Proof.Claims.SpecialFunctionPoints ∧ Sys2Proof.Claims.ExactPowers

/-- 05 R130 to R134, integer reductions, scans and compare-exchange over the elements that the predicate selects;
4-bit types, and a VCMPX step past the register, raise ILLEGAL. -/
def Obligations.IntegerReductions : Prop :=
  ∀ (n : Bool) (t : ITy) (d : VDst) (va : VSrc) (p : PReg) (desc flip : Bool) (j : BitVec 4) (s : State),
    let w := t.width
    let m := 4096 / w
    let a := lane w (s.core.vx va)
    let x := fun i => num t (a i)
    let bit := fun i => s.core.arch.p[p].getLsbD i
    let none_ := ∀ i < m, bit i = false
    let k := 2 ^ j.toNat
    let q := fun i => if flip then i ^^^ (2 * k - 1) else i + k
    (8 ≤ w →
      exec (.vrsumInt n t d va p) s = .next (toV s 6 n d ((BitVec.ofInt 64
        (((List.range m).map fun i => if bit i then x i else 0).sum)).setWidth 4096) 0) ∧
      (none_ →
        exec (.vrmaxInt n t d va p) s = .next (toV s 6 n d ((BitVec.ofInt w (clamp t (-(2 ^ 64)))).setWidth 4096) 0) ∧
        exec (.vrminInt n t d va p) s = .next (toV s 6 n d ((BitVec.ofInt w (clamp t (2 ^ 64))).setWidth 4096) 0) ∧
        exec (.vargmaxInt n t d va p) s = .next (toV s 6 n d (BitVec.ofNat 4096 0xFFFFFFFF) 0)) ∧
      (∀ i < m, bit i = true → (∀ l < m, bit l = true → x l ≤ x i) →
        exec (.vrmaxInt n t d va p) s = .next (toV s 6 n d ((a i).setWidth 4096) 0) ∧
        ((∀ l < i, bit l = true → x l < x i) →
          exec (.vargmaxInt n t d va p) s =
            .next (toV s 6 n d (BitVec.ofNat 4096 (i + (a i).toNat * 2 ^ 32)) 0))) ∧
      (∀ i < m, bit i = true → (∀ l < m, bit l = true → x i ≤ x l) →
        exec (.vrminInt n t d va p) s = .next (toV s 6 n d ((a i).setWidth 4096) 0)) ∧
      (∃ r, exec (.vscanInt n t d va p) s = .next (toV s 6 n d r 0) ∧
        ∀ i < m, lane w r i = if i = 0 ∨ bit i = true then a i else lane w r (i - 1) + a i) ∧
      (∃ r, exec (.vscanExInt n t d va p) s = .next (toV s 6 n d r 0) ∧
        ∀ i < m, lane w r i = if i = 0 ∨ bit i = true then 0 else lane w r (i - 1) + a (i - 1))) ∧
    (8 ≤ w ∧ 2 * k ≤ m → ∃ r, exec (.vcmpxInt n t d va desc flip j) s = .next (toV s 6 n d r 0) ∧
      ∀ i < m, i / k % 2 = 0 →
        let lo := if x i ≤ x (q i) then a i else a (q i)
        let hi := if x i ≤ x (q i) then a (q i) else a i
        lane w r i = (if desc then hi else lo) ∧ lane w r (q i) = if desc then lo else hi) ∧
    (w < 8 →
      exec (.vrsumInt n t d va p) s = .next (illegal s) ∧ exec (.vrmaxInt n t d va p) s = .next (illegal s) ∧
      exec (.vrminInt n t d va p) s = .next (illegal s) ∧ exec (.vargmaxInt n t d va p) s = .next (illegal s) ∧
      exec (.vscanInt n t d va p) s = .next (illegal s) ∧ exec (.vscanExInt n t d va p) s = .next (illegal s)) ∧
    (¬ (8 ≤ w ∧ 2 * k ≤ m) → exec (.vcmpxInt n t d va desc flip j) s = .next (illegal s))

/-- 05 R130 to R134, float reductions, scans and compare-exchange. Elements are read under ftz but by VCMPX; the order
is total with -0 below +0; a selected signalling NaN sets nv, even alone; the 8-bit types raise ILLEGAL. -/
def Obligations.FloatReductions : Prop :=
  ∀ (n : Bool) (t : FTy) (d : VDst) (va : VSrc) (p : PReg) (desc flip : Bool) (j : BitVec 4) (s : State),
    let w := t.width
    let m := 4096 / w
    let c := FCtl.ofWord s.core.arch.fpctl
    let a := fun i => (lane w (s.core.vx va) i).toNat
    let x := fun i => FVal.read t.fmt c.ftz (a i)
    let bit := fun i => s.core.arch.p[p].getLsbD i
    let head := fun i => i = 0 ∨ bit i = true
    let nv := if (List.range m).any (fun i => bit i && decide (x i = .nan true)) then fNV else 0
    let enc := fun v => (t.fmt.enc 0 false v).1
    let k := 2 ^ j.toNat
    let q := fun i => if flip then i ^^^ (2 * k - 1) else i + k
    let y := fun i => if (FVal.dec t.fmt (a i)).isNan then t.fmt.nanEnc else a i
    let key := fun i => t.fmt.key (a i)
    (t.arith = true →
      ((∀ i < m, bit i = false) →
        exec (.vrmaxFloat n t d va p) s = .next (toV s 6 n d (BitVec.ofNat 4096 (enc (.inf true))) 0) ∧
        exec (.vrminFloat n t d va p) s = .next (toV s 6 n d (BitVec.ofNat 4096 (enc (.inf false))) 0) ∧
        exec (.vargmaxFloat n t d va p) s = .next (toV s 6 n d (BitVec.ofNat 4096 0xFFFFFFFF) 0) ∧
        exec (.vrsumFloat n t d va p) s = .next (toV s 6 n d 0 0)) ∧
      (∀ i < m, bit i = true → (x i).isNan = false →
        (∀ l < m, bit l = true → (x l).isNan = false → FVal.ord true (x l) (x i) ≤ 0) →
        (∀ l < i, bit l = true → (x l).isNan = false → FVal.ord true (x l) (x i) < 0) →
        exec (.vrmaxFloat n t d va p) s = .next (toV s 6 n d (BitVec.ofNat 4096 (enc (x i))) nv) ∧
        exec (.vargmaxFloat n t d va p) s =
          .next (toV s 6 n d (BitVec.ofNat 4096 (i + enc (x i) % 2 ^ 32 * 2 ^ 32)) nv)) ∧
      (∀ i < m, bit i = true → (x i).isNan = false →
        (∀ l < m, bit l = true → (x l).isNan = false → 0 ≤ FVal.ord true (x l) (x i)) →
        (∀ l < i, bit l = true → (x l).isNan = false → 0 < FVal.ord true (x l) (x i)) →
        exec (.vrminFloat n t d va p) s = .next (toV s 6 n d (BitVec.ofNat 4096 (enc (x i))) nv)) ∧
      ((∃ i < m, bit i = true) → (∀ i < m, bit i = true → (x i).isNan = true) →
        exec (.vrmaxFloat n t d va p) s = .next (toV s 6 n d (BitVec.ofNat 4096 t.fmt.nanEnc) nv) ∧
        exec (.vrminFloat n t d va p) s = .next (toV s 6 n d (BitVec.ofNat 4096 t.fmt.nanEnc) nv) ∧
        ∀ i < m, bit i = true → (∀ l < i, bit l = false) → exec (.vargmaxFloat n t d va p) s =
          .next (toV s 6 n d (BitVec.ofNat 4096 (i + t.fmt.nanEnc * 2 ^ 32)) nv)) ∧
      (∃ (v : Nat → Nat → Option Nat × Flags) (r : VWord) (fl : Flags),
        (∀ i < m, v 0 i = (if bit i then some (widen t c (a i)) else none, 0)) ∧
        (∀ l i, i < m / 2 ^ (l + 1) → v (l + 1) i = treeAdd c (v l (2 * i)).1 (v l (2 * i + 1)).1) ∧
        exec (.vrsumFloat n t d va p) s = .next (toV s 6 n d r fl) ∧
        r = (let z := (v (Nat.log2 m) 0).1.getD 0
          BitVec.ofNat 4096 (if (FVal.dec FTy.f32.fmt z).isNan then FTy.f32.fmt.nanEnc else z)) ∧
        ∀ b < 5, fl.getLsbD b = true ↔
          nv.getLsbD b = true ∨ ∃ l < Nat.log2 m, ∃ i < m / 2 ^ (l + 1), (v (l + 1) i).2.getLsbD b = true) ∧
      (∃ (g : Nat → Nat × Flags) (r r' : VWord) (fl : Flags),
        (∀ i < m, g i = t.fmt.addF c (if head i then 0 else (g (i - 1)).1) (a i)) ∧
        exec (.vscanFloat n t d va p) s = .next (toV s 6 n d r fl) ∧ flaggedLanes w m r fl g ∧
        exec (.vscanExFloat n t d va p) s = .next (toV s 6 n d r' fl) ∧
        ∀ i < m, lane w r' i = BitVec.ofNat w (if head i then 0 else (g (i - 1)).1))) ∧
    (t.arith = true ∧ 2 * k ≤ m → ∃ r fl, exec (.vcmpxFloat n t d va desc flip j) s = .next (toV s 6 n d r fl) ∧
      (fl = if (List.range m).any (fun i => decide (FVal.dec t.fmt (a i) = .nan true)) then fNV else 0) ∧
      ∀ i < m, i / k % 2 = 0 →
        let lo := if key i ≤ key (q i) then y i else y (q i)
        let hi := if key i ≤ key (q i) then y (q i) else y i
        lane w r i = BitVec.ofNat w (if desc then hi else lo) ∧
        lane w r (q i) = BitVec.ofNat w (if desc then lo else hi)) ∧
    (t.arith = false →
      exec (.vrsumFloat n t d va p) s = .next (illegal s) ∧ exec (.vrmaxFloat n t d va p) s = .next (illegal s) ∧
      exec (.vrminFloat n t d va p) s = .next (illegal s) ∧ exec (.vargmaxFloat n t d va p) s = .next (illegal s) ∧
      exec (.vscanFloat n t d va p) s = .next (illegal s) ∧ exec (.vscanExFloat n t d va p) s = .next (illegal s)) ∧
    (¬ (t.arith = true ∧ 2 * k ≤ m) → exec (.vcmpxFloat n t d va desc flip j) s = .next (illegal s))

/-! ## Sequencing, shapes and control registers (03, 04, 06, 07) -/

/-- 03 R64; 04 R100, R101: branches. The bundle records its target, or that it has none; CALL and JMPX write the
address after the delay bundle, which the second bundle after this one reads first (the model's reading, log 30).
Where code is read, the state is the one after reading it. Predicate code 15 with negation, and a target that is no
multiple of 4, raise ILLEGAL. -/
def Sys2Proof.Claims.BranchSlots : Prop :=
  ∀ (n neg : Bool) (p : PReg) (disp : BitVec 16) (d : SDst) (ra : SSrc) (s : State),
    let target := s.core.pc + 4 * disp.signExtend 64
    let a := s.core.sx ra
    let holds := ((p = 15 ∨ s.core.arch.p[p].getLsbD 0 = true) ↔ neg = false)
    let branching := fun (t : State) (x : Option Word) =>
      { t with core := { t.core with iss := { t.core.iss with branch := some x } } }
    (p = 15 ∧ neg = true → exec (.br p neg disp) s = .next (illegal s) ∧
      exec (.call n p neg disp) s = .next (illegal s)) ∧
    (¬ (p = 15 ∧ neg = true) →
      (holds → exec (.br p neg disp) s = .next (branching s (some target))) ∧
      (¬ holds → exec (.br p neg disp) s = .next (branching s none) ∧
        exec (.call n p neg disp) s = .next (branching s none)) ∧
      (holds → ∀ r t, afterBundle s s.core.iss.nextPc.toNat = (.ok r, t) →
        exec (.call n p neg disp) s = .next (branching (toX t 2 n 55 (BitVec.ofNat 64 r)) (some target)))) ∧
    (a.toNat % 4 = 0 → exec (.ret ra) s = .next (branching s (some a)) ∧
      ∀ r t, afterBundle s s.core.iss.nextPc.toNat = (.ok r, t) →
        exec (.jmpx n d ra) s = .next (branching (toX t 2 n d (BitVec.ofNat 64 r)) (some a))) ∧
    (a.toNat % 4 ≠ 0 → exec (.ret ra) s = .next (illegal s) ∧ exec (.jmpx n d ra) s = .next (illegal s))

/-- 04 R102, R104 to R106: LOOP pushes an entry or skips an empty body, BRKL pops and branches past the end, LOOPM
starts the modulo sequencer on a body it has read; a full or an empty loop stack raises LOOPSTK. -/
def Sys2Proof.Claims.LoopSlots : Prop :=
  ∀ (neg : Bool) (p : PReg) (imm : BitVec 15) (ra : SSrc) (s : State),
    let a := s.core.sx ra
    let stop := s.core.pc + 4 * imm.setWidth 64
    let holds := ((p = 15 ∨ s.core.arch.p[p].getLsbD 0 = true) ↔ neg = false)
    let stages := (a.extractLsb' 32 3).toNat + 1
    let jumping := fun (t : State) (x : Word) => { t with core := { t.core with iss := { t.core.iss with jump := some x } } }
    (imm = 0 → exec (.loop ra imm) s = .next (illegal s) ∧ exec (.loopm ra imm) s = .next (illegal s)) ∧
    (imm ≠ 0 →
      (a = 0 → ∀ r t, afterBundle s stop.toNat = (.ok r, t) →
        exec (.loop ra imm) s = .next (jumping t (BitVec.ofNat 64 r))) ∧
      (a ≠ 0 → 6 ≤ s.core.arch.loops.length → exec (.loop ra imm) s = .next (s.trapAt s.core.iss.pos 0x0E 0 0)) ∧
      (a ≠ 0 → s.core.arch.loops.length < 6 → exec (.loop ra imm) s =
        .next { s with core := { s.core with arch := { s.core.arch with
          loops := s.core.arch.loops ++ [(LoopEntry.mk s.core.iss.nextPc stop a)] } } }) ∧
      (∀ b t, readBody s s.core.iss.nextPc.toNat (some stop.toNat) 17 = (.ok b, t) →
        (b.stop ≠ stop.toNat ∨ b.ok stages = false → exec (.loopm ra imm) s = .next (illegal t)) ∧
        (b.stop = stop.toNat → b.ok stages = true →
          (a.extractLsb' 0 32 = 0 → exec (.loopm ra imm) s = .next (jumping t (BitVec.ofNat 64 b.after))) ∧
          (a.extractLsb' 0 32 ≠ 0 → exec (.loopm ra imm) s =
            .next { t with core := { t.core with arch := { t.core.arch with
              modq := (Modulo.mk true s.core.iss.nextPc b.bundles.length (a.extractLsb' 0 32).toNat stages
                (a.extractLsb' 40 8).toNat 0 b.map (BitVec.ofNat 64 b.stop) (BitVec.ofNat 64 b.after)) } } })))) ∧
    (p = 15 ∧ neg = true → exec (.brkl neg p) s = .next (illegal s)) ∧
    (¬ (p = 15 ∧ neg = true) →
      (¬ holds → exec (.brkl neg p) s = .next s) ∧
      (holds → s.core.arch.loops = [] → exec (.brkl neg p) s = .next (s.trapAt s.core.iss.pos 0x0E 0 0)) ∧
      (holds → ∀ ls top r t, s.core.arch.loops = ls ++ [top] → afterBundle s top.stop.toNat = (.ok r, t) →
        ∃ u, exec (.brkl neg p) s = .next u ∧
          u = { t with core := { t.core with
            arch := { t.core.arch with loops := t.core.arch.loops.dropLast }
            iss := { t.core.iss with branch := some (some (BitVec.ofNat 64 r)) } } }))

/-- 03 R64; 04 R100 to R102, R104 to R106: branches (the moment of the link: log 30) and loops. -/
def Obligations.BranchAndLoopSlots : Prop := Sys2Proof.Claims.BranchSlots ∧ Sys2Proof.Claims.LoopSlots

/-- 03 R61; 04 R102, R103, R106: where the sequencer goes after a bundle. A delay bundle goes to its target; else a
bundle that jumped goes there; else the loop stack decides, between its start and the bundle that follows or that the
modulo sequencer names. That it decides for body bundles and for a taken branch's own bundle too, and that a count of 0
wraps, are the model's readings (log 64). -/
def Obligations.SequencerAdvance : Prop :=
  ∀ (c : Core),
    (∀ t, c.delay = .after (some t) → c.advance.pc = t ∧ c.advance.arch = c.arch) ∧
    (c.delay = .none ∨ c.delay = .after none →
      (∀ t, c.iss.jump = some t → c.advance.pc = t ∧ c.advance.arch = c.arch) ∧
      (c.iss.jump = none →
        let q := c.arch.modq
        let inBody := q.active = true ∧ q.start ≤ c.pc ∧ c.pc ≤ q.stop
        let looping := fun (m : Modulo) (next : Word) => c.advance.arch.modq = m ∧
          ((∀ e, c.arch.loops.getLast? = some e → e.stop ≠ c.pc) →
            c.advance.pc = next ∧ c.advance.arch.loops = c.arch.loops) ∧
          (∀ ls e, c.arch.loops = ls ++ [e] → e.stop = c.pc → e.count ≠ 1 →
            c.advance.pc = e.start ∧ c.advance.arch.loops = ls ++ [{ e with count := e.count - 1 }]) ∧
          (∀ ls e, c.arch.loops = ls ++ [e] → e.stop = c.pc → e.count = 1 →
            (∀ f, ls.getLast? = some f → f.stop ≠ c.pc) → c.advance.pc = next ∧ c.advance.arch.loops = ls)
        (¬ inBody → looping q c.iss.nextPc) ∧
        (inBody → c.pc ≠ q.stop → looping q c.iss.nextPc) ∧
        (inBody → c.pc = q.stop → q.pass + 1 < q.n + q.stages - 1 → looping { q with pass := q.pass + 1 } q.start) ∧
        (inBody → c.pc = q.stop → q.n + q.stages - 1 ≤ q.pass + 1 → looping .reset q.after))) ∧
    (∀ t, c.iss.branch = some t → c.advance.delay = .after t) ∧
    (c.iss.branch = none → c.advance.delay = .none)

/-- 04 R108, R110, R111; 07 R163 to R165; 08 R170: the slots that only mark the core, and their privilege. SLEEP waits
where its tick has not come; STEPEND waits while a register is pending, takes its checkpoint and marks the end of the
step; SYS is ILLEGAL at S and H; ERET and PAIRSET are PRIV at U. -/
def Obligations.MarkSlots : Prop :=
  ∀ (n : Bool) (d : SDst) (ra : SSrc) (f : BitVec 6) (s : State),
    let a := s.core.sx ra
    exec .nop s = .next s ∧
    (s.tick < a.toNat → exec (.sleep ra) s = .next { s with core := { s.core with sleep := some (a.toNat, s.tick) } }) ∧
    (a.toNat ≤ s.tick → exec (.sleep ra) s = .next s) ∧
    ((∃ q ∈ s.core.pend, q.dst ≠ .none) → exec .stepend s = .next s) ∧
    ((∀ q ∈ s.core.pend, q.dst = .none) →
      let t := s.checkpoint
      (t.core.awaitsOld = true → exec .stepend s = .next t) ∧
      (t.core.awaitsOld = false → exec .stepend s = .next { t with core := { t.core with phase := .stepEnd } })) ∧
    (s.core.level = .u → exec (.sys f) s =
      .next { s with core := { s.core with phase := .sys f.toNat s.core.iss.pos s.core.pc } }) ∧
    (s.core.level ≠ .u → exec (.sys f) s = .next (illegal s)) ∧
    (s.core.level ≠ .u → exec .eret s =
      .next { s with core := { s.core with phase := .eret s.core.iss.pos s.core.pc } }) ∧
    exec .iflush s = .next { s with core := { s.core with port := { s.core.port with l1i := [] } } } ∧
    (s.core.level = .u →
      exec .eret s = .next (s.trapAt s.core.iss.pos 0x02 0 0) ∧
      exec (.pairset n d ra) s = .next (s.trapAt s.core.iss.pos 0x02 0 0) ∧
      exec (.freeze n d ra) s = .next (s.trapAt s.core.iss.pos 0x02 0 0))

/-- 06 R142, R150 to R153: the shadow instructions. A field write is in flight for one beat; SHRD sign-extends the box
origins; SHCHK answers what the layout checks answer. -/
def Sys2Proof.Claims.ShadowSlots : Prop :=
  ∀ (n : Bool) (d : SDst) (fld : Fin 25) (ra : SSrc) (imm : BitVec 9) (sd t : Fin 8) (r : Fin 16) (s : State),
    let a := s.core.sx ra
    let old := BitVec.ofNat 64 (recGet s.core.arch.sd[sd] fld)
    let reg := if r.val < 8 then s.core.arch.d[r.val % 8] else s.core.arch.sd[r.val % 8]
    let put := fun (dst : Dst) => Host.Outcome.next (flying s 1 false dst none 0)
    exec (.shf fld ra sd) s = put (.shf sd fld a) ∧
    exec (.shfAdd fld ra sd) s = put (.shf sd fld (old + a)) ∧
    exec (.shfi imm fld sd) s = put (.shf sd fld (imm.signExtend 64)) ∧
    exec (.shfiAdd imm fld sd) s = put (.shf sd fld (old + imm.signExtend 64)) ∧
    exec (.shcpD sd t) s = put (.sd sd s.core.arch.d[t]) ∧
    exec (.shcpSd sd t) s = put (.sd sd s.core.arch.sd[t]) ∧
    (16 ≤ fld.val ∧ fld.val ≤ 20 → exec (.shrd n d r fld) s =
      .next (toX s 1 n d ((BitVec.ofNat 32 (recGet reg fld)).signExtend 64))) ∧
    (¬ (16 ≤ fld.val ∧ fld.val ≤ 20) → exec (.shrd n d r fld) s = .next (toX s 1 n d (BitVec.ofNat 64 (recGet reg fld)))) ∧
    exec (.shchk n d r) s = .next (toX s 1 n d (BitVec.ofNat 64 (recCheck s.gangSize reg)))

/-- 06 R142, R150: writing one field of a record changes that field, to the value's low bits, and no other field. -/
def Sys2Proof.Claims.RecordFieldWrites : Prop :=
  ∀ (r : Rec) (f g : Fin 25) (v : Nat),
    recGet (recSet r f v) f = v % 2 ^ (8 * (recField f).2) ∧ (g ≠ f → recGet (recSet r f v) g = recGet r g)

/-- 06 R142 to R145, R149: the layout checks of a record for a gang of m members, code by code from its bytes. Each code
fails for its own reason, and the answer is the lowest code that fails, 0 where none does. Code 5 measures the box of a
grouped record in whole groups of 32 (log 114). -/
def Sys2Proof.Claims.RecordChecks : Prop :=
  ∀ (m : Nat) (r : Rec),
    let field := fun (offset size : Nat) => r.toNat / 2 ^ (8 * offset) % 2 ^ (8 * size)
    let ctl := field 8 4
    let rank := ctl % 8
    let scratch := ctl.testBit 3
    let el := ctl / 16 % 16
    let sparse := ctl.testBit 8
    let group := ctl / 512 % 4
    let scaled := ctl.testBit 11
    let dim := fun k => field (12 + 4 * k) 4
    let stride := fun k => field (24 + 8 * k) 8
    let box := fun k => field (64 + 2 * k) 2
    let base := field 0 8
    let mcast := field 112 2
    let grouped : Prop := el = 11 ∨ el = 12 ∨ el = 13 ∨ (el = 6 ∧ sparse = true)
    let size := unitOf el sparse
    let unit := open Classical in if grouped then 4 else size
    let units := open Classical in
      ((List.range rank).map fun k => if grouped ∧ k = 0 then box 0 / 32 else box k).prod
    let fails : Nat → Prop := fun code =>
      (code = 1 ∧ (rank = 0 ∨ 5 < rank)) ∨
      (code = 2 ∧ (14 ≤ el ∨ group = 3)) ∨
      (code = 3 ∧ ((sparse = true ∧ el ≠ 6 ∧ el ≠ 11 ∧ el ≠ 13) ∨ (el = 13 ∧ group ≠ 0))) ∨
      (code = 4 ∧ ∃ k < rank, dim k = 0) ∨
      (code = 5 ∧ ((∃ k < rank, box k = 0 ∨ 256 < box k) ∨ 2 ^ 20 < units * size)) ∨
      (code = 6 ∧ base % unit ≠ 0) ∨
      (code = 7 ∧ ∃ k < rank, 1 ≤ k ∧ (stride k % unit ≠ 0 ∨ 2 ^ 40 ≤ stride k)) ∨
      (code = 8 ∧ grouped ∧ (dim 0 % 32 ≠ 0 ∨ box 0 % 32 ≠ 0 ∨ field 76 4 % 32 ≠ 0)) ∨
      (code = 9 ∧ scaled = true ∧ (¬ grouped ∨ field 96 8 % 4 ≠ 0 ∨ field 104 4 % 4 ≠ 0)) ∨
      (code = 10 ∧ ((scratch = true ∧ 3 * 2 ^ 20 ≤ base) ∨
        (scratch = false ∧ base / 2 ^ 56 ≠ 0 ∧ base / 2 ^ 56 ≠ 255))) ∨
      (code = 11 ∧ mcast ≠ 0 ∧ (scratch = false ∨ 2 ^ m ≤ mcast)) ∨
      (code = 12 ∧ (ctl / 2 ^ 12 % 16 ≠ 0 ∨ field 74 2 ≠ 0 ∨ field 114 14 ≠ 0))
    (∀ code, fails code → (∀ c < code, ¬ fails c) → recCheck m r = code) ∧
    ((∀ code, ¬ fails code) → recCheck m r = 0)

/-- 06 R142 to R145, R149 to R153: the shadow instructions, the fields of a record, and its layout checks. -/
def Obligations.ShadowRecords : Prop :=
  Sys2Proof.Claims.ShadowSlots ∧ Sys2Proof.Claims.RecordFieldWrites ∧ Sys2Proof.Claims.RecordChecks

/-- 07 R155, R159, R160: reading and writing control registers. A read sees the view of the level. K and T registers
land their writable bits after one beat; a C register is withheld; a register with no writable bit at the level
ignores the write. CSRS and CSRC read first. -/
def Sys2Proof.Claims.ControlRegisterSlots : Prop :=
  ∀ (n : Bool) (d : SDst) (ra : SSrc) (k : BitVec 12) (s : State),
    let a := s.core.sx ra
    let old := s.csrRead k.toNat
    let m := csrMask k.toNat s.core.level
    let land := fun (v : Word) => { s with core := { s.core with flight := s.core.flight ++
      [(Flight.mk (s.core.beat + 1) (.csr k.toNat ((old &&& ~~~m) ||| (v &&& m))) none 0 true s.core.beat
        s.core.iss.pos)] } }
    let hold := fun (v : Word) =>
      let t := withheld s (.csr k.toNat v)
      { t with core := { t.core with iss := { t.core.iss with cw := t.core.iss.cw + 1 } } }
    exec (.csrr n d k) s = .next (toX s 1 n d old) ∧
    (csrClass k.toNat = .none →
      exec (.csrw ra k) s = .next s ∧ exec (.csrs ra k) s = .next s ∧ exec (.csrc ra k) s = .next s) ∧
    (csrClass k.toNat = .k ∨ csrClass k.toNat = .t →
      (m = 0 → exec (.csrw ra k) s = .next s ∧ exec (.csrs ra k) s = .next s ∧ exec (.csrc ra k) s = .next s) ∧
      (m ≠ 0 → exec (.csrw ra k) s = .next (land a) ∧ exec (.csrs ra k) s = .next (land (old ||| a)) ∧
        exec (.csrc ra k) s = .next (land (old &&& ~~~a)))) ∧
    (csrClass k.toNat = .c → room s → s.core.iss.stopped = false →
      exec (.csrw ra k) s = .next (hold a) ∧ exec (.csrs ra k) s = .next (hold (old ||| a)) ∧
      exec (.csrc ra k) s = .next (hold (old &&& ~~~a))) ∧
    (csrClass k.toNat = .c → ¬ room s →
      exec (.csrw ra k) s = .next (s.trapAt s.core.iss.pos 0x0C 0 0) ∧
      exec (.csrs ra k) s = .next (s.trapAt s.core.iss.pos 0x0C 0 0) ∧
      exec (.csrc ra k) s = .next (s.trapAt s.core.iss.pos 0x0C 0 0))

/-- 07 R155 to R158: what a kernel at U can read and write. The trap's registers that name the steward's memory read
zero, and no write at U has an effect but on fpctl and fpflags. -/
def Sys2Proof.Claims.ControlRegistersAtU : Prop :=
  ∀ (k : Nat) (s : State), s.core.level = .u →
    (k = 0x023 ∨ k = 0x024 ∨ k = 0x025 ∨ k = 0x026 ∨ k = 0x027 ∨ k = 0x070 ∨ k = 0x071 → s.csrRead k = 0) ∧
    (k ≠ 0x000 → k ≠ 0x001 → csrMask k s.core.level = 0) ∧
    (s.csrRead 0x000 = s.core.arch.fpctl ∧ s.csrRead 0x001 = s.core.arch.fpflags ∧ s.csrRead 0x030 = s.core.ckAddr ∧
      s.csrRead 0x020 = s.core.csr.cause ∧ s.csrRead 0x021 = s.core.csr.baddr ∧ s.csrRead 0x022 = s.core.csr.info)

/-- 07 R157, R159, R160; 14 R338: what a committed write of a C register leaves. therm.limits takes its fields from the
highest threshold down, each where it is no higher than its reset value and than the next higher threshold as the write
leaves it (thresholds as unsigned numbers: log 122); the write of a steward sets its interface's thresholds, that of H
firmware the chip's. trap.vec, trap.save and stat.ring take their writable bits, and a write from U does nothing. -/
def Sys2Proof.Claims.CommittedControlWrites : Prop :=
  ∀ (s : State) (lv : Level) (v : Word),
    let fld := fun (w : Word) (i : Nat) => (w.extractLsb' (16 * i) 16).toNat
    let taken := fun (old new reset above : Nat) => if new ≤ reset ∧ new ≤ above then new else old
    let applied := fun (old w : Word) =>
      fld w 3 = 0x06E0 ∧ fld w 2 = taken (fld old 2) (fld v 2) 0x0690 0x06E0 ∧
      fld w 1 = taken (fld old 1) (fld v 1) 0x0640 (fld w 2) ∧ fld w 0 = taken (fld old 0) (fld v 0) 0x05F0 (fld w 1)
    let put := fun (old : Word) (fixed : Word) => (old &&& fixed) ||| (v &&& ~~~fixed)
    let reg := s.core.csr
    let ring := put reg.statRing 0xFF0
    (∃ w, applied s.limH w ∧ s.csrCommit .h 0x061 v = { s with limH := w }) ∧
    (∀ i : Fin 64, i.val = s.core.vi →
      ∃ w, applied s.limS[i] w ∧ s.csrCommit .s 0x061 v = { s with limS := s.limS.set i w }) ∧
    (lv ≠ .u →
      s.csrCommit lv 0x025 v = { s with core := { s.core with csr := { reg with vec := put reg.vec 63 } } } ∧
      s.csrCommit lv 0x026 v = { s with core := { s.core with csr := { reg with save := put reg.save 4095 } } } ∧
      (s.csrCommit lv 0x070 v).core.csr.statRing = ring ∧
      (∀ x, Tab.get s.ctxs s.core.self.1 = some x →
        s.csrCommit lv 0x070 v = { s with
          core := { s.core with csr := { reg with statRing := ring } }
          ctxs := Tab.put s.ctxs s.core.self.1 { x with statRing := ring } })) ∧
    (∀ k, csrClass k = .c → s.csrCommit .u k v = s)

/-- 07 R155 to R160; 08 R173; 14 R338: control registers, what a kernel at U sees and changes of them, and what committed
writes leave. -/
def Obligations.ControlRegisters : Prop :=
  Sys2Proof.Claims.ControlRegisterSlots ∧ Sys2Proof.Claims.ControlRegistersAtU ∧ Sys2Proof.Claims.CommittedControlWrites

/-- 07 R167: PAIRSET at S and H: an accepted change is withheld and answers 0, another answers its status, 3 where a cluster
of the interface has fewer than two healthy pairs. -/
def Sys2Proof.Claims.PairRequests : Prop :=
  ∀ (n : Bool) (d : SDst) (ra : SSrc) (s : State), s.core.level ≠ .u →
    let a := s.core.sx ra
    let ctx := (a.extractLsb' 0 10).toNat
    (a &&& ~~~(0x103FF : Word) ≠ 0 → exec (.pairset n d ra) s = .next (toX s 1 n d 1)) ∧
    (a &&& ~~~(0x103FF : Word) = 0 →
      (Tab.get s.ctxs ctx = none → exec (.pairset n d ra) s = .next (toX s 1 n d 2)) ∧
      (∀ x, Tab.get s.ctxs ctx = some x → x.vi ≠ ((s.core.seat.map (·.vi)).getD 0) →
        exec (.pairset n d ra) s = .next (toX s 1 n d 2)) ∧
      (∀ x, Tab.get s.ctxs ctx = some x → x.vi = ((s.core.seat.map (·.vi)).getD 0) →
        let healthy := fun (k : Nat) => (s.getCore (2 * k)).quarantined = false ∧ (s.getCore (2 * k + 1)).quarantined = false
        let pairs := ∃ v, s.viOf x.vi = some v ∧ ∀ cl < 8, v.mask.getLsbD cl = true →
          ∃ i j, i < j ∧ j < 8 ∧ healthy (8 * cl + i) ∧ healthy (8 * cl + j)
        (a.getLsbD 16 = true → ¬ pairs → exec (.pairset n d ra) s = .next (toX s 1 n d 3)) ∧
        (a.getLsbD 16 = true → pairs → room s → s.core.iss.stopped = false →
          exec (.pairset n d ra) s = .next (toX (withheld s (.pairset ctx true)) 1 n d 0)) ∧
        (a.getLsbD 16 = false → room s → s.core.iss.stopped = false →
          exec (.pairset n d ra) s = .next (toX (withheld s (.pairset ctx false)) 1 n d 0))))

/-- 16 R368, R385, R387; 09 R214: the queries answer from the state: the clock, the budget account, the boost lease,
the joule counters of the step, the task, the context and the island, the sensors, and the life of a loaf that no committed
grant or release is still to change. Which sensors are a cluster's is the model's choice (log 22). -/
def Sys2Proof.Claims.QuerySlots : Prop :=
  ∀ (n : Bool) (d : SDst) (ra : SSrc) (s : State),
    let a := s.core.sx ra
    let isl := s.islandOf (clusterOf s.core.pcore)
    let item := (a.extractLsb' 0 4).toNat
    exec (.ctc n d) s = .next (toX s 1 n d (BitVec.ofNat 64 s.tick)) ∧
    (item = 0 → exec (.budq n d ra) s = .next (toX s 2 n d (BitVec.ofInt 64 s.account.balance))) ∧
    (item = 1 → exec (.budq n d ra) s = .next (toX s 2 n d (BitVec.ofNat 64 s.account.grant))) ∧
    (item = 2 → exec (.budq n d ra) s =
      .next (toX s 2 n d (BitVec.ofNat 64 (s.classCost isl (a.extractLsb' 8 3).toNat)))) ∧
    (item = 3 → exec (.budq n d ra) s =
      .next (toX s 2 n d (BitVec.ofNat 64 (((s.islandAt isl).reserve.map fun r => r.2.2.1).getD 0)))) ∧
    (item = 4 → exec (.budq n d ra) s = .next (toX s 2 n d (BitVec.ofNat 64 s.account.admitted))) ∧
    (item = 5 → exec (.budq n d ra) s = .next (toX s 2 n d (BitVec.ofNat 64 (10000 - s.tick % 10000)))) ∧
    (6 ≤ item → exec (.budq n d ra) s = .next (illegal s)) ∧
    (let cl := clusterOf s.core.pcore
     let target := (a.extractLsb' 0 7).toNat
     let boosted := fun (t : State) => toX t 4 n d (BitVec.ofNat 64
       (((t.clusterAt cl).lease.map (·.remaining)).getD 0 + t.nextClock cl * 256))
     (64 < target ∨ (a.getLsbD 16 = true ∧ target ≠ 0) → exec (.boost n d ra) s = .next (illegal s)) ∧
     (target ≤ 64 → a.getLsbD 16 = false → exec (.boost n d ra) s = .next (boosted (s.grantBoost cl target))) ∧
     (target = 0 → a.getLsbD 16 = true → exec (.boost n d ra) s = .next (boosted (s.endLease cl)) ∧
       ∀ r, (s.clusterAt cl).lease = some r → cl < 8 → ((s.endLease cl).clusterAt cl).lease = none ∧
         ((s.endLease cl).islandAt isl).pool = min 64 ((s.islandAt isl).pool + r.remaining))) ∧
    (∀ z, s.core.seat = some z →
      let reads := fun (j : Nat) => exec (.jrd n d ra) s = .next (toX s 2 n d (BitVec.ofNat 64 j))
      (∀ u, a.extractLsb' 0 2 = 0 → s.stepOf z.task z.wid = some u → reads u.joule) ∧
      (∀ k, a.extractLsb' 0 2 = 1 → s.taskOf z.task = some k → reads k.joule) ∧
      (∀ x, a.extractLsb' 0 2 = 2 → Tab.get s.ctxs z.ctx = some x → reads x.joule) ∧
      (a.extractLsb' 0 2 = 3 → reads (s.islandAt isl).joule)) ∧
    (let limits := s.limits ((s.core.seat.map (·.vi)).getD 0)
     let passed := fun (k : Nat) (r : BitVec 16) => (limitAt limits k : Int) ≤ r.toInt
     let reads := fun (r : BitVec 16) => exec (.thq n d ra) s = .next (toX s 2 n d (BitVec.ofNat 64 (r.toNat +
       (if passed 2 r then 3 else if passed 1 r then 2 else if passed 0 r then 1 else 0) * 2 ^ 16)))
     let among := fun (l : List (BitVec 16)) => ∀ r ∈ l, (∀ o ∈ l, o.toInt ≤ r.toInt) → reads r
     (a.extractLsb' 0 2 = 0 → reads s.core.sensor) ∧
     (a.extractLsb' 0 2 = 1 → among (s.clusterSensors (clusterOf s.core.pcore))) ∧
     (a.extractLsb' 0 2 = 2 →
       among (((List.range 8).filter fun k => s.islandOf k == isl).flatMap fun k => s.clusterSensors k)) ∧
     (a.extractLsb' 0 2 = 3 → reads (s.coolant.reading.getD 0x8000))) ∧
    (let l := a.toNat / 4096
     let reads := fun (w : Nat) => exec (.splife n d ra) s = .next (toMx s 4 n d (BitVec.ofNat 64 w))
     (∀ e ∈ s.core.drain, ∀ op f k v, e.kind ≠ .spMgmt op f k v) →
     (s.core.heldLoaf l = none → reads 0) ∧
     ∀ f, s.core.heldLoaf l = some f →
       let r := s.core.sp.loafAt f
       (s.tick ≤ r.expiry → reads (2 ^ 62 + r.life * 2 ^ 32 + (r.expiry - s.tick))) ∧
       (r.expiry < s.tick → reads (2 ^ 63 + r.life * 2 ^ 32)))

/-- 07 R167; 09 R214; 16 R368, R385, R387: PAIRSET, and the queries. -/
def Obligations.QueryAndPairSlots : Prop := Sys2Proof.Claims.PairRequests ∧ Sys2Proof.Claims.QuerySlots

/-! ## Scratchpad, memory and engine slots (09 to 14) -/

namespace Sys2Proof.Claims

/-- A vector result of the slot's M-unit, with its latch. -/
def toMv (s : State) (lat : Nat) (n : Bool) (d : VDst) (v : VWord) : State :=
  flying s lat n (.v [(d, v)]) (some (6 + s.core.iss.unit % 2, v)) 0

/-- The latch of the slot's M-unit. -/
def mLatchOf (s : State) : Nat := 6 + s.core.iss.unit % 2

/-- An access of n bytes at a scratchpad offset that the rules of 09 R210 allow: aligned, every loaf of it held, and
for a load live, as the core sees the loaves. -/
def spAdmits (s : State) (a n k : Nat) (load : Bool) : Prop :=
  a % k = 0 ∧ ∀ l, a / 4096 ≤ l → l ≤ (a + n - 1) / 4096 →
    (s.core.loafView s.tick l).1 = true ∧ (load = true → (s.core.loafView s.tick l).2 = true)

/-- The address X(b) + off × k, over 64 bits. -/
def addr (s : State) (b : SSrc) (off k : Nat) : Nat := ((s.core.sx b).toNat + off * k) % 2 ^ 64

/-- The address of lane j of a gather or scatter. -/
def laneAddr (s : State) (b : SSrc) (i : VSrc) (j : Nat) : Nat :=
  ((s.core.sx b).toNat + (lane 32 (s.core.vx i) j).toNat) % 2 ^ 64

/-- The state after the swap that an E-format slot asks for, unless the bundle's swaps are done (06 R147, R148). -/
def swapped (s : State) (h : Fin 8) (sw : Bool) : State :=
  if sw = true ∧ s.core.iss.swapped = false then
    { s with core := { s.core with arch := { s.core.arch with
      d := s.core.arch.d.set h s.core.arch.sd[h], sd := s.core.arch.sd.set h s.core.arch.d[h] } } }
  else s

/-- The matrix command that a slot withholds (10 R228). -/
def matrixEntry (s : State) (k : MKind) (r : Rec) (x : Word) (b : Option BarRef) : EKind :=
  .matrix (MCmd.mk 0 k r x b s.core.pc s.core.level false ((s.core.seat.map (·.ctx)).getD 0)
    ((s.core.seat.map (·.lcore)).getD 0) (Owner.mk ((s.core.seat.map (·.task)).getD 0) ((s.core.seat.map (·.wid)).getD 0))
    (s.gangOf s.core) false [] none 0 false 0)

/-- The copy command that a slot withholds (13 R288). -/
def copyEntry (s : State) (k : CKind) (recs : List Rec) (ops : List Word) (b : BarRef) : EKind :=
  .copy (CCmd.mk 0 ((s.core.seat.map (·.ctx)).getD 0) ((s.core.seat.map (·.lcore)).getD 0)
    (Owner.mk ((s.core.seat.map (·.task)).getD 0) ((s.core.seat.map (·.wid)).getD 0)) (s.gangOf s.core) s.core.level
    .waiting k recs ops (ops.getD 1 0).toNat 0 s.core.pc b 0 0 false [] [] false none false [] [] [] [] false false 0 [])

/-- The barrier that an optional operand names (15 R359). -/
def barOpt (s : State) (bar : Option BarOp) (b : Option BarRef) : Prop :=
  (bar = none ∧ b = none) ∨ ∃ o r, bar = some o ∧ barRef s o true = some r ∧ b = some r

/-- The registers X(x) to X(x + n - 1). -/
def regs (s : State) (x : SDst) (n : Nat) : List Word := (List.range n).map fun i => s.core.xn (x.val + i)

end Sys2Proof.Claims

/-- 09 R210 to R212, R214: scratchpad accesses that the checks allow. A load returns what the core sees of the bytes,
after 6 beats (vector) or 4 (scalar); a store withholds its bytes at its offset. No memory changes at issue. -/
def Sys2Proof.Claims.ScratchpadAccess : Prop :=
  ∀ (n : Bool) (t : ITy) (z : BitVec 3) (off : BitVec 6) (vd : VDst) (vs i : VSrc) (d : SDst) (x b : SSrc) (s : State),
    let k := 2 ^ (z.toNat % 4)
    let av := addr s b off.toNat 64
    let ax := addr s b off.toNat k
    let w := t.width
    (spAdmits s av 512 64 true → s.core.spPoisoned av 512 = false →
      exec (.lds n t vd b off) s = .next (toMv s 6 n vd (BitVec.ofNat 4096 (ofBytes (s.core.spLoad av 512))))) ∧
    (spAdmits s av 512 64 false → room s →
      exec (.sts t vs b off) s = .next (withheld s (.spStore [(Chunk.mk av 0 (toBytes 512 (s.core.vx vs).toNat))]))) ∧
    (z ≠ 7 → spAdmits s ax k k true → s.core.spPoisoned ax k = false →
      exec (.ldss n z d b off) s = .next (toMx s 4 n d (
        let v := BitVec.ofNat (8 * k) (ofBytes (s.core.spLoad ax k))
        if 4 ≤ z.toNat then v.signExtend 64 else v.setWidth 64))) ∧
    (z ≠ 7 → spAdmits s ax k k false → room s →
      exec (.stss z x b off) s = .next (withheld s (.spStore [(Chunk.mk ax 0 (toBytes k (s.core.sx x).toNat))]))) ∧
    (z = 7 → exec (.ldss n z d b off) s = .next (illegal s) ∧ exec (.stss z x b off) s = .next (illegal s)) ∧
    (w ≠ 4 → (∀ j < 64, spAdmits s (laneAddr s b i j) (w / 8) (w / 8) true) →
      (∀ j < 64, s.core.spPoisoned (laneAddr s b i j) (w / 8) = false) →
      ∃ r, exec (.ldsg n t vd b i) s = .next (toMv s 6 n vd r) ∧
        ∀ j < 4096 / w, lane w r j =
          if j < 64 then BitVec.ofNat w (ofBytes (s.core.spLoad (laneAddr s b i j) (w / 8))) else 0) ∧
    (w ≠ 4 → (∀ j < 64, spAdmits s (laneAddr s b i j) (w / 8) (w / 8) false) → room s →
      exec (.stsx t vs b i) s = .next (withheld s (.spStore ((List.range 64).map fun j =>
        (Chunk.mk (laneAddr s b i j) 0 (toBytes (w / 8) (lane w (s.core.vx vs) j).toNat)))))) ∧
    (w = 4 → exec (.ldsg n t vd b i) s = .next (illegal s) ∧ exec (.stsx t vs b i) s = .next (illegal s)) ∧
    exec (.splife n d x) s = .next (toMx s 4 n d (splifeWord s.core s.tick ((s.core.sx x).toNat / 4096)))

/-- 09 R210; 08 R179: where a scratchpad access traps: a misaligned offset raises ALIGN with the offset in trap.info,
an aligned one whose first byte's loaf the step does not hold raises SPBOUND, and a load of a held loaf past its life
raises STALE. -/
def Sys2Proof.Claims.ScratchpadFaults : Prop :=
  ∀ (n : Bool) (t : ITy) (off : BitVec 6) (vd : VDst) (vs : VSrc) (b : SSrc) (s : State),
    let a := addr s b off.toNat 64
    let v := s.core.loafView s.tick (a / 4096)
    (a % 64 ≠ 0 →
      exec (.lds n t vd b off) s = .next (s.trapAt s.core.iss.pos 0x06 0 (BitVec.ofNat 64 a)) ∧
      exec (.sts t vs b off) s = .next (s.trapAt s.core.iss.pos 0x06 0 (BitVec.ofNat 64 a))) ∧
    (a % 64 = 0 → v.1 = false →
      exec (.lds n t vd b off) s = .next (s.trapAt s.core.iss.pos 0x09 0 (BitVec.ofNat 64 a)) ∧
      exec (.sts t vs b off) s = .next (s.trapAt s.core.iss.pos 0x09 0 (BitVec.ofNat 64 a))) ∧
    (a % 64 = 0 → (∀ l, a / 4096 ≤ l → l ≤ (a + 511) / 4096 → (s.core.loafView s.tick l).1 = true) → v.2 = false →
      exec (.lds n t vd b off) s = .next (s.trapAt s.core.iss.pos 0x08 0 (BitVec.ofNat 64 a)))

/-- 09 R202; 08 R174: what a core load sees: each byte is the one that the youngest unperformed store to it holds, and
else the committed byte. Here one more store at a has been withheld. -/
def Sys2Proof.Claims.ScratchpadForwarding : Prop :=
  ∀ (s : State) (a off n : Nat) (bs : List Byte),
    let t := withheld s (.spStore [(Chunk.mk a 0 bs)])
    ∀ i < n, (t.core.spLoad off n)[i]? =
      if a ≤ off + i ∧ off + i < a + bs.length then some (bs.getD (off + i - a) 0) else (s.core.spLoad off n)[i]?

/-- 09 R213: loaf management withholds one entry for a range inside the step's footprint; RENEW needs every loaf of
the range held and live, SPFILL held. A life of 0 or above 200,000 is taken as 200,000. -/
def Sys2Proof.Claims.ScratchpadManagement : Prop :=
  ∀ (a b : SSrc) (s : State),
    let x := s.core.sx a
    let y := s.core.sx b
    let first := (x.extractLsb' 0 10).toNat
    let count := (x.extractLsb' 16 10).toNat
    let life : Word := if y = 0 ∨ 200000 < y.toNat then 200000 else y
    let view := fun l => s.core.loafView s.tick l
    let size := (s.core.seat.map (·.footprint)).getD 0
    (first + count ≤ size → room s →
      exec (.spalloc a b) s = .next (withheld s (.spMgmt .alloc first count life)) ∧
      exec (.spfree a) s = .next (withheld s (.spMgmt .free first count 0)) ∧
      ((∀ l, first ≤ l → l < first + count → (view l).1 = true) →
        exec (.spfill a b) s = .next (withheld s (.spMgmt .fill first count y)) ∧
        ((∀ l, first ≤ l → l < first + count → (view l).2 = true) →
          exec (.renew a b) s = .next (withheld s (.spMgmt .renew first count life))))) ∧
    (size < first + count →
      let t := s.trapAt s.core.iss.pos 0x09 0 (BitVec.ofNat 64 (4096 * max first size))
      exec (.spalloc a b) s = .next t ∧ exec (.spfree a) s = .next t ∧ exec (.renew a b) s = .next t ∧
      exec (.spfill a b) s = .next t)

/-- 08 R174, R179; 09 R202, R210 to R214: scratchpad accesses, where they trap, what a load sees, and loaf management. -/
def Obligations.ScratchpadSlots : Prop :=
  Sys2Proof.Claims.ScratchpadAccess ∧ Sys2Proof.Claims.ScratchpadFaults ∧ Sys2Proof.Claims.ScratchpadForwarding ∧
  Sys2Proof.Claims.ScratchpadManagement

/-- 08 R172, R173: a slot withholds its effect as an entry of the segment; the 65th raises SEGFULL. -/
def Obligations.SegmentEntries : Prop :=
  ∀ (s : State) (k : EKind),
    (room s → s.withhold k = withheld s k) ∧ (¬ room s → s.withhold k = s.trapAt s.core.iss.pos 0x0C 0 0)

/-- 11 R253, R255, R257; 08 R174: global loads whose addresses resolve mark their register pending with what will be
read; an acquire blocks later loads. resolve is the check of R254; what it answers for each piece goes into the load. An
LDF takes the word from the core's own unperformed writes where they hold it whole: from the STF withheld last to the
word, and from none where there is none. -/
def Obligations.GlobalLoads : Prop :=
  ∀ (n : Bool) (t : ITy) (z : BitVec 3) (off : BitVec 4) (vd : VDst) (d : SDst) (sd : Fin 8) (b : SSrc) (i : VSrc)
      (sc : Scope) (s u : State) (l : List (Nat × Nat × Nat)),
    let k := 2 ^ (z.toNat % 4)
    let px : PDst := if n = true ∨ d = 0 then .none else .x d
    let pv : PDst := if n = true then .none else .v vd
    let m := mLatchOf u
    let ps := u.pieces l
    let code := scopeCode sc
    let l1 := decide (sc = .core)
    (z ≠ 7 → resolve s (addr s b off.toNat k) k k .read none .scalar 0 = (.ok l, u) →
      exec (.ld n z d b off) s = .next (pending u px (.load ps z.toNat 0 none true) m false)) ∧
    (z ≠ 7 → resolve s (addr s b 0 k) k k .read (some code) .scalar 0 = (.ok l, u) →
      exec (.ldAcq n z d b sc) s = .next (pending u px (.load ps z.toNat 0 (some sc) l1) m true)) ∧
    (z = 7 → exec (.ld n z d b off) s = .next (illegal s) ∧ exec (.ldAcq n z d b sc) s = .next (illegal s)) ∧
    (resolve s (addr s b off.toNat 64) 512 64 .read none .vector 0 = (.ok l, u) →
      exec (.vld n t vd b off) s = .next (pending u pv (.load ps 3 0 none true) m false)) ∧
    (resolve s (addr s b 0 64) 512 64 .read (some code) .vector 0 = (.ok l, u) →
      exec (.vldAcq n t vd b sc) s = .next (pending u pv (.load ps 3 0 (some sc) l1) m true)) ∧
    (t.width ≠ 4 → resolveLanes (t.width / 8) .read 0 ((List.range 64).map (laneAddr s b i)) s = (.ok l, u) →
      exec (.vldg n t vd b i) s = .next (pending u pv (.load ps 3 t.width none true) m false)) ∧
    (t.width = 4 → exec (.vldg n t vd b i) s = .next (illegal s)) ∧
    ((s.core.sx b).toNat % 64 ≠ 0 → exec (.shcpMem sd b) s = .next (s.trapAt s.core.iss.pos 0x07 15 0)) ∧
    ((s.core.sx b).toNat % 64 = 0 →
      resolve s (s.core.sx b).toNat 128 64 .read none .vector 0 = (.ok l, u) →
      exec (.shcpMem sd b) s = .next (pending u (.sd sd) (.load ps 3 0 none true) m false)) ∧
    (∀ x r, l = x :: r →
      let own := u.futureBytes x.2.1
      let w := fun (acq : Option Scope) => if own.all Option.isSome = true
        then Wait.futureFwd (BitVec.ofNat 64 (ofBytes (own.filterMap id))) acq
        else Wait.future x.1 x.2.1 acq false 0 own
      (resolve s (s.core.sx b).toNat 8 8 .atomic none .future 2 = (.ok l, u) →
        exec (.ldf n d b) s = .next (pending u px (w none) m false)) ∧
      (resolve s (s.core.sx b).toNat 8 8 .atomic (some code) .future 2 = (.ok l, u) →
        exec (.ldfAcq n d b sc) s = .next (pending u px (w (some sc)) m true)) ∧
      (u.core.cbuf = [] → u.core.drain = [] → own = List.replicate 8 none) ∧
      (∀ va v rel es e, u.core.cbuf = es ++ [e] → e.kind = .stf va x.2.1 v rel → own = (toBytes 8 v.toNat).map some))

/-- 11 R253, R255, R258: global stores whose address resolves to one piece withhold their bytes there; the spec's two
pages of a wide store are two pieces, each with its part of the bytes. -/
def Obligations.GlobalStores : Prop :=
  ∀ (t : ITy) (z : BitVec 3) (off : BitVec 4) (v i : VSrc) (x b : SSrc) (sc : Scope) (s u : State)
      (va pa len va' pa' len' : Nat),
    let k := 2 ^ (z.toNat % 4)
    let code := scopeCode sc
    let bx := toBytes k (s.core.sx x).toNat
    let bv := toBytes 512 (s.core.vx v).toNat
    room u →
    (z ≠ 7 → resolve s (addr s b off.toNat k) k k .write none .scalar 1 = (.ok [(va, pa, k)], u) →
      exec (.st z x b off) s = .next (withheld u (.gStore [(Chunk.mk va pa bx)] none))) ∧
    (z ≠ 7 → resolve s (addr s b 0 k) k k .write (some code) .scalar 1 = (.ok [(va, pa, k)], u) →
      exec (.stRel z x b sc) s = .next (withheld u (.gStore [(Chunk.mk va pa bx)] (some sc)))) ∧
    (z = 7 → exec (.st z x b off) s = .next (illegal s) ∧ exec (.stRel z x b sc) s = .next (illegal s)) ∧
    (resolve s (addr s b off.toNat 64) 512 64 .write none .vector 1 = (.ok [(va, pa, 512)], u) →
      exec (.vst t v b off) s = .next (withheld u (.gStore [(Chunk.mk va pa bv)] none))) ∧
    (len + len' = 512 →
      resolve s (addr s b off.toNat 64) 512 64 .write none .vector 1 = (.ok [(va, pa, len), (va', pa', len')], u) →
      exec (.vst t v b off) s =
        .next (withheld u (.gStore [(Chunk.mk va pa (bv.take len)), (Chunk.mk va' pa' (bv.drop len))] none))) ∧
    (resolve s (addr s b 0 64) 512 64 .write (some code) .vector 1 = (.ok [(va, pa, 512)], u) →
      exec (.vstRel t v b sc) s = .next (withheld u (.gStore [(Chunk.mk va pa bv)] (some sc)))) ∧
    (len + len' = 512 →
      resolve s (addr s b 0 64) 512 64 .write (some code) .vector 1 = (.ok [(va, pa, len), (va', pa', len')], u) →
      exec (.vstRel t v b sc) s =
        .next (withheld u (.gStore [(Chunk.mk va pa (bv.take len)), (Chunk.mk va' pa' (bv.drop len))] (some sc)))) ∧
    (t.width ≠ 4 → ∀ l, l.length = 64 →
      resolveLanes (t.width / 8) .write 1 ((List.range 64).map (laneAddr s b i)) s = (.ok l, u) →
      exec (.vstx t v b i) s = .next (withheld u (.gStore ((List.range 64).map fun j =>
        (Chunk.mk (l.getD j (0, 0, 0)).1 (l.getD j (0, 0, 0)).2.1
          (toBytes (t.width / 8) (lane t.width (u.core.vx v) j).toNat))) none))) ∧
    (t.width = 4 → exec (.vstx t v b i) s = .next (illegal s)) ∧
    (resolve s (s.core.sx b).toNat 8 8 .atomic none .future 2 = (.ok [(va, pa, len)], u) →
      exec (.stf x b) s = .next (withheld u (.stf va pa (u.core.sx x) none))) ∧
    (resolve s (s.core.sx b).toNat 8 8 .atomic (some code) .future 2 = (.ok [(va, pa, len)], u) →
      exec (.stfRel x b sc) s = .next (withheld u (.stf va pa (u.core.sx x) (some sc))))

/-- 11 R254; 08 R179: an access that is misaligned raises ALIGN before anything is translated, and one that does not
resolve raises what resolve found, at the address it found. -/
def Sys2Proof.Claims.GlobalAccessFaults : Prop :=
  ∀ (n : Bool) (z : BitVec 3) (off : BitVec 4) (d : SDst) (x b : SSrc) (s u : State) (f : IssueFault),
    let k := 2 ^ (z.toNat % 4)
    let a := addr s b off.toNat k
    z ≠ 7 →
    (a % k ≠ 0 →
      exec (.ld n z d b off) s = .next (s.trapAt s.core.iss.pos 0x06 0 (BitVec.ofNat 64 a)) ∧
      exec (.st z x b off) s = .next (s.trapAt s.core.iss.pos 0x06 0 (BitVec.ofNat 64 a))) ∧
    (resolve s a k k .read none .scalar 0 = (.error f, u) →
      exec (.ld n z d b off) s = .next (u.trapAt u.core.iss.pos f.code f.detail (BitVec.ofNat 64 f.va))) ∧
    (resolve s a k k .write none .scalar 1 = (.error f, u) →
      exec (.st z x b off) s = .next (u.trapAt u.core.iss.pos f.code f.detail (BitVec.ofNat 64 f.va)))

/-- 11 R260: atomics. The entry holds the operation, the word, its size, the operands read at issue, the order, the
scope and the register that the old value will go to; CAS takes a pair of registers and an odd first one is ILLEGAL.
-/
def Obligations.Atomics : Prop :=
  ∀ (n : Bool) (sc : Scope) (g : SDst) (b : SSrc) (o : Ord) (sz : Bool) (s u : State) (va pa len : Nat),
    let k := if sz then 8 else 4
    let v := s.core.xr g
    let dst := if n = true ∨ g = 0 then none else some g
    let found := fun (op : AOp) => resolve s (s.core.sx b).toNat k k .atomic (some (scopeCode sc)) (.atomic op.hostOk) 2 =
      (.ok [(va, pa, len)], u)
    let holds := fun (i : Instr) (op : AOp) => found op →
      exec i s = .next (withheld u (.atom op va pa k 0 v o sc dst u.core.beat))
    room u →
    (g.val % 2 = 0 → found .cas → exec (.cas n sc g b o sz) s =
      .next (withheld u (.atom .cas va pa k v (s.core.xn (g.val + 1)) o sc dst u.core.beat))) ∧
    (g.val % 2 = 1 → exec (.cas n sc g b o sz) s = .next (illegal s)) ∧
    holds (.atomAdd n sc g b o sz) .add ∧ holds (.atomAnd n sc g b o sz) .and ∧ holds (.atomOr n sc g b o sz) .or ∧
    holds (.atomXor n sc g b o sz) .xor ∧ holds (.atomMin n sc g b o sz) .min ∧ holds (.atomMax n sc g b o sz) .max ∧
    holds (.atomMinu n sc g b o sz) .minu ∧ holds (.atomMaxu n sc g b o sz) .maxu ∧
    holds (.atomSwap n sc g b o sz) .swap

/-- 11 R262 to R264; 12 R272: fences and the prefetch. The acquire part empties the L1 data cache but for scope CORE, lets
no load before it fill it again, and makes later loads wait for every pending load; the release part is an entry. A fence of one path twice, or of a path above
4, is ILLEGAL. A prefetch changes no register and no entry, and never traps; it marks no register, and only behind an acquire does it
wait. -/
def Obligations.Fences : Prop :=
  ∀ (sc : Scope) (p q : BitVec 3) (l1 : Bool) (b : SSrc) (off : BitVec 4) (s : State),
    let acq : State := { s with core := { s.core with
      pend := s.core.pend.map fun (r : Pend) => match r.wait with
        | .load ps sx w o cached => { r with wait := .load ps sx w o (cached && decide (sc = .core)), block := true }
        | .futureFwd _ _ => { r with block := true }
        | _ => r
      port := { s.core.port with l1d := if sc = .core then s.core.port.l1d else [] } } }
    exec (.fenceAcq sc) s = .next acq ∧
    (room s → exec (.fenceRel sc) s = .next (withheld s (.fenceRel sc)) ∧
      exec (.fenceAr sc) s = .next (withheld acq (.fenceRel sc)) ∧
      (p ≠ q → p.toNat ≤ 4 → q.toNat ≤ 4 →
        exec (.fencex sc p q) s = .next (withheld s (.fencex sc p.toNat q.toNat)))) ∧
    (¬ room s → exec (.fenceAr sc) s = .next (s.trapAt s.core.iss.pos 0x0C 0 0)) ∧
    (p = q ∨ 4 < p.toNat ∨ 4 < q.toNat → exec (.fencex sc p q) s = .next (illegal s)) ∧
    ∃ t ps, exec (.pref l1 b off) s = .next t ∧ t.core.arch = s.core.arch ∧ t.core.pend = s.core.pend ++ ps ∧
      (∀ q ∈ ps, q.dst = .none ∧ q.block = false) ∧ ((∀ q ∈ s.core.pend, q.block = false) → ps = []) ∧
      t.core.cbuf = s.core.cbuf ∧ t.core.flight = s.core.flight ∧ t.core.level = s.core.level ∧ t.core.pc = s.core.pc

/-- 06 R147, R149; 10 R228 to R238: matrix slots. A command whose record passes the layout checks and its own is
withheld with a copy of the record, after the swap it asks for; a failing check raises SHAPE with its code. ACCRD of
an idle, clean region answers after 4 beats; MWAIT waits for the commands of its mask. -/
def Obligations.MatrixSlots : Prop :=
  ∀ (n : Bool) (h : Fin 8) (sw : Bool) (bar : Option BarOp) (b : Option BarRef) (xs : SSrc) (vd : VDst) (d : SDst)
      (s : State),
    let t := swapped s h sw
    let r := t.core.arch.d[h]
    let x := t.core.sx xs
    let x0 := s.core.sx xs
    let code := recCheck t.gangSize r
    let cmds := [(Instr.wld h sw bar xs, MKind.wld, wldOk r x), (Instr.mma h sw bar xs, MKind.mma, mmaOk r x),
      (Instr.accst h sw bar xs, MKind.accst, accOk r x false), (Instr.accld h sw bar xs, MKind.accld, accOk r x true)]
    (∀ c ∈ cmds,
      (code = 0 → c.2.2 = true → room s → barOpt t bar b →
        exec c.1 s = .next (withheld t (matrixEntry t c.2.1 r x b))) ∧
      (code ≠ 0 → exec c.1 s = .next (t.trapAt s.core.iss.pos 0x07 code 0)) ∧
      (code = 0 → c.2.2 = false → exec c.1 s = .next (t.trapAt s.core.iss.pos 0x07 13 0))) ∧
    (room s → exec (.accclr xs) s = .next (withheld s (matrixEntry s .accclr 0 x0 none))) ∧
    (mgrpOk x0 = true → room s → exec (.mgrp xs) s = .next (withheld s (matrixEntry s .mgrp 0 x0 none))) ∧
    (mgrpOk x0 = false → exec (.mgrp xs) s = .next (s.trapAt s.core.iss.pos 0x07 13 0)) ∧
    (∀ v, aCol x0 < 24 → s.regionBusy s.core.pcore (aCol x0 / 6) = false → s.core.block (aRow x0) (aCol x0) = .ok v →
      exec (.accrd n vd xs) s = .next (toMv s 4 n vd v)) ∧
    (aCol x0 < 24 → s.regionBusy s.core.pcore (aCol x0 / 6) = true → exec (.accrd n vd xs) s =
      .next (pending s (if n = true then .none else .v vd) (.accrd (aRow x0) (aCol x0)) (mLatchOf s) false)) ∧
    (24 ≤ aCol x0 → exec (.accrd n vd xs) s = .next (s.trapAt s.core.iss.pos 0x07 13 0)) ∧
    (d ≠ 0 → exec (.mwait d xs) s = .next (pending s (.x d) (.mwait (((s.matrixWork s.core.pcore).filter fun m =>
      m.inMask (x0.extractLsb' 0 6).toNat).map (·.id)) none) (mLatchOf s) false)) ∧
    (d = 0 → exec (.mwait d xs) s = .next (illegal s))

/-- 13 R288, R294, R295: copy slots. A command whose records and form pass the checks is withheld with copies of its
records and operands and its barrier; the first register of its group is aligned to the group or the slot is ILLEGAL.
-/
def Sys2Proof.Claims.CopySlots : Prop :=
  ∀ (h : Fin 8) (sw dense post : Bool) (bar : BarOp) (x : SDst) (s : State) (b : BarRef),
    let t := swapped s h sw
    let r := t.core.arch.d[h]
    let ops := fun n => regs t x n
    let op := fun i => t.core.xn (x.val + i)
    let code := fun (r : Rec) => recCheck t.gangSize r
    let al := if grouped r then 4 else unitBytes r
    let a := t.core.arch.d[((op 3).extractLsb' 0 3).toNat % 8]
    let e := t.core.arch.d[((op 0).extractLsb' 0 3).toNat % 8]
    let plain := plainRec r = true
    let loc := dense = true ∨ (op 0).toNat + boxBytes r ≤ 3145728
    room s → barRef t bar true = some b → code r = 0 →
    (x.val % 2 = 0 → plain → loc → (op 0).toNat % al = 0 →
      (mcastOf r = 0 → exec (.copyOut h sw bar dense x) s =
        .next (withheld t (copyEntry t (.copyOut dense) [r] (ops 2) b))) ∧
      exec (.copyIn h sw bar dense x) s = .next (withheld t (copyEntry t (.copyIn dense) [r] (ops 2) b))) ∧
    (x.val % 2 = 0 → weightOk t r (op 0) = true →
      exec (.copys h sw bar x) s = .next (withheld t (copyEntry t .copys [r] (ops 2) b))) ∧
    (x.val % 4 = 0 → weightOk t r (op 0) = true → code a = 0 → followOk r (op 0) a (op 2) = true →
      exec (.copym h sw bar post x) s = .next (withheld t (copyEntry t (.copym post) [r, a] (ops 4) b))) ∧
    (x.val % 2 = 0 → plain → mcastOf r = 0 → code e = 0 → plainRec e = true → boxElems r = boxElems e →
      (elemOf r = elemOf e ∨ (grouped r = false ∧ grouped e = false)) →
      exec (.copyx h sw bar x) s = .next (withheld t (copyEntry t .copyx [r, e] (ops 2) b))) ∧
    (x.val % 4 = 0 → plain → mcastOf r = 0 → 2 ≤ rankOf r → (op 2).toNat % 4 = 0 → (op 0).toNat % al = 0 →
      exec (.gath h sw bar dense x) s = .next (withheld t (copyEntry t (.gath dense) [r] (ops 3) b))) ∧
    (x.val % 2 = 0 → plain → mcastOf r = 0 → (elemOf r = 4 ∨ elemOf r = 8 ∨ elemOf r = 10) →
      (op 0).toNat % unitBytes r = 0 →
      exec (.redcAdd h sw bar x) s = .next (withheld t (copyEntry t (.redc 0) [r] (ops 2) b)) ∧
      exec (.redcMax h sw bar x) s = .next (withheld t (copyEntry t (.redc 1) [r] (ops 2) b)) ∧
      exec (.redcMin h sw bar x) s = .next (withheld t (copyEntry t (.redc 2) [r] (ops 2) b))) ∧
    (x.val % 2 = 1 → exec (.copyOut h sw bar dense x) s = .next (illegal s) ∧
      exec (.copyIn h sw bar dense x) s = .next (illegal s) ∧ exec (.copys h sw bar x) s = .next (illegal s) ∧
      exec (.copyx h sw bar x) s = .next (illegal s) ∧ exec (.redcAdd h sw bar x) s = .next (illegal s) ∧
      exec (.redcMax h sw bar x) s = .next (illegal s) ∧ exec (.redcMin h sw bar x) s = .next (illegal s)) ∧
    (x.val % 4 ≠ 0 → exec (.copym h sw bar post x) s = .next (illegal s) ∧
      exec (.gath h sw bar dense x) s = .next (illegal s))

/-- 06 R149, 13 R295: a copy whose primary record fails a layout check raises SHAPE with the code, and one that breaks
its form raises SHAPE 13; a misaligned dense address raises ALIGN with the address. -/
def Sys2Proof.Claims.CopyFaults : Prop :=
  ∀ (h : Fin 8) (sw dense : Bool) (bar : BarOp) (x : SDst) (s : State), x.val % 2 = 0 →
    let t := swapped s h sw
    let r := t.core.arch.d[h]
    let a := (t.core.xn x.val).toNat
    let code := recCheck t.gangSize r
    let al := if grouped r then 4 else unitBytes r
    let fits := plainRec r = true ∧ (dense = true ∨ a + boxBytes r ≤ 3145728)
    (code ≠ 0 → exec (.copyIn h sw bar dense x) s = .next (t.trapAt s.core.iss.pos 0x07 code 0)) ∧
    (code = 0 → ¬ fits → exec (.copyIn h sw bar dense x) s = .next (t.trapAt s.core.iss.pos 0x07 13 0)) ∧
    (code = 0 → fits → a % al ≠ 0 →
      exec (.copyIn h sw bar dense x) s = .next (t.trapAt s.core.iss.pos 0x06 0 (BitVec.ofNat 64 a)))

/-- 06 R149; 13 R288, R294, R295: copy slots and where they trap. -/
def Obligations.CopyCommands : Prop := Sys2Proof.Claims.CopySlots ∧ Sys2Proof.Claims.CopyFaults

/-- 13 R309, R310; 14 R331 to R333, R339: queries of the copy engine, cancellation, pipes, SPAWN and STATFL. -/
def Obligations.EngineSlots : Prop :=
  ∀ (n : Bool) (d : SDst) (a b : SSrc) (e : Fin 8) (src : PipeSrc) (dst : PipeDst) (bar : Option BarOp)
      (r : Option BarRef) (s : State),
    let q := s.core.eng.pipes[e]
    let va := (s.core.sx a).toNat
    let data := match src with
      | .x r => (s.core.sx r).setWidth 4096
      | .v r => s.core.vx r
    let gets := match dst with
      | .x d => (if n = true ∨ d = 0 then PDst.none else .x d, false)
      | .v d => (if n = true then PDst.none else .v d, true)
    exec (.cpqSummary n d) s = .next (toMx s 4 n d (BitVec.ofNat 64 (summaryWord s.core))) ∧
    exec (.cpqEntry n d a) s =
      .next (toMx s 4 n d (BitVec.ofNat 64 (entryWord s.core ((s.core.sx a).extractLsb' 0 6).toNat))) ∧
    (room s →
      exec (.cpcan a b) s = .next (withheld s (.cpcan ((s.core.sx a).extractLsb' 0 6).toNat
        ((s.core.sx a).extractLsb' 8 2).toNat (s.core.sx b))) ∧
      exec .statfl s = .next (withheld s .statfl) ∧
      (va % 64 = 0 → barOpt s bar r → exec (.spawn bar a) s = .next (withheld s (.spawn va r))) ∧
      (q.role = 1 → exec (.pipw e src) s = .next (withheld s (.pipw e.val
        ((s.gangOf s.core).getD q.peerMember ((s.core.seat.map (·.lcore)).getD 0)) q.peerEnd data)))) ∧
    (va % 64 ≠ 0 → exec (.spawn bar a) s = .next (s.trapAt s.core.iss.pos 0x06 0 (BitVec.ofNat 64 va))) ∧
    (q.role ≠ 1 → exec (.pipw e src) s = .next (illegal s)) ∧
    (q.role = 2 →
      (let t := pending s gets.1 (.pipe e.val s.core.arch.rd[e] gets.2) (mLatchOf s) false
       exec (.pipr n dst e) s =
        .next { t with core := { t.core with arch := { t.core.arch with rd := t.core.arch.rd.set e (s.core.arch.rd[e] + 1) } } }) ∧
      exec (.pipq n d e) s = .next (toMx s 2 n d
        (BitVec.ofNat 64 ((q.base + q.entries.length - s.core.arch.rd[e]) % 32 + q.depth * 256)))) ∧
    (q.role = 1 → exec (.pipr n dst e) s = .next (illegal s) ∧
      exec (.pipq n d e) s = .next (toMx s 2 n d (BitVec.ofNat 64 (q.outstanding % 32 + q.depth * 256 + 2 ^ 15)))) ∧
    (q.role = 0 → exec (.pipq n d e) s = .next (illegal s))

/-- 15 R359; 16 R373, R374; 08 R175: barrier slots. An index names a barrier of the issuing core, a register names one
of a logical core of the context, which BINIT, BWAIT and BTRY allow for the own one only. BWAIT on a barrier that the
segment's own entries would move raises WAITSELF. -/
def Obligations.BarrierSlots : Prop :=
  ∀ (n : Bool) (bar : BarOp) (x : SSrc) (xd : SDst) (s : State) (r : BarRef),
    let v := s.core.sx x
    let own := (s.core.seat.map (·.lcore)).getD 0
    let inRange := -(2 ^ 39) ≤ v.toInt ∧ v.toInt ≤ 2 ^ 39 - 1
    let word := s.core.bar r.idx
    let moved := barPhase word ≠ ((s.core.xr xd).extractLsb' 0 4).toNat
    (∀ i : BitVec 8, barRef s (.idx i) true = some (BarRef.mk false own i.toNat) ∧
      barRef s (.idx i) false = some (BarRef.mk false own i.toNat)) ∧
    (let l := (v.extractLsb' 8 10).toNat
     let found := some (BarRef.mk true l (v.extractLsb' 0 8).toNat)
     (l < s.lcores → barRef s (.name x) true = found ∧ (l = own → barRef s (.name x) false = found) ∧
       (l ≠ own → barRef s (.name x) false = none)) ∧ (s.lcores ≤ l → barRef s (.name x) true = none)) ∧
    (barRef s bar true = some r → room s →
      exec (.barv bar) s = .next (withheld s (.barrier r .arrive)) ∧
      (inRange → exec (.barvExp bar x) s = .next (withheld s (.barrier r (.arriveExp v))) ∧
        exec (.bexp bar x) s = .next (withheld s (.barrier r (.expect v))))) ∧
    (¬ inRange → exec (.barvExp bar x) s = .next (illegal s) ∧ exec (.bexp bar x) s = .next (illegal s)) ∧
    (barRef s bar true = none → exec (.barv bar) s = .next (s.trapAt s.core.iss.pos 0x05 1 0)) ∧
    (barRef s bar false = some r →
      (v.extractLsb' 0 16 ≠ 0 → room s →
        exec (.binit bar x) s = .next (withheld s (.barrier r (.init (v.extractLsb' 0 16).toNat)))) ∧
      (xd ≠ 0 → (∀ e ∈ s.core.cbuf, e.kind.movesBar ((s.core.seat.map (·.member)).getD 0) own r.idx = false) →
        exec (.bwait bar xd) s = .next (pending s (.x xd)
          (.barrier r.idx ((s.core.xr xd).extractLsb' 0 4).toNat) (mLatchOf s) false)) ∧
      (xd ≠ 0 → (∃ e ∈ s.core.cbuf, e.kind.movesBar ((s.core.seat.map (·.member)).getD 0) own r.idx = true) →
        exec (.bwait bar xd) s = .next (s.trapAt s.core.iss.pos 0x0D 1 0)) ∧
      (¬ moved → exec (.btry n bar xd) s =
        .next (toMx s 2 n xd (BitVec.ofNat 64 (barPhase word + 16 * barFlags word)))) ∧
      (moved → exec (.btry n bar xd) s =
        .next (toMx { s with core := { s.core with port := { s.core.port with l1d := [] } } } 2 n xd
          (BitVec.ofNat 64 (barPhase word + 16 * barFlags word + 256))))) ∧
    (v.extractLsb' 0 16 = 0 → exec (.binit bar x) s = .next (illegal s)) ∧
    (xd = 0 → exec (.bwait bar xd) s = .next (illegal s))

/-! ## What happens to a core (03 R72, R73; 04 R109 to R111; 07 R163 to R166; 08 R170 to R187) -/

/-- 03 R72, R74; 02 R57; 04 R110: the results due on a core land and leave the flight, and no others; a sleeping core has
first passed the beats that it slept (log 97). A register that no due result names keeps its value; one that due results
name takes theirs, of two the one due later, and of two due together the one issued later. X0 and the shape registers
keep their values. FPFLAGS takes up the flags that land. -/
def Obligations.ResultLandings : Prop :=
  ∀ (c : Nat) (s : State),
    let r := s.switch c
    let n := match r.core.sleep with
      | some p => (r.tick - p.2) * 4845 / r.cycle r.core.pcore
      | none => 0
    let t := { r.core with beat := r.core.beat + n, sleep := r.core.sleep.map fun (p : Nat × Nat) => (p.1, max p.2 r.tick) }
    ∃ u : Core, exec (.resultLanding c) s = .next { r with core := u } ∧
      u.flight = t.flight.filter (fun f => decide (t.beat < f.due)) ∧ u.beat = t.beat ∧ u.sleep = t.sleep ∧ u.pc = t.pc ∧
      u.ck = t.ck ∧ u.pend = t.pend ∧ u.cbuf = t.cbuf ∧ u.drain = t.drain ∧ u.level = t.level ∧ u.sp = t.sp ∧ u.mx = t.mx ∧
      u.arch.d = t.arch.d ∧ u.arch.x[0] = t.arch.x[0] ∧
      (∀ d : SDst, (∀ f ∈ t.flight, f.due ≤ t.beat → ∀ v, f.dst ≠ .x d v) → u.arch.x[d] = t.arch.x[d]) ∧
      (∀ (d : SDst) (v : Word), d ≠ 0 → (∃ f ∈ t.flight, f.due ≤ t.beat ∧ f.dst = .x d v) →
        (∀ f ∈ t.flight, f.due ≤ t.beat → ∀ w, f.dst = .x d w → w = v) → u.arch.x[d] = v) ∧
      (∀ (d : SDst) (f g : Flight) (v w : Word), d ≠ 0 → t.flight = [f, g] → f.due ≤ t.beat → g.due ≤ t.beat →
        f.dst = .x d v → g.dst = .x d w → u.arch.x[d] = if f.due ≤ g.due then w else v) ∧
      ((∀ f ∈ t.flight, f.isCsr = false) → ∀ k < 5, (u.arch.fpflags.getLsbD k = true ↔
        t.arch.fpflags.getLsbD k = true ∨ ∃ f ∈ t.flight, f.due ≤ t.beat ∧ f.flags.getLsbD k = true))

/-- 03 R73, R74; 10 R237, R238; 11 R255; 14 R332; 16 R374: a pending result lands once what it waits for has come, not
before, and never before an older result of fixed latency for its register. With it the results due land first; then its
register takes the value, but for one that a higher slot of its own bundle has given a result due by now, and the latch
takes it, unless a checkpoint has passed; a shadow record takes all but the fields of such results (06 R148). A load delivers
what was read, after every earlier load and acquire (log 9). A BWAIT lands 2 beats after its issue at the soonest, and not
while an earlier load with acquire order is pending (12 R273; log 101), a MWAIT that found nothing to wait for 4 beats after its
issue. -/
def Obligations.PendingLandings : Prop :=
  ∀ (c k : Nat) (s : State) (q : Pend),
    let t := s.switch c
    let give := fun (v : VWord) (t : State) => { t with core := t.core.landPend k v }
    let i := Instr.variableResultLanding c k
    let time := max t.core.ltime (t.tick * 4845)
    let after := fun (n : Nat) => q.time + n * t.cycle t.core.pcore
    t.core.pend[k]? = some q →
    (∀ v : VWord,
      let u := t.core.landDue
      let w := t.core.landPend k v
      let newer := t.core.flight.filter fun f =>
        f.aims q.dst && decide (f.issued = q.beat) && decide (q.slot < f.pos) && decide (f.due ≤ t.core.beat)
      w.pend = t.core.pend.eraseIdx k ∧ w.ck = t.core.ck ∧ w.pc = t.core.pc ∧ w.cbuf = t.core.cbuf ∧
      w.flight = t.core.flight.filter (fun f => decide (t.core.beat < f.due)) ∧
      (q.dst = .none → w.arch = u.arch) ∧
      (newer ≠ [] → (∀ d, q.dst ≠ .sd d) → w.arch = u.arch) ∧
      (newer = [] →
        (∀ d, q.dst = .x d → (d = 0 → w.arch = u.arch) ∧
          (d ≠ 0 → w.arch = { u.arch with x := u.arch.x.set d (v.setWidth 64) })) ∧
        (∀ d, q.dst = .v d → w.arch = u.arch.setV d v)) ∧
      (∀ d, q.dst = .sd d →
        (newer = [] → w.arch = { u.arch with sd := u.arch.sd.set d (v.setWidth 1024) }) ∧
        (∀ f, newer = [f] → w.arch = ({ u.arch with sd := u.arch.sd.set d (v.setWidth 1024) } : Arch).land f)) ∧
      ((∀ d, q.dst ≠ .sd d) → w.lat[Fin.ofNat 8 q.latch] = if q.fresh then v else u.lat[Fin.ofNat 8 q.latch])) ∧
    ((∃ f ∈ t.core.flight, f.aims q.dst = true ∧ f.issued < q.beat ∧ t.core.beat < f.due) → exec i s = .next t) ∧
    ((∀ f ∈ t.core.flight, f.aims q.dst = true → f.issued < q.beat → f.due ≤ t.core.beat) →
      (∀ idx ph, q.wait = .barrier idx ph →
        let b := t.core.bar idx
        (barPhase b = ph ∨ t.core.movesBar idx = true ∨ t.core.loadHolds k = true ∨ time < after 2 → exec i s = .next t) ∧
        (barPhase b ≠ ph → t.core.movesBar idx = false → t.core.loadHolds k = false → after 2 ≤ time →
          exec i s = .next (give (BitVec.ofNat 4096 (barPhase b + 16 * barFlags b))
            { t with core := { t.core with port := { t.core.port with l1d := [] } } }))) ∧
      (∀ e n vec, q.wait = .pipe e n vec →
        let p := t.core.eng.pipes[Fin.ofNat 8 e]
        (p.entries[n - p.base]? = none → exec i s = .next t) ∧
        (∀ m, p.entries[n - p.base]? = some m →
          exec i s = .next (give (if vec then m else (m.setWidth 64).setWidth 4096) t))) ∧
      (∀ row col, q.wait = .accrd row col →
        (t.regionBusy t.core.pcore (col / 6) = true → exec i s = .next t) ∧
        (∀ v, t.regionBusy t.core.pcore (col / 6) = false → t.core.block row col = .ok v →
          exec i s = .next (give v t) ∧ (t.core.pend = [q] → t.core.pcore = c → exec (.accrdBusyLand c) s = .next (give v t)))) ∧
      (∀ ids last, q.wait = .mwait ids last →
        ((∃ m ∈ t.matrixWork t.core.pcore, m.id ∈ ids) → exec i s = .next t) ∧
        ((∀ m ∈ t.matrixWork t.core.pcore, m.id ∉ ids) →
          (ids ≠ [] → exec i s = .next (give (BitVec.ofNat 4096 (last.getD t.tick)) t)) ∧
          (ids = [] → time < after 4 → exec i s = .next t) ∧
          (ids = [] → after 4 ≤ time → exec i s = .next (give (BitVec.ofNat 4096 (after 4 / 4845)) t)))) ∧
      (∀ va pa l1, q.wait = .pref va pa l1 → (t.core.blockedAt k = true → exec i s = .next t) ∧
        (t.core.blockedAt k = false → ∃ u, exec i s = .next u ∧ u.core.pend = t.core.pend.eraseIdx k ∧
          u.core.arch = t.core.arch ∧ u.core.flight = t.core.flight ∧ u.mem.bytes = t.mem.bytes)) ∧
      (∀ ctx req joined, (q.wait = .freeze ctx req joined none → exec i s = .next t) ∧
        ∀ st, q.wait = .freeze ctx req joined (some st) → exec i s = .next (give (BitVec.ofNat 4096 st) t)) ∧
      (∀ ps sx w l1, q.wait = .load ps sx w none l1 →
        (t.core.loadBefore k ps = true ∨ t.core.blockedAt k = true → exec i s = .next t) ∧
        (t.core.loadBefore k ps = false → t.core.blockedAt k = false →
          (∀ p ∈ ps, nodeOf p.pa ≠ 3 ∧ t.core.awaitsAtom p = false) →
          ∀ bs u, readPieces l1 ps t = (.ok bs, u) → exec i s = .next (give (loadValue q.dst sx w bs) u))))

/-- 11 R257, R259; 14 R335, R336: a request of LDF at its home slice in device memory. It goes once its back-off has passed,
no acquire stands before it, the core's own committed writes to the word are performed, its earlier loads of the word have
landed, no earlier request of the core is refused at the slice, and the replay window has a place for it. A full word
answers it and stays full, the answer held while an older result for its register is in flight; an empty one defers it,
while fewer than 32 requests wait there, and else sends it away for a back-off. -/
def Obligations.FutureRequests : Prop :=
  ∀ (c k : Nat) (s : State) (q : Pend) (va pa retry : Nat) (deferred : Bool) (own : List (Option Byte)),
    let x := s.getCore c
    let i := Instr.ldfRequestResolve c k
    let full := NSet.has s.mem.full (pa / 8) = true
    let waiting := (s.mem.defer.filter fun d => nodeOf d.pa == nodeOf pa && d.slice == sliceOf pa).length
    let marked := fun (b : Bool) (n : Nat) => x.pend.set k { q with wait := .future va pa none b n own }
    let goes := retry ≤ s.tick ∧ deferred = false ∧ x.blockedAt k = false ∧ x.writesWord pa = false ∧
      x.readBefore k pa = false ∧ x.refusedBefore k pa = false ∧ (0 < retry ∨ x.windowRoom = true)
    x.pend[k]? = some q → q.wait = .future va pa none deferred retry own → pa + 8 ≤ 2 ^ 38 →
    (¬ goes → exec i s = .next s) ∧
    (goes → full → x.laterFixed q = true → ∀ t, fetchPoison (s.payer c) pa 8 s = (none, t) →
      ∃ u, exec i s = .next u ∧ u.mem.bytes = s.mem.bytes ∧
        (u.getCore c).pend = x.pend.set k { q with wait := .futureFwd (futureWord own (s.pnat pa 8)) none }) ∧
    (goes → full → x.laterFixed q = false → ∀ t, fetchPoison (s.payer c) pa 8 s = (none, t) →
      ∃ u, exec i s = .next u ∧ u.mem.bytes = s.mem.bytes ∧ u.mem.full = s.mem.full ∧
        let v := (futureWord own (s.pnat pa 8)).setWidth 4096
        (u.getCore c).arch = (x.landPend k v).arch ∧ (u.getCore c).pend = x.pend.eraseIdx k ∧
        (u.getCore c).port.l1d = Tab.del x.port.l1d (pa / 64)) ∧
    (goes → ¬ full → 32 ≤ waiting →
      ∃ u, exec i s = .next u ∧ (u.getCore c).pend = marked false (s.tick + s.bridge.backoff) ∧ u.mem = s.mem) ∧
    (goes → ¬ full → waiting < 32 →
      ∃ u, exec i s = .next u ∧ (u.getCore c).pend = marked true 0 ∧
        u.mem.defer = s.mem.defer ++ [(Deferred.mk (sliceOf pa) pa c)] ∧ u.mem.bytes = s.mem.bytes)

/-- 08 R177; 11 R251, R252, R256, R258, R260, R263; 16 R374: the oldest committed entry of a core takes effect and
leaves, or waits. A store writes its bytes, and every other byte of memory stays (the dirty log of the context being
off); STF fills its word; an atomic writes its result and delivers the old value to its register and the checkpoint; a
release waits for the acknowledgements that it needs. An entry that is lost is reported. Entries go in order, but for an
engine command behind plain stores alone, which may go before them (12 R269, R277, R280): the order of the others, and the free
choice, are the model's reading (log 32). An entry that notes a loaf's coverage goes with the store before it; no such entry
follows here. -/
def Obligations.DrainedEntries : Prop :=
  ∀ (c k : Nat) (link : Bool) (s : State) (e : Entry) (es : List Entry),
    let t := s.switch c
    let i := Instr.commitBufferDrain c
    let r : State := { t with core := { t.core with drain := es } }
    let unlogged := ∀ x, Tab.get s.ctxs e.ctx = some x → x.logBase = 0
    (t.core.drain = [] → exec i s = .next t) ∧
    (t.core.drain = e :: es → t.core.overtaker = none → r.core.coversNext = false →
      (∀ va pa bs, e.kind = .gStore [(Chunk.mk va pa bs)] none → pa + bs.length ≤ 2 ^ 38 → unlogged →
        ∃ u, exec i s = .next u ∧ u.core.drain = es ∧ u.mem.bytes = s.mem.bytes.write pa bs ∧ u.mem.host = s.mem.host ∧
          u.core.arch = t.core.arch ∧ u.core.sp = t.core.sp ∧ u.core.pc = t.core.pc) ∧
      (∀ va pa v, e.kind = .stf va pa v none → pa + 8 ≤ 2 ^ 38 → unlogged →
        ∃ u, exec i s = .next u ∧ u.mem.bytes = s.mem.bytes.write pa (toBytes 8 v.toNat) ∧
          NSet.has u.mem.full (pa / 8) = true ∧ ∀ d ∈ u.mem.defer, d.pa ≠ pa) ∧
      (∀ op va pa n cmp v sc d beat, e.kind = .atom op va pa n cmp v .plain sc (some d) beat → d ≠ 0 → pa + n ≤ 2 ^ 38 →
        poisonOf r pa n = none → unlogged → t.core.self = (e.ctx, e.lcore) → t.core.seat ≠ none →
        (∀ f ∈ t.core.flight, f.issued < beat) →
        ∃ u, exec i s = .next u ∧ u.core.drain = es ∧
          u.mem.bytes = s.mem.bytes.write pa (toBytes n (op.apply n cmp.toNat v.toNat (s.mem.bytes.nat pa n))) ∧
          u.core.arch.x[d] = BitVec.ofNat 64 (s.mem.bytes.nat pa n) ∧ u.core.ck.x[d] = u.core.arch.x[d]) ∧
      (∀ sc, e.kind = .fenceRel sc → (r.acked e.ctx e.lcore sc = true → exec i s = .next r) ∧
        (r.acked e.ctx e.lcore sc = false → exec i s = .next t)) ∧
      (∀ b v, e.kind = .barrier b (.expect v) → b.lcore = e.lcore → ∀ u,
        (r.barUpdate e.ctx b.lcore b.idx (.expect v) = (.landed, u) → u.core.coversNext = false → exec i s = .next u) ∧
        (r.barUpdate e.ctx b.lcore b.idx (.expect v) = (.refused, u) → exec i s = .next t)) ∧
      (∀ m, e.kind = .matrix m →
        (r.core.mx.queue.length < 8 → exec i s = .next (r.matrixEnter r.core.pcore { m with tick := e.tick })) ∧
        (8 ≤ r.core.mx.queue.length → exec i s = .next t)) ∧
      (∀ n v, e.kind = .csr n v →
        let mine := t.core.self.1 = e.ctx ∧ t.core.seat ≠ none
        (mine → exec i s = .next (r.csrCommit e.level n v)) ∧
        (¬ mine → n = 0x070 → exec i s =
          .next (r.onCtx e.ctx fun x => { x with statRing := fieldsOf x.statRing v (csrMask n e.level) })) ∧
        (¬ mine → n ≠ 0x070 → exec i s = .next r))) ∧
    (t.core.overtaker = none ↔ ∀ (k : Nat) (o : Entry), t.core.drain[k]? = some o →
      (∀ p ∈ t.core.drain.take k, p.kind.isPassed = true) → 0 < k → o.kind.isEngine = false) ∧
    (∀ k o, t.core.overtaker = some k → t.core.drain[k]? = some o →
      let f := t.choose 2
      let v : State := { f.2 with core := { f.2.core with drain := f.2.core.drain.eraseIdx k } }
      (∀ p ∈ t.core.drain.take k, p.kind.isPassed = true) ∧ o.kind.isEngine = true ∧ 0 < k ∧
      (f.1 = 0 → exec i s = .next f.2.drainFirst) ∧
      (f.1 = 1 → (∀ w, v.perform o = some w → exec i s = .next w) ∧ (v.perform o = none → exec i s = .next f.2.drainFirst))) ∧
    (∀ cs rel, t.core.drain[k]? = some e → e.kind = .gStore cs rel →
      exec (.wrfailReport c k link) s = .next (({ t with core := { t.core with drain := t.core.drain.eraseIdx k } } : State).trapRec
        e.ctx e.lcore (eventRec 0x23 (if link then 4 else 3) 0 0 t.tick e.bundle ((cs.map (·.va)).headD 0) [] 0xFFFFFFFF))) ∧
    (let x := s.getCore c
     exec (.writeAcknowledge c k) s = .next (s.setCore { x with port := { x.port with acks := x.port.acks.eraseIdx k } }))

/-- 08 R178 to R180, R182; 07 R156; 01 R28: taking a trap. The core goes back to its checkpoint, its withheld entries, results
in flight and pending registers are gone, its committed entries stay; cause, address, info, return address and status
are in the trap registers, the kernel's state in the save area, and the steward begins at trap.vec with an empty loop
stack and an inactive modulo sequencer. A trap of a trap handler stops the core; a fault of a kernel that a pre-emption
has claimed is discarded with the segment (01 R28). That trap.save names device memory by its physical address is the
model's reading (log 7). -/
def Obligations.TrapEntry : Prop :=
  ∀ (pos code detail : Nat) (info : Word) (s : State),
    let c := s.core
    let t := s.trapAt pos code detail info
    let inTrap := c.csr.status.getLsbD 2 = true
    ((c.level = .u ∧ c.preempt = none) ∨ (c.level ≠ .u ∧ ¬ inTrap) →
      t.core.csr.cause = BitVec.ofNat 64 (detail % 256 * 2 ^ 16 + pos % 8 * 2 ^ 8 + code % 256) ∧
      t.core.csr.baddr = c.pc ∧ t.core.csr.info = info ∧ t.core.csr.ret = c.ckAddr ∧
      t.core.csr.status = BitVec.ofNat 64 (4 + match c.level with | .u => 0 | .s => 1 | .h => 2) ∧
      t.core.csr.vec = c.csr.vec ∧ t.core.csr.save = c.csr.save ∧
      t.core.pc = c.csr.vec ∧ t.core.ckAddr = c.csr.vec ∧ t.core.level = .s ∧ t.core.phase = .run ∧
      t.core.arch = { c.ck with loops := [], modq := .reset } ∧ t.core.ck = t.core.arch ∧
      t.core.flight = [] ∧ t.core.pend = [] ∧ t.core.cbuf = [] ∧ t.core.drain = c.drain ∧
      (∀ i : Fin 8, t.core.lat[i] = 0) ∧ t.core.iss.stopped = true ∧
      t.mem.bytes = (s.stream (c.csr.save.toNat % 2 ^ 45) (c.ck.saveItems c.ckAddr)).mem.bytes) ∧
    (c.level = .u → c.preempt ≠ none → t.core.csr = c.csr ∧ t.core.arch = c.ck ∧ t.core.pc = c.ckAddr ∧ t.core.level = .u ∧
      t.core.flight = [] ∧ t.core.pend = [] ∧ t.core.cbuf = [] ∧ t.core.drain = c.drain ∧ t.core.iss.stopped = true ∧
      t.mem.bytes = s.mem.bytes) ∧
    (c.level ≠ .u → inTrap → t.core.phase = .halted ∧ t.core.cbuf = [] ∧ t.core.pend = [] ∧ t.core.arch = c.ck)

/-- 04 R109; 07 R166; 08 R170, R175, R177; 14 R334: checkpoint slots. CKPT waits while a register is pending. Then the
segment's entries are committed, the state with every result in flight is the checkpoint at the bundle, the latches
are clear, and registers and memory stay. YIELD does the same, and parks the step where another would run. FREEZE does
the same, then answers a malformed request with status 1 and one on no context of its interface with 2, and queues any
other; issued again at the checkpoint that its request left from, it joins the request, or answers 0 where that has ended.
-/
def Obligations.CheckpointSlots : Prop :=
  ∀ (n : Bool) (d : SDst) (a : SSrc) (s : State),
    let c := s.core
    let waits := ∃ q ∈ c.pend, q.dst ≠ .none
    let dst : PDst := if n = true ∨ d = 0 then .none else .x d
    (waits → exec .ckpt s = .next s ∧ exec .yield s = .next s ∧ (c.level ≠ .u → exec (.freeze n d a) s = .next s)) ∧
    (¬ waits →
      ((∀ e ∈ c.cbuf ++ c.drain, e.kind.atCommit = false ∧ ∀ op va pa n x y o sc d b, e.kind ≠ .atom op va pa n x y o sc d b) →
        (∀ e : Fin 8, c.arch.rd[e] = c.eng.pipes[e].base) →
        ∃ t, exec .ckpt s = .next t ∧ t.core.ck = c.folded ∧ t.core.ckAddr = c.pc ∧ t.core.cbuf = [] ∧
          (∀ i : Fin 8, t.core.lat[i] = 0) ∧ t.core.arch = c.arch ∧ t.core.pc = c.pc ∧ t.core.segBundles = 0 ∧
          t.mem = s.mem ∧ c.drain <+: t.core.drain ∧ c.drain.length + c.cbuf.length ≤ t.core.drain.length) ∧
      exec .ckpt s = .next s.checkpoint ∧
      (let t := s.checkpoint
       (t.wouldYield = false → exec .yield s = .next t) ∧
       (∀ z, t.core.seat = some z → t.core.awaitsOld = false → t.core.yielded = false → t.core.atBoundary = true →
         t.wouldYield = true →
         let u := ({ t with core := { t.core with yielded := true } } : State).park t.core.pcore
         u.core.seat = none →
         exec .yield s = .next (u.onStep z.task z.wid fun w => { w with rotate := decide (w.cores ≠ []) })) ∧
       (c.level ≠ .u → t.core.awaitsOld = false →
         let v := t.core.sx a
         let ctx := (v.extractLsb' 0 10).toNat
         let mode := (v.extractLsb' 16 2).toNat
         let req := mode + 4 * t.core.ckId
         let latch := t.core.iss.unit % 2
         let answer := fun (st : Nat) => pending t dst (.freeze ctx req false (some st)) latch false
         (mode = 3 ∨ v &&& ~~~(0x303FF : Word) ≠ 0 → exec (.freeze n d a) s = .next (answer 1)) ∧
         (mode ≠ 3 → v &&& ~~~(0x303FF : Word) = 0 →
           let asked := ∃ x, Tab.get t.ctxs ctx = some x ∧ req ∈ x.stopping
           (t.core.frzCk = some t.core.ckId →
             (asked → exec (.freeze n d a) s = .next (pending t dst (.freeze ctx req true none) latch false)) ∧
             (¬ asked → exec (.freeze n d a) s = .next (answer 0))) ∧
           (t.core.frzCk ≠ some t.core.ckId →
             (Tab.get t.ctxs ctx = none → exec (.freeze n d a) s = .next (answer 2)) ∧
             ∀ x, Tab.get t.ctxs ctx = some x →
               (x.vi ≠ t.core.vi → exec (.freeze n d a) s = .next (answer 2)) ∧
               (x.vi = t.core.vi →
                 ∃ u, exec (.freeze n d a) s = .next u ∧ u.core.pend = t.core.pend ++
                   [(Pend.mk dst (.freeze ctx req false none) latch t.core.beat t.core.ltime true t.core.pc t.core.iss.pos
                     false)] ∧ Tab.get u.ctxs ctx = some { x with stopping := x.stopping ++ [req] }))))))

/-- 04 R101, R111; 07 R163, R164; 01 R26: what STEPEND, SYS and ERET lead to once no result is pending; until then
beats pass, in which the results in flight land (log 33). ERET waits for the atomics of its segment too (12
R276). SYS commits the
segment and enters the steward with SYSCALL as cause and the bundle after it as return address; ERET goes back to trap.ret
at the level that trap.status holds, with the state that the save area holds, or raises ILLEGAL where trap.status asks for
more than the level at hand or trap.ret is no multiple of 4; STEPEND ends its member, and the step with its last. The
checkpoint of SYS at the bundle after it is the model's reading (log 31), as is the retirement member by member (log 24).
-/
def Obligations.SlotEnds : Prop :=
  ∀ (c fn pos : Nat) (bundle : Word) (s : State),
    let t := s.switch c
    (t.core.pend ≠ [] →
      let landed : State := { t with core := t.core.landAll }
      (t.core.phase = .stepEnd → exec (.stepRetire c) s = .next landed) ∧
      (t.core.phase = .sys fn pos bundle → exec (.syscallEntry c) s = .next landed) ∧
      (t.core.phase = .eret pos bundle → exec (.eretReturn c) s = .next landed) ∧
      t.core.landAll.flight = [] ∧ t.core.landAll.pend = t.core.pend) ∧
    (t.core.pend = [] → t.core.phase = .sys fn pos bundle →
      let r := ({ t with core := t.core.landAll } : State).checkpoint
      ((∀ e ∈ t.core.cbuf ++ t.core.drain, ∀ op va pa n x y o sc d b, e.kind ≠ .atom op va pa n x y o sc d b) →
        r.core.awaitsOld = false) ∧
      (r.core.awaitsOld = true → exec (.syscallEntry c) s = .next r) ∧
      (r.core.awaitsOld = false →
        ∃ u, exec (.syscallEntry c) s = .next u ∧ u.core.csr = { r.core.csr with
            cause := BitVec.ofNat 64 (fn % 256 * 2 ^ 16 + pos % 8 * 2 ^ 8 + 0x10), baddr := bundle, info := 0, ret := r.core.pc
            status := BitVec.ofNat 64 (4 + match r.core.level with | .u => 0 | .s => 1 | .h => 2) } ∧
          u.core.pc = r.core.csr.vec ∧ u.core.level = .s ∧ u.core.phase = .run ∧
          u.core.arch = { r.core.ck with loops := [], modq := .reset })) ∧
    (t.core.pend = [] → t.core.phase = .eret pos bundle →
      let r := ({ t with core := { t.core.landAll with pc := bundle } } : State).commitAll
      let v := drainWhile (fun c => c.stewardDraining || c.awaitsOld) 8192 { r with core := r.core.dropOld.takeCkpt bundle }
      let want := (v.core.csr.status.extractLsb' 0 2).toNat
      let have_ := match v.core.level with | .u => 0 | .s => 1 | .h => 2
      let goes := want < 2 ∧ want ≤ have_ ∧ v.core.csr.ret.toNat % 4 = 0
      (v.core.awaitsOld = true → exec (.eretReturn c) s = .next v) ∧
      (v.core.awaitsOld = false → ¬ goes → exec (.eretReturn c) s = .next (v.trapAt pos 0x01 0 0)) ∧
      (v.core.awaitsOld = false → goes →
        let lv := if want = 0 then Level.u else .s
        let x := archAt v.patched (v.core.csr.save.toNat % 2 ^ 45) v.core.eng.pipes
        ∀ q w, deriveModulo { v with core := { v.core with level := lv } } x.modq = (some q, w) → w.core.asyncDue = false →
          ∃ u, exec (.eretReturn c) s = .next u ∧ u.core.pc = w.core.csr.ret ∧ u.core.level = lv ∧
            u.core.arch = { x with modq := q } ∧ u.core.ck = u.core.arch ∧ u.core.ckAddr = w.core.csr.ret ∧
            u.core.csr.status.getLsbD 2 = false ∧ u.core.phase = .run ∧ u.mem = w.mem)) ∧
    (t.core.pend = [] → t.core.phase = .stepEnd → ∀ z, t.core.seat = some z →
      (∃ u, exec (.stepRetire c) s = .next u ∧ (u.getCore t.core.pcore).seat = none) ∧
      ∀ w k, t.stepOf z.task z.wid = some w → t.taskOf z.task = some k → w.lcores.length ≤ 1 →
        ∃ u, exec (.stepRetire c) s = .next u ∧ (u.getCore t.core.pcore).seat = none ∧ u.stepOf z.task z.wid = none ∧
          ∃ k', u.taskOf z.task = some k' ∧ k'.done = NSet.add k.done (numberOf k.tiles w.idx))

/-- 04 R110; 08 R181, R184, R187; 01 R27, R28: a sleeping core wakes at its tick, its results of the beats slept landed; a
trap record is delivered at once to a kernel that waits; a pre-emption parks a core that stands at a boundary and claims
any other from now on; a trap handler that has kept a priority-0 step waiting for 16,000 ticks is abandoned. -/
def Sys2Proof.Claims.Interruptions : Prop :=
  ∀ (c : Nat) (s : State),
    let t := s.switch c
    let x := s.getCore c
    (∀ k since, t.core.sleep = some (k, since) → ∃ u : Core,
      let v := t.reach k
      exec (.sleepWake c) s = .next { v with core := u } ∧ u.sleep = none ∧ u.pc = t.core.pc ∧ u.pend = v.core.pend ∧
        u.beat = t.core.beat + (v.tick - since) * 4845 / v.cycle t.core.pcore ∧
        (u.flight = t.core.flight.filter fun f => decide (u.beat < f.due)) ∧
        (k < 2 ^ 64 → v = { t with tick := max t.tick k }) ∧
        (2 ^ 64 ≤ k → v.tick = k % 2 ^ 64)) ∧
    (t.core.sleep = none → exec (.sleepWake c) s = .next t) ∧
    (t.pendingRec = none → exec (.asyncTrapDelivery c) s = .next t) ∧
    (∀ r v, t.pendingRec = some r → t.waits = (false, v) → exec (.asyncTrapDelivery c) s = .next t) ∧
    (∀ r, t.pendingRec = some r → t.core.phase = .run → (∃ k since, t.core.sleep = some (k, since) ∧ t.tick < k) →
      t.waits = (true, t)) ∧
    (∀ r v, t.pendingRec = some r → t.waits = (true, v) →
      ∃ u, exec (.asyncTrapDelivery c) s = .next u ∧
        u.core.csr.cause = BitVec.ofNat 64 (2 ^ 31 + v.pnat (r + 1) 1 % 256 * 2 ^ 16 + v.pnat r 1 % 256) ∧
        u.core.csr.baddr = v.core.pc ∧ u.core.csr.info = BitVec.ofNat 64 r ∧ u.core.csr.ret = v.core.ckAddr ∧
        u.core.pc = v.core.csr.vec ∧ u.core.level = .s ∧ u.core.cbuf = [] ∧
        u.core.arch = { v.core.ck with loops := [], modq := .reset }) ∧
    (x.seat = none → exec (.preemption c) s = .next s) ∧
    (∀ z w, x.seat = some z → s.stepOf z.task z.wid = some w → w.cores = [c] → x.preempt = none →
      (x.atBoundary = false → x.phase ≠ .halted →
        exec (.preemption c) s = .next (s.setCore { x with preempt := some (s.tick, false) })) ∧
      (x.atBoundary = true → x.phase ≠ .halted → (((s.rollbackAt c).park c).getCore c).seat = none →
        exec (.preemption c) s = .next ((s.rollbackAt c).park c))) ∧
    ((x.preempt.map (·.2)).getD false = false → exec (.trapHandlerAbandon c) s = .next s) ∧
    (∀ k, x.preempt = some (k, true) → x.seat ≠ none → x.csr.status.getLsbD 2 = true → x.phase = .run → x.mustDrain = false →
      let r := s.reach (k + 16000)
      exec (.trapHandlerAbandon c) s = .next (((r.setCore (r.getCore c).dropProof).savedState c).park c))

/-- 09 R197, R205, R208; 08 R192; 17 R393: single cores. Time reaches the tick after the expiry of a loaf; a proofing
loaf with less than 20,000 ticks left gets a life of 200,000; a waiting engine request costs the core one cycle; a
quarantined pair takes work again; a resident logical core is left as by a pre-emption, its gang with it (01 R23). -/
def Sys2Proof.Claims.CoreServices : Prop :=
  ∀ (c l ctx f : Nat) (s : State),
    let x := s.getCore c
    (x.heldLoaf l = some f →
      exec (.loafExpire c l) s = .next (s.reach ((x.sp.loafAt f).expiry + 1))) ∧
    (∀ k, k < 2 ^ 64 → s.reach k = { s with tick := max s.tick k }) ∧
    (x.heldLoaf l = none → exec (.loafExpire c l) s = .next s) ∧
    (∀ q t u, x.sp.proof = some q → Tab.get q.map l = some f → s.taskOf q.task = some t → s.stepOf q.task q.wid = some u →
      Tab.get x.sp.holder f = some .proofing → s.tick ≤ (x.sp.loafAt f).expiry →
      ((x.sp.loafAt f).expiry < s.tick + 20000 → exec (.proofingLoafRenew c l) s =
        .next (s.setCore { x with sp := { x.sp with loaf := Tab.put x.sp.loaf f (Loaf.mk 200000 (s.tick + 200000)) } })) ∧
      (s.tick + 20000 ≤ (x.sp.loafAt f).expiry → exec (.proofingLoafRenew c l) s = .next s)) ∧
    (x.enginesBusy = true → exec (.bankGuardGrant c) s = .next (s.setCore { x with ltime := x.ltime + s.cycle c })) ∧
    (x.enginesBusy = false → exec (.bankGuardGrant c) s = .next s) ∧
    (∃ u, exec (.pairQuarantineClear c) s = .next u ∧
      ∀ p, u.getCore p = if p / 2 = c % 128 / 2 then { s.getCore p with quarantined := false } else s.getCore p) ∧
    (∀ p, s.place ctx l = .resident p → exec (.logicalCoreAbsent ctx l) s = exec (.preemption p) s) ∧
    ((∀ p, s.place ctx l ≠ .resident p) → exec (.logicalCoreAbsent ctx l) s = .next s)

/-- 04 R110; 08 R181, R184, R187, R192; 09 R197, R205, R208; 17 R393: what interrupts a core, and what single cores
are served. -/
def Obligations.CoreInterruptions : Prop := Sys2Proof.Claims.Interruptions ∧ Sys2Proof.Claims.CoreServices

/-- 16 R370 to R372: a barrier update at a resident logical core that owns the barrier. The byte count, the arrivals
and the phase follow the update; an arrival that nobody waits for, and a count out of range, only set poisoned; a
phase completes when no arrival and no byte is pending, a byte post that brings the last bytes included. -/
def Sys2Proof.Claims.BarrierUpdates : Prop :=
  ∀ (ctx l idx : Nat) (upd : BarUpdate) (s : State) (x : Ctx) (k : Core),
    Tab.get s.ctxs ctx = some x →
    (s.divState x l = 1 → s.residentCore ctx l = some k → barOwner (k.bar idx) = (ctx, barName l idx) →
      exec (.barrierUpdateApply ctx l idx upd) s = .next (s.setCore (k.setBar idx (barApply (k.bar idx) upd)))) ∧
    (s.divState x l = 3 → exec (.barrierUpdateApply ctx l idx upd) s = .next s) ∧
    (∀ b : Nat, b < 2 ^ 128 →
      let bounded := fun (v : Int) => max (-(2 ^ 39)) (min (2 ^ 39 - 1) v)
      -- the counts as an update leaves them, and the check for completion after it
      let checks := fun (n : Nat) (bytes : Int) (arrivals : Nat) =>
        barBytes n = bytes ∧ barExp n = barExp b ∧ barOwner n = barOwner b ∧
        (barExp b ≠ 0 ∧ arrivals = 0 ∧ bytes = 0 → barPend n = barExp b ∧ barPhase n = (barPhase b + 1) % 16) ∧
        (¬ (barExp b ≠ 0 ∧ arrivals = 0 ∧ bytes = 0) → barPend n = arrivals ∧ barPhase n = barPhase b)
      let poisons := fun (n : Nat) (p : Prop) =>
        (p → barFlags n = 4 + barFlags b % 4) ∧ (¬ p → barFlags n = barFlags b)
      (barPend b = 0 → barApply b .arrive = barPoison b ∧ ∀ v, barApply b (.arriveExp v) = barPoison b) ∧
      (barPend b ≠ 0 →
        (let n := barApply b .arrive
         checks n (barBytes b) (barPend b - 1) ∧ barFlags n = barFlags b) ∧
        ∀ v : Word,
          let n := barApply b (.arriveExp v)
          let y := barBytes b + v.toInt
          checks n (bounded y) (barPend b - 1) ∧ poisons n (bounded y ≠ y)) ∧
      (∀ v : Word,
        let n := barApply b (.expect v)
        let y := barBytes b + v.toInt
        checks n (bounded y) (barPend b) ∧ poisons n (bounded y ≠ y)) ∧
      (∀ (m : Nat) (p : Bool),
        let n := barApply b (.post m p)
        let y := barBytes b - (m : Int)
        checks n (bounded y) (barPend b) ∧ poisons n (bounded y ≠ y ∨ p = true)) ∧
      (∀ n, 0 < n → n < 2 ^ 16 → barPend (barApply b (.init n)) = n ∧ barExp (barApply b (.init n)) = n ∧
        barPhase (barApply b (.init n)) = 0 ∧ barBytes (barApply b (.init n)) = 0 ∧
        barOwner (barApply b (.init n)) = barOwner b ∧ barFlags (barApply b (.init n)) = barFlags b % 2))

/-- 16 R370 to R372: barrier updates. -/
def Obligations.BarrierCounts : Prop := Sys2Proof.Claims.BarrierUpdates

/-- 14 R335, R336; 15 R342, R361, R362: messages complete, each in the state after its event. A message that waits behind
an earlier one to its receiver, or that has been accepted or refused, stays. One that its port has not resolved is
resolved through the naming cache of its cluster; where its logical core is resident it is under way to that core, and
where it is absent it lands in the image. At the core it lands while its logical core runs there: accepted once, refused
and held for the back-off, or dropped and reported where nobody owns what it names. Where its logical core has left, a forwarding entry passes it on, and it is refused
without one. An accepted message leaves its window at its acknowledgement; after the back-off the port sends a refused one
again; a forwarding entry is free at its expiry. -/
def Obligations.FabricMessageEvents : Prop :=
  ∀ (c k : Nat) (s : State),
    let x := s.getCore c
    let w := x.port.window
    let putting := fun (s : State) (w : List Msg) =>
      let y := s.getCore c
      s.setCore { y with port := { y.port with window := w } }
    let setting := fun (s : State) (m : Msg) => putting s ((s.getCore c).port.window.set k m)
    (∃ t, exec (.fabricMessageReceive c k) s = .next t) ∧
    (∀ m, w[k]? = some m →
      let stays := m.st ≠ .sent ∨ ∃ o ∈ w.take k, o.ctx = m.ctx ∧ o.lcore = m.lcore ∧ o.st ≠ .accepted
      let lands := fun (n : State) =>
        (∀ t, n.arrive m = (.landed, t) → exec (.fabricMessageReceive c k) s =
          .next (setting (t.unpend m.ctx m.lcore) { m with st := .accepted })) ∧
        (∀ t, n.arrive m = (.refused, t) → exec (.fabricMessageReceive c k) s =
          .next (setting t { m with st := .refused (t.tick + t.bridge.backoff), dest := none })) ∧
        (∀ a t, n.arrive m = (a, t) → a = .nobody ∨ a = .wrongOwner → exec (.fabricMessageReceive c k) s =
          .next (setting ((t.unpend m.ctx m.lcore).copyFault m.ctx m.src 1 m.handle m.bundle 0 [] 0xFFFFFFFF)
            { m with st := .accepted }))
      (stays → exec (.fabricMessageReceive c k) s = .next s) ∧
      (¬ stays → m.dest = none →
        let n := s.lookName (clusterOf c) m.ctx m.lcore
        (∀ q, n.place m.ctx m.lcore = .resident q →
          exec (.fabricMessageReceive c k) s = .next (setting n { m with dest := some q })) ∧
        ((∀ q, n.place m.ctx m.lcore ≠ .resident q) → lands n)) ∧
      (¬ stays → ∀ q, m.dest = some q →
        let here := ∃ z, (s.getCore q).seat = some z ∧ z.ctx = m.ctx ∧ z.lcore = m.lcore
        (here → lands s) ∧
        (¬ here →
          (∀ f, s.fwdAt q m = some f →
            exec (.fabricMessageReceive c k) s = .next (setting s { m with dest := some f.pcore })) ∧
          (s.fwdAt q m = none → exec (.fabricMessageReceive c k) s =
            .next (setting s { m with st := .refused (s.tick + s.bridge.backoff), dest := none })))) ∧
      (m.st = .accepted → exec (.fabricAcknowledge c k) s = .next (putting s (w.eraseIdx k))) ∧
      (m.st ≠ .accepted → exec (.fabricAcknowledge c k) s = .next s)) ∧
    (w[k]? = none → exec (.fabricMessageReceive c k) s = .next s ∧ exec (.fabricAcknowledge c k) s = .next s) ∧
    (∃ u, exec (.replayResend c) s = .next u ∧ (u.getCore c).port.window = w.map fun (m : Msg) =>
      match m.st with
      | .refused t => if t ≤ s.tick then { m with st := .sent, dest := none } else m
      | _ => m) ∧
    (∀ f, x.port.fwd[k]? = some f →
      let r := s.reach f.expiry
      let y := r.getCore c
      exec (.forwardingEntryExpire c k) s = .next (r.setCore { y with port := { y.port with fwd := y.port.fwd.eraseIdx k } })) ∧
    (x.port.fwd[k]? = none → exec (.forwardingEntryExpire c k) s = .next s)

/-! ## Queues, tasks and the dispatcher (01 R18 to R26; 09 R205; 14 R312 to R329; 17 R397) -/

/-- 14 R312 to R317: notify writes, packet reads, admission and markers. A queue that does not run ignores notify
writes; a malformed descriptor stops it with error 3, an index too far ahead with 1, a packet that cannot be read with
2. A packet that breaks its layout is refused with status 1; a held one waits for the packets before it; a marker
completes when it is the oldest open one. A frozen or resuming context takes no packet (17 R402, R404). rd_index moves, and its copy with it, when the processor is done with a
packet: it is refused, or its work is admitted. -/
def Obligations.QueueEvents : Prop :=
  ∀ (vi q : Nat) (val : BitVec 32) (s : State) (v : Vi), s.viOf vi = some v → q < 64 →
    let a := v.queueTable + 64 * q
    let g := fun (o n : Nat) => s.pnat (a + o) n
    let p := s.pq vi q
    let left := (g 24 4 + 2 ^ 32 - g 28 4) % 2 ^ 32
    let size := 2 ^ g 8 1
    let stopped := fun (t : State) (err : Nat) => (t.dput (a + 9) 1 2).dput (a + 32) 1 err
    (g 9 1 = 1 → exec (.notifyWrite vi q val) s = .next (s.dput (a + 24) 4 val.toNat)) ∧
    (g 9 1 ≠ 1 → exec (.notifyWrite vi q val) s = .next s ∧ exec (.packetProcess vi q) s = .next s) ∧
    (s.isFrozen (g 10 2) = true → exec (.packetProcess vi q) s = .next s ∧ exec (.packetAdmit vi q) s = .next s) ∧
    (g 9 1 = 1 → p.current = none → s.isFrozen (g 10 2) = false →
      (s.queueBad vi a = true → exec (.packetProcess vi q) s = .next (stopped s 3)) ∧
      (s.queueBad vi a = false →
        (left = 0 → exec (.packetProcess vi q) s = .next s) ∧
        (size < left → exec (.packetProcess vi q) s = .next (stopped s 1)) ∧
        (0 < left → left ≤ size → ∀ t : State,
          (s.devRead (g 10 2) (g 0 8 + 64 * (g 28 4 % size)) 64 = (none, t) →
            exec (.packetProcess vi q) s = .next (stopped t 2)) ∧
          (∀ w : Nat, s.devRead (g 10 2) (g 0 8 + 64 * (g 28 4 % size)) 64 = (some w, t) →
            exec (.packetProcess vi q) s = .next (t.setPq
              { p with current := some (Packet.mk p.next (BitVec.ofNat 512 w) none), next := p.next + 1 }))))) ∧
    (∀ t : State, t.viOf vi = some v →
      let r := t.setPq { t.pq vi q with current := none }
      let m := r.dput (a + 28) 4 ((r.pnat (a + 28) 4 + 1) % 2 ^ 32)
      (m.pnat (a + 16) 8 = 0 → t.passPacket vi q = m) ∧
      (m.pnat (a + 16) 8 ≠ 0 → t.passPacket vi q =
        (m.devWrite (m.pnat (a + 10) 2) (m.pnat (a + 16) 8) 8 ((r.pnat (a + 28) 4 + 1) % 2 ^ 32)).2)) ∧
    (∀ k : Packet, p.current = some k → k.post = none → s.isFrozen (g 10 2) = false →
      let w := k.bytes.toNat
      let l := launchOf w (some q) k.num none
      let refused := fun (t : State) (st : Nat) =>
        ((t.putDone (g 10 2) l.doneAddr (2 ^ 64 - 256 + st)).passPacket vi q).queueIrq vi q l.fences
      let opened := fun (t : State) =>
        (t.setPq { t.pq vi q with open_ := (t.pq vi q).open_ ++ [k] }).passPacket vi q
      let held := l.fences.getLsbD 2 = true ∧ p.open_ ≠ []
      (packetBad w = true → exec (.packetAdmit vi q) s = .next (refused s 1)) ∧
      (packetBad w = false → held → exec (.packetAdmit vi q) s = .next s) ∧
      (packetBad w = false → ¬ held →
        (w % 256 = 3 → exec (.packetAdmit vi q) s = .next (opened s)) ∧
        (w % 256 ≠ 3 → ∀ t : State,
          (s.admitLaunch (g 10 2) w l = (.done, t) → exec (.packetAdmit vi q) s = .next (opened t)) ∧
          (∀ st, s.admitLaunch (g 10 2) w l = (.refused st, t) → exec (.packetAdmit vi q) s = .next (refused t st)) ∧
          (s.admitLaunch (g 10 2) w l = (.held, t) → exec (.packetAdmit vi q) s = .next s)))) ∧
    (p.open_ = [] → exec (.markerComplete vi q) s = .next s) ∧
    (∀ (k : Packet) (ks : List Packet), p.open_ = k :: ks → k.post = none →
      let l := launchOf k.bytes.toNat none k.num none
      (k.bytes.toNat % 256 ≠ 3 → exec (.markerComplete vi q) s = .next s) ∧
      (k.bytes.toNat % 256 = 3 → exec (.markerComplete vi q) s =
        .next (((s.putDone (g 10 2) l.doneAddr l.doneValue.toNat).closePacket vi q k.num).queueIrq vi q l.fences)))

/-- 14 R317, R318, R322, R324; 01 R26: generation and completion. The next step of a task that has not retired is generated
while fewer than 256 wait for a predecessor, Ready when it has none. A task completes when every step has retired; its completion word is
written and its walker entry is free. A retired step is gone and its number is in its task's bitmap. -/
def Obligations.TaskEvents : Prop :=
  ∀ (id : Nat) (s : State) (t : Task), s.taskOf id = some t →
    let waiting := (s.steps.filter fun u => u.task == id && u.state = .blocked).length
    let g := t.nextUndone t.done.length t.nextGen
    let idx := indicesOf t.tiles g
    let n := s.counterOf t idx
    (NSet.has t.done t.nextGen = false → g = t.nextGen) ∧
    (t.steps ≤ g ∨ s.isFrozen t.ctx = true ∨ 256 ≤ waiting → exec (.walkerGenerate id) s = .next s) ∧
    (g < t.steps → s.isFrozen t.ctx = false → waiting < 256 → ∃ (u : State) (w : Step), exec (.walkerGenerate id) s = .next u ∧
      u.steps = s.steps ++ [w] ∧ w.task = id ∧ w.wid = widOf t.widths idx ∧ w.idx = idx ∧ w.counter = n ∧
      w.state = (if n = 0 then .ready else .blocked) ∧ w.lcores = [] ∧ w.cores = [] ∧ w.restarts = 0 ∧
      u.tasks = s.tasks.map (fun k => if k.id = id then { k with nextGen := g + 1 } else k) ∧
      u.mem = s.mem ∧ u.core = s.core) ∧
    (t.retired = true ∨ s.isFrozen t.ctx = true ∨ (∃ k ∈ s.siblings t, k.done.length < k.steps) → exec (.completionWordWrite id) s = .next s) ∧
    (t.retired = false → t.queue = none → t.graph = none → t.post = none → t.steps ≤ t.done.length →
      t.fences.getLsbD 1 = false → s.isFrozen t.ctx = false →
      let r := s.putDone t.ctx t.doneAddr t.doneValue.toNat
      ∃ u : State, exec (.completionWordWrite id) s = .next u ∧ u.steps = r.steps ∧ u.core = r.core ∧
        (∀ k ∈ u.tasks, k.id = id → k.graph ≠ none) ∧
        (∀ x, Tab.get r.ctxs t.ctx = some x →
          u.mem = (r.stream ((r.walkerOf x).1 + 128 * t.slot) [(33, 1, 0)]).mem)) ∧
    (∀ (wid : Nat) (u : Step), s.stepOf id wid = some u →
      (s.retireStep id wid).stepOf id wid = none ∧
      ∃ k, (s.retireStep id wid).taskOf id = some k ∧ k.done = NSet.add t.done (numberOf t.tiles u.idx))

/-- 01 R22 to R24; 09 R205; 14 R326, R327; 17 R397: the dispatcher. It considers the eligible steps; a step that fits
and that the balance covers is launched, one short of energy only is held. A killed step is gone. A proofing area
takes loaves that nobody reserves, and the kernel of its step is fetched (its first 64 bytes: log 138); a parked step goes to
the core that is asked for, when it fits, and one that is to move to a core that is named goes there or nowhere. The free
choices among cores are the model's (log 18). -/
def Obligations.DispatchEvents : Prop :=
  ∀ (isl c : Nat) (s : State) (t : Task) (u : Step) (x : Ctx) (v : Vi),
    let i := isl % 4
    let tried := s.tryVariants i x t u (permitted t u)
    (∀ k w, (k, w) ∈ s.considered i ↔ w ∈ s.steps ∧ s.taskOf w.task = some k ∧ s.eligible i k w = true) ∧
    (s.considered i = [] → exec (.stepDispatch isl) s = .next s) ∧
    (s.considered i = [(t, u)] → s.stepOf t.id u.wid = some u → s.tenant t = some (x, v) →
      (tried.1 = true → exec (.stepDispatch isl) s = .next (tried.2.claim i)) ∧
      (tried.1 = false → (tried.2.lacksEnergy i x t u = true ↔
        (∀ n ∈ permitted t u, tried.2.affords i x.vi t u n = false) ∧
        (u.state = .parked ∨ ∃ n ∈ permitted t u, (tried.2.fit i t u n).1 ≠ none)) ∧
        (tried.2.lacksEnergy i x t u = true → exec (.stepDispatch isl) s =
          .next ((tried.2.onStep t.id u.wid fun w =>
            { w with held := max 1 w.held, state := if w.state = .ready then .held else w.state }).claim i)) ∧
        (tried.2.lacksEnergy i x t u = false → exec (.stepDispatch isl) s = .next (tried.2.claim i))) ∧
      (∀ n ns ls at_ r, permitted t u = n :: ns → s.affords i x.vi t u n = true → s.fit i t u n = (some (ls, at_), r) →
        u.state = .ready → tried = (true, r.launchStep i x t u n ls at_))) ∧
    (∀ task wid w, s.stepOf task wid = some w →
      (w.state = .resident ∨ w.state = .parked ∨ w.state = .migrating → (∃ k, s.taskOf task = some k) →
        exec (.stepKill task wid) s = .next ((s.killStep task wid).endReserve task wid) ∧
        ((s.killStep task wid).endReserve task wid).stepOf task wid = none) ∧
      (w.state ≠ .resident → w.state ≠ .parked → w.state ≠ .migrating → exec (.stepKill task wid) s = .next s)) ∧
    (let k := s.getCore c
     (((s.considered (s.islandOf (clusterOf c))).filter fun e => e.2.state = .ready || e.2.state = .held).find? fun e =>
        ((s.tenant e.1).map fun x => x.2.mask.getLsbD (clusterOf c)).getD false) = some (t, u) →
     ∀ (z : Seat) (m : Member) (ms : List Member) (w : Step), k.sp.proof = none → k.seat = some z → t.membersOf 0 = m :: ms →
     s.stepOf z.task z.wid = some w → m.loaves ≤ k.spareLoaves.length → t.preloads = [] →
     (∀ d ∈ s.allCores, d.proofs t u = false) →
     exec (.proofingAreaBuild c t.id u.wid) s = .next ((s.setCore { k with sp := { k.sp with
       proof := some (Proof.mk t.id u.wid ((List.range m.loaves).zip k.spareLoaves) (z.task, z.wid, w.restarts)) } }).fetchKernel
         c t.ctx m.entry)) ∧
    (let j := s.islandOf (clusterOf c)
     let ask := if u.moves = true then u else { u with migrate := some (u.lcores.headD 0, some c) }
     let ms := (u.running u.lcores (t.membersOf u.variant)).map fun e => (e.1, e.2.2.loaves)
     ((s.considered j).find? fun e => e.1.ctx == t.ctx && e.2.lcores.contains (u.lcores.headD 0) &&
        decide (e.2.state = .parked ∨ e.2.state = .migrating)) = some (t, u) →
     s.tenant t = some (x, v) → s.affords j x.vi t u u.variant = true → clusterOf c ∈ s.homes v j →
     ∀ r : State,
       (∀ at_, placeAll x t ask (clusterOf c) none (pinnedFirst x ask ms) [] s = (some at_, r) →
         exec (.mergeOnResume t.ctx (u.lcores.headD 0) c) s =
           .next (if Tab.get at_ (u.lcores.headD 0) = some c then r.resumeStep j x t u at_ else s)) ∧
       (placeAll x t ask (clusterOf c) none (pinnedFirst x ask ms) [] s = (none, r) →
         exec (.mergeOnResume t.ctx (u.lcores.headD 0) c) s = .next s))

/-! ## Contexts (01 R18; 03 R90; 07 R166; 15 R357; 17 R388 to R406) -/

/-- 01 R18; 03 R90; 15 R357; 17 R388: contexts come and go. Creation from a well-formed descriptor puts the context in
force, and notes status 1 where there is none; destruction leaves nothing of its tasks, graphs or packets, and ends its
requests with status 2 (log 108); an unloaded graph instance is gone, with its tasks and their steps; loading a file reports
a status, 1 for a malformed one, and adds no graph unless it is 0: then the regions are placed and mapped, the patches applied,
the regions filled, and the context has the file's graphs. Conditions that the loader's table does not name: log 28. -/
def Obligations.ContextLifecycle : Prop :=
  ∀ (vi ctx gi : Nat) (f : List Byte) (places : List Placing) (tables : List Nat) (s : State),
    (s.newCtx vi ctx = none → exec (.contextCreate vi ctx) s = .next { s with created := 1 }) ∧
    (∀ x, s.newCtx vi ctx = some x → ∃ u y, exec (.contextCreate vi ctx) s = .next u ∧ Tab.get u.ctxs ctx = some y ∧
      y.vi = x.vi ∧ y.root = x.root ∧ y.lcores = x.lcores ∧ y.map = x.map ∧ y.div = x.div ∧
      y.state = (if s.pnat (x.header + 48) 1 = 2 then 2 else 0) ∧ u.tasks = s.tasks ∧ u.created = 0) ∧
    (Tab.get s.ctxs ctx = none → exec (.contextDestroy ctx) s = .next s) ∧
    (∀ x, Tab.get s.ctxs ctx = some x → ∃ u, exec (.contextDestroy ctx) s = .next u ∧ Tab.get u.ctxs ctx = none ∧
      (∀ t ∈ u.tasks, t.ctx ≠ ctx) ∧ (∀ g ∈ u.graphs, g.ctx ≠ ctx) ∧
      ((∀ t ∈ s.tasks, t.ctx ≠ ctx) → ∀ r ∈ x.stopping, ∀ (i : Nat) (q : Pend) (j : Bool), s.core.pend[i]? = some q →
        q.wait = .freeze ctx r j none →
        u.core.pend[i]? = some { q with wait := .freeze ctx r j (some (if j then 0 else 2)) })) ∧
    (∃ u, exec (.graphInstanceUnload ctx gi) s = .next u ∧
      (∀ g, g ∈ u.graphs ↔ g ∈ s.graphs ∧ ¬ (g.ctx = ctx ∧ g.index = gi)) ∧
      (∀ t ∈ u.tasks, ¬ (t.ctx = ctx ∧ t.graph = some gi)) ∧
      (∀ t ∈ s.tasks, t.ctx = ctx → t.graph = some gi → t.retired = false → ∀ w ∈ u.steps, w.task ≠ t.id)) ∧
    ((∀ t ∈ s.tasks, t.ctx = ctx → t.graph = some gi → t.retired = true) → exec (.graphInstanceUnload ctx gi) s =
      .next { s with
        graphs := s.graphs.filter fun g => !(g.ctx == ctx && g.index == gi)
        tasks := s.tasks.filter fun t => !(t.ctx == ctx && t.graph == some gi) }) ∧
    (∃ u st, exec (.fgbLoad ctx f places tables) s = .next u ∧ u.hostData = [BitVec.ofNat 8 st] ∧ st ≤ 6 ∧
      (st ≠ 0 → u.graphs = s.graphs ∧ u.core = s.core) ∧ (Tab.get s.ctxs ctx = none → st = 4) ∧
      (∀ x, Tab.get s.ctxs ctx = some x → (headerOk f && tableOk f) = false → st = 1 ∧ u.mem = s.mem)) ∧
    (∀ t, s.load ctx f places tables = (0, t) → exec (.fgbLoad ctx f places tables) s = .next { t with hostData := [0] }) ∧
    (let plan := (regionsOf f).zip places
     ∀ x v t g p r, Tab.get s.ctxs ctx = some x → s.viOf x.vi = some v → (headerOk f && tableOk f) = true → s.policy v f = 0 →
       places.length = (regionsOf f).length → s.placePlan x plan f tables = some t →
       applyPatches plan (patchesOf f) f t = some (g, p) → fnum f 36 4 ≤ x.lclCores →
       plan.foldl (fun (o : Option State) q => o.bind fun w => w.fillRegion x q.1 q.2 g) (some p) = some r →
       ∃ u, exec (.fgbLoad ctx f places tables) s = .next u ∧ u.hostData = [0] ∧ u.mem = r.mem ∧ u.core = r.core ∧
         s.graphs <+: u.graphs ∧ (∀ w ∈ u.graphs.drop s.graphs.length, w.ctx = ctx) ∧
         Tab.get u.ctxs ctx = (Tab.get r.ctxs ctx).map fun y => { y with memUsed := y.memUsed + planBytes plan })

/-- 07 R166; 17 R393, R399, R402, R404, R406, R409: requests on a context. A suspension of a context that does not run ends
at once with status 0, and one with no resident core left and no migration under way makes it suspended; a freeze of a
frozen one, and a resume of a running one, end with 0 and 3. A resume makes the context resuming while its saved steps can
be merged, and then running (log 107); a frozen one that fits here has its saved ticks moved by the ticks since its freeze, so
that what remains of a wait stays, and its walker area taken over (a tick that would leave 64 bits: log 107). Each register
that waits for a request gets its status, 0 where its bundle joined an earlier one. A migration is noted at the step of its logical core; a rotation marks the longest
resident step of the same priority and cluster for a step that has waited longer, and that one to come first. -/
def Obligations.ContextRequests : Prop :=
  ∀ (ctx l : Nat) (dest : Option Nat) (s : State),
    (Tab.get s.ctxs ctx = none → exec (.contextSuspend ctx) s = .next s ∧ exec (.contextFreezeReflection ctx) s = .next s ∧
      exec (.contextResume ctx) s = .next s ∧ exec (.migrationRequest ctx l dest) s = .next s ∧
      exec (.rotation ctx) s = .next s) ∧
    (∀ (x : Ctx) (r : Nat) (rs : List Nat), Tab.get s.ctxs ctx = some x → x.stopping = r :: rs →
      let t := (s.openRequest ctx r).stopCtx ctx
      (r % 4 = 0 →
        (x.state ≠ 0 → exec (.contextSuspend ctx) s = .next (s.endFreeze ctx r 0)) ∧
        (x.state = 0 → t.coresOf ctx = [] → t.migrates ctx = false →
          exec (.contextSuspend ctx) s = .next ((t.putState ctx 1).endFreeze ctx r 0)) ∧
        (x.state = 0 → t.coresOf ctx ≠ [] ∨ t.migrates ctx = true →
          exec (.contextSuspend ctx) s = .next (t.ownStatus ctx r))) ∧
      (r % 4 = 1 →
        (x.state = 2 → exec (.contextFreezeReflection ctx) s = .next (s.endFreeze ctx r 0)) ∧
        (x.state = 1 → t.coresOf ctx = [] → t.migrates ctx = false → t.quiet ctx x = true →
          exec (.contextFreezeReflection ctx) s =
            .next ((t.writeReflection ctx x).endFreeze ctx r 0)) ∧
        (x.state = 1 → t.coresOf ctx = [] → t.migrates ctx = false → t.quiet ctx x = false →
          exec (.contextFreezeReflection ctx) s = .next t) ∧
        (x.state = 0 → t.coresOf ctx = [] → t.migrates ctx = false → (t.putState ctx 1).quiet ctx x = true →
          exec (.contextFreezeReflection ctx) s =
            .next (((t.putState ctx 1).writeReflection ctx x).endFreeze ctx r 0)) ∧
        (x.state ≠ 2 → t.coresOf ctx ≠ [] ∨ t.migrates ctx = true →
          exec (.contextFreezeReflection ctx) s = .next (t.ownStatus ctx r))) ∧
      (r % 4 = 2 →
        let saved := s.saving x = true ∨ ∃ e ∈ s.saves, e.1 = ctx
        (x.state = 3 → s.mergesLeft ctx = true → exec (.contextResume ctx) s = .next s) ∧
        (x.state = 3 → s.mergesLeft ctx = false → exec (.contextResume ctx) s =
          .next (((s.putState ctx 0).onCtx ctx fun y => { y with resumed := true }).endFreeze ctx r 0)) ∧
        (x.state = 0 ∨ (x.state ≠ 3 ∧ saved) → exec (.contextResume ctx) s = .next (s.endFreeze ctx r 3)) ∧
        (x.state = 2 → ¬ saved → s.fitsHere x = false →
          exec (.contextResume ctx) s = .next (s.endFreeze ctx r 4)) ∧
        (x.state = 1 → ¬ saved → exec (.contextResume ctx) s = .next ((s.putState ctx 3).openRequest ctx r)) ∧
        (x.state = 2 → ¬ saved → s.fitsHere x = true →
          exec (.contextResume ctx) s = .next (((((s.shiftTicks ctx x).takeWalker ctx x).onCtx ctx fun y =>
            { y with paired := decide (s.pnat (x.header + 74) 1 = 1) }).putState ctx 3).openRequest ctx r))) ∧
      exec (.migrationRequest ctx l dest) s = .next s) ∧
    (∀ x : Ctx,
      let frozen := s.pnat (x.header + 56) 8
      let u := s.shiftTicks ctx x
      (u.tasks = s.tasks.map fun t => if t.ctx = ctx then { t with age := t.age + s.tick - frozen } else t) ∧
      (∀ i : Fin 8, u.clusters[i] = { s.clusters[i] with lease := s.clusters[i].lease.map fun l =>
        if l.frozen = true ∧ l.ctx = ctx then { l with expiry := shiftTick l.expiry s.tick frozen } else l }) ∧
      u.core = s.core ∧ u.steps = s.steps ∧ u.tick = s.tick) ∧
    (∀ t now frozen : Nat, frozen ≤ t → t + now - frozen < 2 ^ 64 → shiftTick t now frozen = now + (t - frozen)) ∧
    (∀ req st (x : Ctx), Tab.get s.ctxs ctx = some x → x.stopping.head? = some req →
      Tab.get (s.endFreeze ctx req st).ctxs ctx = some { x with stopping := x.stopping.tail } ∧
      (s.endFreeze ctx req st).mem = s.mem ∧
      (∀ (q : Pend) (i : Nat) (j : Bool), s.core.pend[i]? = some q → q.wait = .freeze ctx req j none →
        (s.endFreeze ctx req st).core.pend[i]? = some { q with wait := .freeze ctx req j (some (if j then 0 else st)) })) ∧
    (∀ x, Tab.get s.ctxs ctx = some x → x.state = 0 → x.stopping = [] →
      ∃ u, exec (.migrationRequest ctx l dest) s = .next u ∧ u.mem = s.mem ∧ u.core = s.core ∧
        ∀ i : Nat, u.steps[i]? = (s.steps[i]?).map fun (w : Step) =>
          if (∃ t ∈ s.tasks, t.ctx = ctx ∧ t.id = w.task) ∧ l ∈ w.lcores ∧ (w.state = .resident ∨ w.state = .parked) then
            { w with migrate := some ((w.migrate.filter fun m => m.2.isSome).getD (l, dest.map (· % 128))) }
          else w) ∧
    (∀ x w t k, Tab.get s.ctxs ctx = some x →
      (s.steps.filter fun u => u.state = .parked && decide (u.parkedAt + 1000000 < s.tick) &&
        ((s.taskOf u.task).map (·.ctx)) == some ctx) = [w] →
      s.taskOf w.task = some t → s.rotatesFor x ctx t w = some k →
      exec (.rotation ctx) s = .next ((s.onStep k.task k.wid fun y => { y with rotate := true }).onStep w.task w.wid fun y =>
        { y with rotate := true }))

/-! ## Translation (15 R343 to R354) -/

/-- 11 R254; 15 R343, R347, R348: a translation that the core's TLB holds gives the page's address with the offset,
when the leaf grants the access, and ACCESS otherwise; an address that is not canonical is absent. A leaf grants a
read, a write, an atomic or a fetch by its bits 2, 3, both, or 4; at U by bit 5; and an ordering scope up to its
maximum. A host page that is absent comes before the rights. -/
def Sys2Proof.Claims.Translation : Prop :=
  ∀ (s : State) (ctx va : Nat) (w : Want) (lv : Level) (sc : Option Nat) (t : Tlb) (x : Ctx),
    let p := s.core.pcore
    let e := t.leaf
    let may := (w = .read → e.getLsbD 2 = true) ∧ (w = .write → e.getLsbD 3 = true) ∧
      (w = .atomic → e.getLsbD 2 = true ∧ e.getLsbD 3 = true) ∧ (w = .fetch → e.getLsbD 4 = true) ∧
      (lv = .u → e.getLsbD 5 = true) ∧ ∀ k, sc = some k → k ≤ (e.extractLsb' 48 3).toNat
    (canonical va = false → translate s p ctx va w lv sc = (.error .absent, s)) ∧
    (canonical va = true → s.core.port.tlb.find? (fun t => t.covers ctx va) = some t → Tab.get s.ctxs ctx = some x →
      (¬ may → (e.extractLsb' 45 2).toNat ≠ 2 → translate s p ctx va w lv sc = (.error .rights, s)) ∧
      ((e.extractLsb' 45 2).toNat = 2 → (s.atc.find? fun t => t.covers ctx va) = none → s.hostPage x.pasid va = none →
        (translate s p ctx va w lv sc).1 = .error .host) ∧
      (may → (w = .read ∨ w = .fetch ∨ e.getLsbD 7 = true) → (e.extractLsb' 45 2).toNat ≠ 2 →
        translate s p ctx va w lv sc = (.ok (t.pa + (va - t.va)), s))) ∧
    (∀ n align u acc, ∃ l, (resolve s va n align w sc u acc).2.core =
      { s.core with port := { s.core.port with tlb := l } })

/-- 08 R179; 11 R254; 15 R343, R347, R348: translation, and what an access that does not resolve raises. -/
def Obligations.TranslatedAccesses : Prop := Sys2Proof.Claims.GlobalAccessFaults ∧ Sys2Proof.Claims.Translation

/-- 11 R247, R248; 15 R348, R350, R353, R354: fills, walks and the host's translations. A walk installs the page and
sets the accessed bit of its leaf; a sector that is absent is filled, poisoned when its data is; a page that the host
returns is cached for the contexts of its PASID, an absent one is asked for, and an invalidated one is dropped. A
response ends the oldest request of its interface. A read corrects what it can, and what was corrected is counted for the
report at the end of the step; whether a scrub finds an uncorrectable error, which poisons its sector, is a free choice, and
where correctable errors stand comes from outside (log 83, 123).
The host's answers come at once in the model (log 11). -/
def Obligations.TranslationEvents : Prop :=
  ∀ (c a pasid size hpa vi : Nat) (va : Word) (rights : BitVec 3) (bad : Bool) (s : State),
    let x := s.getCore c
    let n := max 4096 size
    let lo := va.toNat / n * n
    let named := s.ctxs.filter fun e => e.2.pasid == pasid
    (x.seat = none ∨ canonical va.toNat = false → exec (.tlbMissWalk c va) s = .next s) ∧
    (∀ z, x.seat = some z → canonical va.toNat = true →
      (∀ t, x.port.tlb.find? (fun t => t.covers z.ctx va.toNat) = some t → exec (.tlbMissWalk c va) s = .next s) ∧
      (∀ y e b, x.port.tlb.find? (fun t => t.covers z.ctx va.toNat) = none →
        s.ctlb.find? (fun t => t.1 == clusterOf c && t.2.covers z.ctx va.toNat) = none → Tab.get s.ctxs z.ctx = some y →
        walk s y va.toNat = .leaf e b → x.port.tlb.length < 64 → b < 2 ^ 45 →
        ∃ u t, exec (.tlbMissWalk c va) s = .next u ∧ (u.getCore c).port.tlb = x.port.tlb ++ [t] ∧
          t.ctx = z.ctx ∧ t.pa = bits e 47 12 * 4096 ∧ t.va = va.toNat / pageSize (bits e 11 8) * pageSize (bits e 11 8) ∧
          u.mem.bytes = s.mem.bytes.write b (toBytes 8 (s.pnat b 8 ||| 64)))) ∧
    (2 ^ 38 ≤ a ∨ (Tab.get s.mem.sys (a / 64)) ≠ none → exec (.cacheSectorFill a bad) s = .next s) ∧
    (let p := bad || NSet.has s.mem.poison (a / 64)
     let r := if p = true then s else correctSector (a / 64) s
     a < 2 ^ 38 → Tab.get s.mem.sys (a / 64) = none → (r.mem.linesOf (a / 128)).length < 16 →
      ∃ u, exec (.cacheSectorFill a bad) s = .next u ∧ u.mem.bytes = r.mem.bytes ∧
        Tab.get u.mem.sys (a / 64) = some (Sector.mk false p)) ∧
    (let x := a / 64
     (NSet.has s.mem.weak x = false → correctSector x s = s) ∧
     (NSet.has s.mem.weak x = true → correctSector x s =
       { s with mem := { s.mem with weak := NSet.del s.mem.weak x, corrected := s.mem.corrected + 1 } })) ∧
    (let k := s.choose 2
     (2 ^ 38 ≤ a → exec (.patrolScrub a) s = .next k.2) ∧
     (a < 2 ^ 38 → k.1 = 0 → exec (.patrolScrub a) s = .next (correctSector (a / 64) k.2)) ∧
     (a < 2 ^ 38 → k.1 = 1 → ∃ u, exec (.patrolScrub a) s = .next u ∧ u.mem.bytes = s.mem.bytes ∧
       NSet.has u.mem.poison (a / 64) = true)) ∧
    (∃ u, exec (.atsTranslationCompletion pasid va size hpa rights true) s = .next u ∧ u.mem = s.mem ∧ u.core = s.core ∧
      HostPage.mk pasid lo n hpa rights ∈ u.hostMap ∧
      (s.atc.length + named.length ≤ 4096 →
        u.atc = s.atc ++ named.map fun e => (Tlb.mk e.1 lo n hpa (rights.setWidth 64) 0))) ∧
    (∃ u, exec (.atsTranslationCompletion pasid va size hpa rights false) s = .next u ∧ u.mem = s.mem ∧ u.atc = s.atc ∧
      (∀ h ∈ u.hostMap, ¬ (h.pasid = pasid ∧ h.va < lo + n ∧ lo < h.va + h.size)) ∧
      ∀ e ∈ named, (e.2.vi, pasid, va.toNat / 4096) ∈ u.pri) ∧
    (let range := Nat.log2 n
     ((∃ e ∈ named, s.stillDraining e.1 0 range va.toNat = true) → exec (.hostAtsInvalidate pasid va size) s = .next s) ∧
     ((∀ e ∈ named, s.stillDraining e.1 0 range va.toNat = false) →
       ∃ u, exec (.hostAtsInvalidate pasid va size) s = .next u ∧
         ∀ e ∈ named, ∀ t ∈ u.atc, t.coveredBy e.1 0 range va.toNat = false)) ∧
    ((∀ q ∈ s.pri, q.1 ≠ vi) → exec (.priPageResponse vi) s = .next s) ∧
    (∀ q qs, (s.pri.filter fun r => r.1 == vi) = q :: qs →
      exec (.priPageResponse vi) s = .next { s with pri := s.pri.erase q })

/-- 15 R351, R352: translation commands. A write of xlt.cmd queues the command with the address register; the oldest
one completes, an invalid one with err set, and one whose accesses still drain waits. An invalidation leaves no
covered translation. -/
def Obligations.TranslationCommands : Prop :=
  ∀ (vi ctx range : Nat) (s : State), vi < 64 → ctx < 1024 → range < 256 →
    let i : Fin 64 := Fin.ofNat 64 vi
    let x := s.xlt[i]
    let asked := fun (k c r : Nat) =>
      { s with xlt := s.xlt.set i { x with cmds := x.cmds ++ [(k, c, r, x.addr.toNat)] } }
    let done := fun (t : State) (bad : Bool) =>
      { t with xlt := t.xlt.set i { t.xlt[i] with
        cmds := t.xlt[i].cmds.tail, count := (t.xlt[i].count + 1) % 2 ^ 32, err := t.xlt[i].err || bad } }
    exec (.xltInvalidateRange vi ctx range) s = .next (asked 0 ctx range) ∧
    exec (.xltInvalidateContext vi ctx) s = .next (asked 1 ctx 0) ∧
    exec (.xltReloadDescriptor vi ctx) s = .next (asked 2 ctx 0) ∧
    exec (.xltCmdReservedKind vi) s = .next (asked 3 0 0) ∧
    (x.cmds = [] → exec (.xltCmdComplete vi) s = .next s) ∧
    (∀ k c r a rest, x.cmds = (k, c, r, a) :: rest →
      let bad := s.ctxInVi vi c = false ∨ k = 3 ∨ (k = 0 ∧ ¬ (12 ≤ r ∧ r ≤ 57))
      (bad → exec (.xltCmdComplete vi) s = .next (done s true)) ∧
      (¬ bad → s.stillDraining c k r a = true → exec (.xltCmdComplete vi) s = .next s) ∧
      (¬ bad → s.stillDraining c k r a = false →
        (k ≠ 2 → exec (.xltCmdComplete vi) s = .next (done (s.invalidate c k r a) false)) ∧
        (k = 2 → s.reloaded vi c = none → exec (.xltCmdComplete vi) s = .next (done s true)) ∧
        (∀ d, k = 2 → s.reloaded vi c = some d → exec (.xltCmdComplete vi) s =
          .next (done { s.invalidate c k r a with
            ctxs := Tab.put s.ctxs c d, naming := (s.invalidate c k r a).naming.filter fun e => e.ctx != c } false)))) ∧
    (∀ k r a, (∀ t ∈ (s.invalidate ctx k r a).core.port.tlb, t.coveredBy ctx k r a = false) ∧
      (∀ t ∈ (s.invalidate ctx k r a).ctlb, t.2.coveredBy ctx k r a = false) ∧
      ∀ t ∈ (s.invalidate ctx k r a).atc, t.coveredBy ctx k r a = false)

/-! ## Engines (10 R225, R236; 13 R290 to R292; 14 R338) -/

/-- 10 R225, R236; 13 R290 to R292, R306; 14 R338: engine events. At most eight copies run, and the ready one that
waits longest starts; an element that its destination does not take only counts; what its source delivers is written;
what the bridge lost comes poisoned; a copy whose elements have all moved and landed posts its bytes to its barriers, as far as
the messages find room, and leaves, a COPYM once its follow-ons have entered their queues too. The matrix
unit takes up its head and completes it in order, once it has every scale word that it can get and its messages find room: MMA,
WLD, ACCLD and ACCST as the next statement says, an ACCST whose elements are still under way staying at the head; MGRP sets the
offsets, ACCCLR the chosen regions to 0 and nothing else. -/
def Obligations.EngineEvents : Prop :=
  ∀ (c pos : Nat) (s : State),
    let x := s.getCore c
    let running := (x.eng.bte.filter fun k => k.state = .running).length
    (8 ≤ running ∨ x.nextCopy s.tick = none → exec (.copyStart c) s = .next s) ∧
    (∀ k, running < 8 → x.nextCopy s.tick = some k → (∀ b, k.kind ≠ .gath b) → k.streams = false →
      exec (.copyStart c) s = .next (s.setCore { x with eng := { x.eng with bte := x.eng.bte.map fun q =>
        if q.pos = k.pos then { q with state := .running, reported := [], table := k.table } else q } })) ∧
    (∀ k b, running < 8 → x.nextCopy s.tick = some k → k.kind = .gath b → k.table = [] → s.place k.ctx k.lcore = .moving →
      exec (.copyStart c) s = .next s) ∧
    (x.cmdAt pos = none → exec (.copyElementTransfer c pos) s = .next s ∧ exec (.linkReductionUpdate c pos) s = .next s ∧
      exec (.copyComplete c pos) s = .next s) ∧
    (∀ k, x.cmdAt pos = some k →
      let i := match k.kind with
        | .redc _ => Instr.linkReductionUpdate c pos
        | _ => Instr.copyElementTransfer c pos
      let e := k.progress
      let last := boxUnits (k.recs.headD 0)
      (k.state ≠ .running ∨ last ≤ e ∨ s.anyMoving k (k.lcore :: k.targets) = true → exec i s = .next s) ∧
      (k.state = .running → e < last → s.anyMoving k (k.lcore :: k.targets) = false → k.scaleAt e = none → k.skip = none →
          s.windowFits c k.remotes = true → k.joined e = false →
        (k.reads e = false → exec i s = .next (s.copyNext c k)) ∧
        (k.reads e = true → k.lost = true → exec i s = .next (s.copyPut c k (some (3, (k.srcAt e).getD 0))
          (List.replicate (unitBytes (k.recs.headD 0)) 0) true)) ∧
        (k.reads e = true → k.lost = false → ∀ bs bad rep t, s.copySource c k e = (.bytes bs bad, rep, t) →
          exec i s = .next ((t.countSource c k e).copyPut c k rep bs bad)) ∧
        (∀ bs bad, s.copyPut c k none bs bad = s.copyWrite c k bs bad)) ∧
      (k.state ≠ .running ∨ e < last → exec (.copyComplete c pos) s = .next s) ∧
      (k.state = .running → last ≤ e → s.storing c k.seq = true → exec (.copyComplete c pos) s = .next s) ∧
      (k.state = .running → last ≤ e → s.storing c k.seq = false →
        let t := s.leaveLine k.seq
        let n := boxBytes (match k.kind with
          | .redc _ => k.recs.headD 0
          | _ => k.dstRec)
        let posts := fun (t : State) => (k.bars.foldl (fun (s : State) b => s.post c k.ctx k.lcore b (.post n k.poisoned)
          (handleOf (k.recs.headD 0)) k.bundle k.owner.task) t).onCmd c pos fun o => { o with posted := true }
        (k.isCopym = false →
          (k.posted = true → exec (.copyComplete c pos) s = .next (t.dropCmd c pos)) ∧
          (k.posted = false → s.windowFits c (s.postMsgs k.ctx k.lcore k.bars) = true →
            exec (.copyComplete c pos) s = .next ((posts t).dropCmd c pos)) ∧
          (k.posted = false → s.windowFits c (s.postMsgs k.ctx k.lcore k.bars) = false →
            exec (.copyComplete c pos) s = .next t)) ∧
        (k.isCopym = true →
          let f := t.copyFollow c k
          let w := if k.posted = true ∨ f.windowFits c (f.postMsgs k.ctx k.lcore k.bars) = false then f else posts f
          (∀ o, (w.getCore c).cmdAt pos = some o →
            (o.posted = true ∧ (∀ l ∈ o.targets, l ∈ o.followed) → exec (.copyComplete c pos) s = .next (w.dropCmd c pos)) ∧
            (¬ (o.posted = true ∧ ∀ l ∈ o.targets, l ∈ o.followed) → exec (.copyComplete c pos) s = .next w)) ∧
          (∀ l, k.targets = [l] → k.followed = [] →
            (t.followRoom k.ctx l = true → f = (t.landFollow k.ctx l (k.follow l (some c))).2.onCmd c pos
              fun o => { o with followed := o.followed ++ [l] }) ∧
            (t.followRoom k.ctx l = false → f = t))))) ∧
    (∀ m ms, x.mx.queue = m :: ms →
      exec (.matrixCmdStart c) s =
        .next ((pumpScales c 2048 (s.setCore { x with mx := { x.mx with running := true } })).noteWaits c)) ∧
    (let r := pumpScales c 2048 s
     let y := r.getCore c
     let fits := fun (m : MCmd) => r.windowFits c (r.postMsgs m.ctx m.lcore m.bar.toList) = true
     (y.mx.queue = [] → exec (.matrixCmdComplete c) s = .next r) ∧
     (∀ m ms, y.mx.queue = m :: ms → y.mx.running = false → exec (.matrixCmdComplete c) s = .next r) ∧
     (∀ m ms, y.mx.queue = m :: ms → (m.kind ≠ .mma ∨ mScales m.x = false) → r.batchReady y = true) ∧
     (∀ m ms, y.mx.queue = m :: ms → r.batchReady y = false ∨ ¬ fits m → exec (.matrixCmdComplete c) s = .next r) ∧
     (∀ m ms, y.mx.queue = m :: ms → y.mx.running = true → r.batchReady y = true → fits m →
       let scales := m.kind = .mma ∧ mScales m.x = true
       let z := r.setCore { y with mx := { y.mx with
         queue := ms, running := false, batch := if scales then [] else y.mx.batch } }
       let ends := fun (v : State) => exec (.matrixCmdComplete c) s = .next ((pumpScales c 2048 v).noteWaits c)
       (m.kind = .mma → ends (runMma z c m (if scales then y.mx.batch else []))) ∧
       (m.kind = .wld → ends (runWld z c m)) ∧ (m.kind = .accld → ends (runAccld z c m)) ∧
       (m.kind = .accst → (∀ v, runAccst z c m = (none, v) → ends v) ∧
         ∀ k v, runAccst z c m = (some k, v) →
           ends (v.onMx c fun q => { q with queue := k :: q.queue, running := true }))) ∧
     (∀ m ms, y.mx.queue = m :: ms → y.mx.running = true → m.kind = .mgrp → fits m → ∃ v,
       exec (.matrixCmdComplete c) s = .next ((pumpScales c 2048 v).noteWaits c) ∧ (v.getCore c).mx = { y.mx with
         queue := ms, running := false, rowOff := (m.x.extractLsb' 0 16).toNat, colOff := (m.x.extractLsb' 16 16).toNat }) ∧
     (∀ m ms, y.mx.queue = m :: ms → y.mx.running = true → m.kind = .accclr → fits m → y.mx.acc.wf → ∃ v,
       exec (.matrixCmdComplete c) s = .next ((pumpScales c 2048 v).noteWaits c) ∧ (v.getCore c).mx.queue = ms ∧
       (v.getCore c).mx.wb = y.mx.wb ∧ ∀ row col, row < 128 → col < 192 → (v.getCore c).mx.accAt row col =
         if m.x.getLsbD (col / 48) then (0, false) else y.mx.accAt row col))

/-- 14 R337, R338: the oldest statistics record of a core leaves it. Its 16 bytes, the kind at 0, the source at 1, the handle
at 2, the tick at 4 and the bundle at 8, go to the place of the ring that the write index names, behind the 64 bytes of its
header, and the index after it; with no ring, and where the ring is full or cannot be read or written, it is lost, and
counted where there is a ring. A write of the ring puts its bytes into memory. -/
def Sys2Proof.Claims.StatisticsRecords : Prop :=
  ∀ (c : Nat) (s : State) (r : Stat) (rs : List Stat) (y : Ctx),
    let x := s.getCore c
    (x.eng.statq = [] → exec (.statDrain c) s = .next s) ∧
    (x.eng.statq = r :: rs → Tab.get s.ctxs r.ctx = some y →
      let t := s.setCore { x with eng := { x.eng with statq := rs } }
      let k := t.getCore c
      let ring := t.ringWord c r.ctx
      let base := (ring.extractLsb' 12 52).toNat * 4096
      let size := 256 * 2 ^ min 8 (ring.extractLsb' 0 4).toNat
      let bs := toBytes 1 r.kind ++ toBytes 1 r.source ++ toBytes 2 r.handle ++ toBytes 4 r.tick ++ toBytes 8 r.bundle.toNat
      (base = 0 → exec (.statDrain c) s = .next t) ∧
      (base ≠ 0 →
        (∀ e v, engineRead t c r.ctx k.owner k.level (base + 8) 8 = (.error e, v) →
          exec (.statDrain c) s = .next (v.statLose c r.ctx ring)) ∧
        (∀ rd bad v, engineRead t c r.ctx k.owner k.level (base + 8) 8 = (.ok (rd, bad), v) →
          let left := (y.statWr + 2 ^ 64 - ofBytes rd) % 2 ^ 64
          (left = size → exec (.statDrain c) s = .next (v.statLose c r.ctx ring)) ∧
          (left ≠ size →
            (∀ w, v.ringPut c r.ctx (base + 64 + 16 * (y.statWr % size)) bs = (false, w) →
              exec (.statDrain c) s = .next (w.statLose c r.ctx ring)) ∧
            (∀ w, v.ringPut c r.ctx (base + 64 + 16 * (y.statWr % size)) bs = (true, w) →
              exec (.statDrain c) s = .next ((w.onCtx r.ctx fun z => { z with statWr := z.statWr + 1 }).ringPut c r.ctx base
                (toBytes 8 (y.statWr + 1))).2))))) ∧
    (∀ ctx va bs pa n t, engineParts c ctx x.level .write (pageParts va bs.length) s = (.ok [(pa, n)], t) →
      n = bs.length → pa + n ≤ 2 ^ 38 → ∃ u, s.ringPut c ctx va bs = (true, u) ∧
        u.mem.bytes = (dirtyLog t ctx va n).mem.bytes.write pa bs)

/-- 02 R38 to R48; 10 R218, R230, R233 to R235, R239: what the commands write as the matrix unit completes them. The old
accumulator of an MMA counts unless it is to be zero; for each group of 32 products their sum is rounded at its granule,
scaled, and added with one rounding to f32; an element that a poisoned operand reaches is the canonical NaN, poisoned, and
every element outside the block stays. ACCLD writes the block with its elements converted, WLD the weight buffer from its
offset on; ACCST converts, rounding to nearest, and appends one statistics record, of kind 3, at its first saturation. A
sum of finite products is exact down to 28 places below the leading bit of
the largest, each product truncated toward zero there. -/
def Sys2Proof.Claims.MatrixResults : Prop :=
  (∀ (c : Nat) (s : State) (m : MCmd) (batch : List SWord), (s.getCore c).mx.acc.wf →
    let r := m.shape
    let x := m.x
    let put := fun (v : State) (i j : Nat) => (v.getCore c).mx.accAt i j
    (let a := mxReadBox c r (s, m)
     let k := boxOf r 0
     let nh := (k + mGroup x - 1) / mGroup x
     let words := (List.range (mN x * nh)).map fun i =>
       ((batch[i]?).map fun w => w.word.toNat).getD (if mFmt x = 5 then 0xFF else 0x7FC0)
     let cols := bColumns (a.2.1.getCore c) r x words (batch.map (·.bad))
     let fmt := if elemOf r = 6 then FTy.e4m3.fmt else if elemOf r = 7 then FTy.e5m2.fmt else FTy.bf16.fmt
     mmaOk r x = true →
     (∀ i < boxOf r 1, ∀ j < mN x, ∀ col, cols[j]? = some col →
       let row := (a.1.drop (i * k)).take k
       let old := (s.getCore c).mx.accAt (16 * mRow x + i) (8 * mCol x + j)
       put (runMma s c m batch) (16 * mRow x + i) (8 * mCol x + j) =
         if (∃ y ∈ row, y.2 = true) ∨ col.2 = true ∨ (mZero x = false ∧ old.2 = true) then (nan32, true)
         else ((List.range col.1.length).foldl
           (fun acc g =>
             let b := col.1.getD g ([], .fin false 0 0)
             let ps := List.zipWith product (((row.map fun y => FVal.dec fmt (ofBytes y.1)).drop (32 * g)).take 32) b.1
             rne32 (FVal.add 0 (FVal.dec FTy.f32.fmt acc) (FVal.mul b.2 (groupSum ps)).1).1)
           (if mZero x then 0 else old.1), false)) ∧
     (∀ i j, i < 128 → j < 192 → ¬ ((16 * mRow x ≤ i ∧ i < 16 * mRow x + boxOf r 1) ∧
       (8 * mCol x ≤ j ∧ j < 8 * mCol x + mN x)) → put (runMma s c m batch) i j = (s.getCore c).mx.accAt i j)) ∧
    (let q := shifted (s.getCore c) r
     let a := mxReadBox c q (s, m)
     accOk q x true = true →
     (∀ i < boxOf q 1, ∀ j < boxOf q 0, ∀ y, a.1[i * boxOf q 0 + j]? = some y →
       put (runAccld s c m) (16 * aRow x + i) (8 * aCol x + j) =
         if y.2 = true then (nan32, true) else (accLoad (elemOf q) (ofBytes y.1), false)) ∧
     (∀ i j, i < 128 → j < 192 → ¬ ((16 * aRow x ≤ i ∧ i < 16 * aRow x + boxOf q 1) ∧
       (8 * aCol x ≤ j ∧ j < 8 * aCol x + boxOf q 0)) → put (runAccld s c m) i j = (s.getCore c).mx.accAt i j)) ∧
    ((s.getCore c).mx.wb.wf → wldOk r x = true →
      let a := mxReadBox c r (s, m)
      let bs := a.1.flatMap (·.1)
      let dst := (x.extractLsb' 0 19).toNat
      ∀ i < 524288, ((runWld s c m).getCore c).mx.wb.get i =
        if dst ≤ i ∧ i < dst + bs.length then bs.getD (i - dst) 0 else (s.getCore c).mx.wb.get i)) ∧
  (∀ ps : List FVal, (∀ p ∈ ps, p.isFin = true) → (∃ p ∈ ps, p.isZero = false) →
    ∃ q : Int, (∀ p ∈ ps, ∀ n k e, p = .fin n k e → k ≠ 0 → (Nat.log2 k : Int) + e - 28 ≤ q) ∧
      (∃ p ∈ ps, ∃ n k e, p = .fin n k e ∧ k ≠ 0 ∧ (Nat.log2 k : Int) + e - 28 = q) ∧
      let t := (ps.map fun p => match p with
        | .fin n k e => (if n = true then -1 else 1) * (if q ≤ e then (k : Int) * 2 ^ (e - q).toNat
            else (k / 2 ^ (q - e).toNat : Nat))
        | _ => 0).sum
      groupSum ps = if t = 0 then .fin false 0 0 else FVal.dec FTy.f32.fmt (rne32 (.fin (decide (t < 0)) t.natAbs q))) ∧
  (∀ ps : List FVal, (∃ p ∈ ps, p.isNan = true) ∨ (FVal.inf true ∈ ps ∧ FVal.inf false ∈ ps) → groupSum ps = .nan false) ∧
  (∀ (c : Nat) (r : Rec) (a : State × MCmd) (e : Nat), spaceSp r = false →
    let v := accOf (a.1.getCore c) a.2 e
    (insideAt r (coords r e) = false → accElem c r a e = a) ∧
    (insideAt r (coords r e) = true → v.2 = false →
      let z := cvtFF FTy.f32.fmt (fmtOf (elemOf r)) .rne v.1
      let sat := elemOf r = 6 ∧ z.2 &&& fOF ≠ 0
      let q := if sat ∧ a.2.saturated = false then a.1.stat c a.2.ctx 3 0 (handleOf a.2.shape) a.2.bundle else a.1
      ∀ parts t, engineWrite q c a.2.ctx a.2.owner a.2.level (addrAt r (coords r e)) (toBytes (unitBytes r) z.1) = (.ok parts, t) →
        (accElem c r a e).1 = t ∧ ((accElem c r a e).2.saturated = true ↔ a.2.saturated = true ∨ sat)))

/-- 02 R37 to R48; 10 R218, R230, R233 to R235, R239; 14 R337, R338: what matrix commands and statistics records write. -/
def Obligations.EngineResults : Prop := Sys2Proof.Claims.MatrixResults ∧ Sys2Proof.Claims.StatisticsRecords

/-! ## The chip (15 R363 to R365; 16 R375 to R386; 18 R410 to R423) -/

/-- 15 R363 to R365; 16 R375; 18 R412, R416: the chip's registers as the events that write them. A refused interface
entry changes nothing but vit.status, as a fifth isolated one or a second one on an island is, enabled or not; a matrix write notes every field that differs from the cluster's rail, and keeps
what an earlier one noted; a write of a device register does what the event of its name does, one of half a register keeps the
other half, and one of no register does nothing; the power limit stays between 300 and 750 W and the back-off at 16 ticks or more; a mailbox index never lowers the requests outstanding nor
raises the replies unread. -/
def Obligations.ChipRegisters : Prop :=
  ∀ (vi : Nat) (v : Word) (st : BitVec 2) (wr : BitVec 4) (s : State), vi < 64 →
    let i : Fin 64 := Fin.ofNat 64 vi
    let entry := viAt s.mem.bytes (s.ten.vitBase.toNat + 64 * vi)
    let w := (v.extractLsb' 0 10).toNat
    let b := (v.extractLsb' 0 16).toNat
    let seq := (s.ten.seq + 1) % 256
    (s.viRefused vi entry = true →
      exec (.vitLoad vi) s = .next { s with ten := { s.ten with seq := seq, lastVi := vi, status := 1 } }) ∧
    (s.viRefused vi entry = false → ∃ u, exec (.vitLoad vi) s = .next u ∧ u.vitNext[i] = some entry ∧
      u.vit[i] = some (entry.loadOver s.vit[i]) ∧ u.ten = { s.ten with seq := seq, lastVi := vi, status := 0 } ∧
      (∀ j : Fin 64, j ≠ i → u.vit[j] = s.vit[j] ∧ u.vitNext[j] = s.vitNext[j]) ∧ u.mem = s.mem) ∧
    ((∀ e ∈ s.loaded, e.2.isolated = false) → ∃ u, exec (.islMatrixWrite v) s = .next u ∧
      u.ten.rail = s.ten.rail ∧ u.ten.seq = seq ∧ u.ten.status = 0 ∧
      (∀ c < 8, let new := v.extractLsb' (2 * c) 2
        let now := s.ten.rail.extractLsb' (2 * c) 2
        u.ten.railNew.extractLsb' (2 * c) 2 = (if new ≠ now then new else s.ten.railNew.extractLsb' (2 * c) 2) ∧
        (u.ten.railPend.getLsbD c = true ↔ new ≠ now ∨ s.ten.railPend.getLsbD c = true)) ∧
      u.mem = s.mem ∧ u.core = s.core) ∧
    (300 ≤ w ∧ w ≤ 750 → exec (.govLimitWrite v) s = .next { s with govNext := { s.govNext with watts := w } }) ∧
    (w < 300 ∨ 750 < w → exec (.govLimitWrite v) s = .next s) ∧
    (300 ≤ v.toNat ∧ v.toNat ≤ 750 →
      exec (.mgmtSmbusWrite v) s = .next { s with govNext := { s.govNext with watts := v.toNat } }) ∧
    (v.toNat < 300 ∨ 750 < v.toNat → exec (.mgmtSmbusWrite v) s = .next s) ∧
    (16 ≤ b → exec (.fabBackoffWrite v) s = .next { s with bridge := { s.bridge with backoff := b } }) ∧
    (b < 16 → exec (.fabBackoffWrite v) s = .next s) ∧
    (s.bridgeAllowed = true → exec (.bridgeTrainGo st) s = .next { s with bridge := { s.bridge with
      maxStep := st.toNat, tx := { s.bridge.tx with retrain := some st.toNat }
      rx := { s.bridge.rx with retrain := some st.toNat } } }) ∧
    (s.bridgeAllowed = false →
      exec (.bridgeTrainGo st) s = .next { s with bridge := { s.bridge with maxStep := st.toNat } }) ∧
    (entry.isolated = true → ((∃ e ∈ s.loaded, e.1 ≠ vi ∧ e.2.isolated = true ∧ e.2.island = entry.island) ∨
      4 ≤ (s.loaded.filter fun e => e.1 != vi && e.2.isolated).length) → s.viRefused vi entry = true) ∧
    (let m := s.mbox[i]
     m.reqRd < 16 → m.reqWr < 16 → m.repRd < 16 → m.repWr < 16 →
     (∃ u, exec (.mailboxRequestPost vi wr) s = .next u ∧ (∀ j : Fin 64, j ≠ i → u.mbox[j] = s.mbox[j]) ∧ u.mem = s.mem ∧
       u.mbox[i] = if (wr.toNat + 16 - m.reqRd) % 16 < (m.reqWr + 16 - m.reqRd) % 16 then m
         else { m with reqWr := wr.toNat }) ∧
     (∃ u, exec (.mailboxReplyConsume vi wr) s = .next u ∧ (∀ j : Fin 64, j ≠ i → u.mbox[j] = s.mbox[j]) ∧ u.mem = s.mem ∧
       u.mbox[i] = if (m.repWr + 16 - m.repRd) % 16 < (m.repWr + 16 - wr.toNat) % 16 then m
         else { m with repRd := wr.toNat })) ∧
    (∀ (a : Nat) (wide : Bool), (nodeOf a ≠ 3 ∨ a % (if wide then 8 else 4) ≠ 0 →
      exec (.deviceRegisterWrite a wide v) s = .next s)) ∧
    (let reg := fun (a : Nat) => exec (.deviceRegisterWrite (0x600000000000 + a) true v) s
     let mail := 0x40000 + 4096 * vi
     let xlt := 0x100000 + 4096 * vi
     let cost := fun (k : Fin 4) (w : Word) => { s with govNext := { s.govNext with cost := s.govNext.cost.set k w } }
     reg 0 = .next { s with ten := { s.ten with vitBase := (v.extractLsb' 6 42).setWidth 64 <<< 6 } } ∧
     reg 8 = exec (.vitLoad (v.toNat % 64)) s ∧ reg 0x18 = exec (.islMatrixWrite v) s ∧
     reg 0x20000 = exec (.govLimitWrite v) s ∧ reg 0x30020 = exec (.fabBackoffWrite v) s ∧
     (∀ k : Fin 4, let old := s.govNext.cost[k]
       reg (0x20010 + 8 * k.val) = .next (cost k v) ∧
       exec (.deviceRegisterWrite (0x600000020010 + 8 * k.val) false v) s =
         .next (cost k (old.extractLsb' 32 32 ++ v.extractLsb' 0 32)) ∧
       exec (.deviceRegisterWrite (0x600000020014 + 8 * k.val) false v) s =
         .next (cost k (v.extractLsb' 0 32 ++ old.extractLsb' 0 32))) ∧
     reg 0x20040 = .next { s with govNext := { s.govNext with
       pairUj := (v.extractLsb' 32 32).toNat, leakMw := (v.extractLsb' 0 16).toNat } } ∧
     reg 0x30008 = .next { s with bridge := { s.bridge with marginHigh := (v.extractLsb' 16 16).toNat, marginLow := b } } ∧
     (v.getLsbD 0 = true → reg 0x30010 = exec (.bridgeTrainGo (v.extractLsb' 1 2)) s) ∧
     (v.getLsbD 0 = false → reg 0x30010 =
       .next { s with bridge := { s.bridge with maxStep := (v.extractLsb' 1 2).toNat } }) ∧
     (let m := (s.mbox[i].postTo (v.extractLsb' 16 4).toNat).consumeTo (v.extractLsb' 28 4).toNat
      reg mail = .next { s with mbox := s.mbox.set i m }) ∧
     reg xlt = .next { s with xlt := s.xlt.set i { s.xlt[i] with addr := v } } ∧
     (let cmd := ((v.extractLsb' 12 2).toNat, (v.extractLsb' 0 10).toNat, (v.extractLsb' 16 8).toNat, s.xlt[i].addr.toNat)
      reg (xlt + 8) = .next { s with xlt := s.xlt.set i { s.xlt[i] with cmds := s.xlt[i].cmds ++ [cmd] } }) ∧
     (v.getLsbD 63 = true → reg (xlt + 16) = .next { s with xlt := s.xlt.set i { s.xlt[i] with err := false } }) ∧
     (v.getLsbD 63 = false → reg (xlt + 16) = .next s) ∧
     (∀ o : Nat, o < 0x40000 → o % 8 = 0 → o ∉ [0, 8, 0x18, 0x20000, 0x20010, 0x20018, 0x20020, 0x20028, 0x20040, 0x30008,
       0x30010, 0x30020] → reg o = .next s))

/-- 16 R378 to R386: power. At an interval boundary at which no step overran, the next interval begins with the
registers that it was given, and every account is within its cap: an account that is alone on its island is debited the
energy of the island, in budget units with the carry, and its memory, and granted its share. An expired lease returns its
permits; a sample takes its readings, each with the board block's offset for its sensor, and powers the device off at t_trip
(where the slices' offsets stand: log 137); an idle cluster is gated where that is worth it. The measured energy
is an input of the model (log 19). -/
def Obligations.PowerEvents : Prop :=
  ∀ (isl : List Nat) (shares : List EnergyShare) (cl : Nat) (cores slices : List Reading) (cool : Option (BitVec 16))
      (s : State),
    let k := s.clusterAt (cl % 8)
    ((∀ i < 4, s.narrow i = false) → ∃ u, exec (.budgetIntervalBoundary isl shares) s = .next u ∧
      u.gov = s.govNext ∧ (∀ a ∈ u.accts, a.balance ≤ 4 * a.grant) ∧ u.interval = s.nextInterval ∧
      (s.wrapped = false → (s.interval + 1) * 10000 < 2 ^ 64 →
        let t := { s with tick := max s.tick ((s.interval + 1) * 10000), interval := s.interval + 1 }
        u.interval = s.interval + 1 ∧ u.tick = t.tick ∧
        ∀ a, (s.accts.filter fun o => o.island == a.island) = [a] → a.island < 4 → a.vi = none →
          let e := t.islandEnergy a.island isl shares
          (isl.getD a.island 0 ≤ e ∧
            (shares = [] → (∀ y ∈ s.stays, y.paid = none) → e = isl.getD a.island 0)) ∧
          ∀ n ∈ u.accts, n.island = a.island → n.vi = none →
            n.balance = capBalance (a.balance - (a.debit e : Int) + (n.grant : Int)) n.grant ∧
            n.carry = (e + a.carry) % 25 ∧ n.sectors = a.sectors % 12288 ∧ n.admitted = 0)) ∧
    (s.wrapped = false → 2 ^ 64 ≤ (s.interval + 1) * 10000 → s.nextInterval = 0) ∧
    (∀ (b : Int) (n : Nat), capBalance b n ≤ 4 * n ∧ (b ≤ 4 * n → -(2 ^ 31) ≤ b → b < 2 ^ 31 → capBalance b n = b)) ∧
    (∀ (a : Acct) (e : Nat), a.debit e = (e + a.carry) / 25 + a.sectors / 12288) ∧
    (k.lease = none → exec (.boostLeaseExpire cl) s = .next s) ∧
    (∀ l, k.lease = some l → ∃ u, exec (.boostLeaseExpire cl) s = .next u ∧ (u.clusterAt (cl % 8)).lease = none ∧
      (l.expiry < 2 ^ 64 → u.tick = max s.tick l.expiry) ∧ (u.islandAt (s.islandOf (cl % 8))).pool =
        min 64 ((s.islandAt (s.islandOf (cl % 8))).pool + l.remaining) ∧ u.mem = s.mem) ∧
    (let off := fun (k : Nat) => ((s.board.map (·.offsets)).getD []).getD k 0
     let at_ := fun (r : Reading) => r.value + off (r.which % 128)
     let slice := fun (r : Reading) => r.value + off (128 + r.which)
     ∃ u, exec (.sensorSample cores slices cool) s = .next u ∧
      (u.power = .off ↔ s.power = .off ∨ (∃ r ∈ cores, 0x06E0 ≤ (at_ r).toInt) ∨ ∃ r ∈ slices, 0x06E0 ≤ (slice r).toInt) ∧
      (∀ r ∈ cores, (∀ q ∈ cores, q.which % 128 = r.which % 128 → q = r) → (u.getCore (r.which % 128)).sensor = at_ r) ∧
      (∀ p, (∀ r ∈ cores, r.which % 128 ≠ p) → (u.getCore p).sensor = (s.getCore p).sensor) ∧
      (∀ r ∈ slices, (∀ q ∈ slices, q.which = r.which → q = r) →
        ((u.sliceSensor.find? fun q => q.which == r.which).map (·.value)) = some (slice r)) ∧
      (∀ v, cool = some v → CoolFault.silent ∉ s.coolant.faults → u.coolant.reading = some v) ∧
      (cool = none → CoolFault.silent ∉ s.coolant.faults → u.coolant.reading = s.coolant.reading) ∧
      u.mem = s.mem ∧ u.tick = s.tick) ∧
    (s.mayGate (cl % 8) = true → exec (.clusterGate cl) s =
      .next { s with clusters := s.clusters.set (cl % 8) { k with gated := true } (Nat.mod_lt _ (by decide)) }) ∧
    (s.mayGate (cl % 8) = false → exec (.clusterGate cl) s = .next s)

/-- 18 R413 to R421, R423: the bridge, the coolant port, the board and bring-up. A direction that retrains comes up at
its step; the eighth retry of a flit takes its direction down; duties stay within 256; a condition of the cooling
system is noted while it holds, pump and flow 1 s below the block's minima, coolant above its limit, a sensor silent for 100
ms; a graceful power-down suspends every context before the power goes; bring-up halts at a step that fails, at step 1 with
no firmware slot that verifies, takes a board block only where its signature verifies (log 119), waits for coolant flow at
step 4 with the loop at full duty, and opens the peer's memory at step 5. What a power-down waits for, and that one event ends
all retraining, are the model's readings (log 29, 84). -/
def Obligations.BoardEvents : Prop :=
  ∀ (mv valves : List Nat) (pump : Nat) (rx good ok : Bool) (kind : CoolFault) (block : Option Board) (s : State),
    let l := if rx = true then s.bridge.rx else s.bridge.tx
    let put := fun (l : Link) =>
      { s with bridge := if rx = true then { s.bridge with rx := l } else { s.bridge with tx := l } }
    (s.bridge.rx.up = false ∨ s.bridge.rx.retrain ≠ none → exec (.bridgeMarginReport mv) s = .next s) ∧
    (s.bridge.rx.up = true → s.bridge.rx.retrain = none →
      let r := s.bridge.rx.report s.bridge.marginLow s.bridge.marginHigh mv
      ((∃ n ∈ r.low, 100 ≤ n) → r.step < 3 → exec (.bridgeMarginReport mv) s = .next { s with bridge := { s.bridge with
        rx := { r with low := [], good := 0, holdOff := 6000000, retrain := some (r.step + 1) } } }) ∧
      ((∀ n ∈ r.low, n < 100) → r.good < 1000000 →
        exec (.bridgeMarginReport mv) s = .next { s with bridge := { s.bridge with rx := r } })) ∧
    (∀ n m, s.bridge.rx.retrain = some n → s.bridge.tx.retrain = some m → n = s.bridge.rx.step → m = s.bridge.tx.step →
      ∃ u, exec .bridgeRetrainDone s = .next u ∧ u.bridge.rx.up = true ∧ u.bridge.tx.up = true ∧ u.bridge.rx.step = n ∧
        u.bridge.tx.step = m ∧ u.bridge.rx.retrain = none ∧ u.bridge.tx.retrain = none ∧ u.mem = s.mem) ∧
    (l.up = false → exec (.flitRetry rx good) s = .next s) ∧
    (l.up = true → good = true → exec (.flitRetry rx good) s = .next (put { l with retries := 0 })) ∧
    (l.up = true → good = false → l.retries < 7 →
      exec (.flitRetry rx good) s = .next (put { l with retries := l.retries + 1 })) ∧
    (l.up = true → good = false → 7 ≤ l.retries → exec (.flitRetry rx good) s = .next (s.linkDown rx)) ∧
    (∃ u, exec (.coolantControlUpdate pump valves) s = .next u ∧ u.coolant.pump = min 256 pump ∧
      u.coolant.valves.length = 4 ∧ (∀ n ∈ u.coolant.valves, n ≤ 256) ∧ u.coolant.faults = s.coolant.faults ∧
      u.mem = s.mem ∧ u.core = s.core) ∧
    (s.loop = none → s.coolingHolds kind = false) ∧
    (∀ k, s.loop = some k →
      (s.coolingHolds .pump = true ↔ ∃ t, s.coolant.slow = some t ∧ t + 1000000000 ≤ s.tick) ∧
      (s.coolingHolds .flow = true ↔ ∃ t, s.coolant.dry = some t ∧ t + 1000000000 ≤ s.tick) ∧
      (s.coolingHolds .hot = true ↔ ∃ r, s.coolant.reading = some r ∧ k.limit.toInt < r.toInt) ∧
      (s.coolingHolds .silent = true ↔
        s.coolant.heard + 100000000 ≤ s.tick ∨ s.coolant.heardTemp + 100000000 ≤ s.tick)) ∧
    (s.coolingHolds kind = false → exec (.coolingFault kind true) s = .next s ∧
      ∃ u, exec (.coolingFault kind false) s = .next u ∧ kind ∉ u.coolant.faults ∧ u.mem = s.mem) ∧
    (s.coolingHolds kind = true → exec (.coolingFault kind false) s = .next s ∧
      (kind ∉ s.coolant.faults → ∃ u, exec (.coolingFault kind true) s = .next u ∧
        u.coolant.faults = s.coolant.faults ++ [kind])) ∧
    ((∀ e ∈ s.ctxs, e.2.state ≠ 0) → exec .gracefulPowerDown s = .next { s with power := .off }) ∧
    ((∃ e ∈ s.ctxs, e.2.state = 0) → ∃ u, exec .gracefulPowerDown s = .next u ∧ u.power = s.power ∧
      ∀ e ∈ u.ctxs, e.2.state = 0 → e.2.stopping ≠ []) ∧
    (s.bringFailed = true ∨ 7 ≤ s.bring → exec (.bringUp ok block) s = .next s) ∧
    (s.bringFailed = false → s.bring < 7 →
      exec (.bringUp false block) s = .next { s with bringFailed := true } ∧
      (s.bring = 0 → s.bootSlot = none → exec (.bringUp true block) s = .next { s with bringFailed := true }) ∧
      (s.bring = 3 → s.flows = false → exec (.bringUp true block) s = .next s.startCooling) ∧
      ((s.bring = 0 → s.bootSlot ≠ none) → (s.bring = 3 → s.flows = true) →
        ∃ u, exec (.bringUp true block) s = .next u ∧ u.bring = s.bring + 1 ∧ u.bringFailed = false ∧
          (s.bring = 0 → u.slot = s.bootSlot) ∧
          (s.bring = 1 → let b := block.filter fun b => Board.ok b && s.boardSigned b.signer
            u.board = b ∧ u.gov.watts = (b.map (·.watts)).getD 300 ∧ u.ten.rail = (b.map (·.rail)).getD State.reset.ten.rail ∧
            (b.bind (·.bridge) = none → u.bridge.tx.up = false ∧ u.bridge.rx.up = false)) ∧
          (s.bring = 2 → s.mem.bytes.wf → ∀ x, u.mem.bytes.get x = if x < 2 ^ 45 then 0 else s.mem.bytes.get x) ∧
          (s.bring = 3 → (∀ i : Fin 64, u.vit[i] = none) ∧ u.coolant.pump = 256 ∧ u.coolant.valves = List.replicate 4 256) ∧
          (s.bring = 4 → ∀ b r, s.board = some b → b.bridge = some r → u.bridge.opened = true ∧ u.bridge.tx.up = true ∧
            u.bridge.rx.up = true)))

/-- 12 R282; 18 R411, R412, R422, R423: the host. Before its link has trained, at step 6 of bring-up, it writes nothing and
reads all ones. A window makes a range of device memory visible. Through one, a host write puts
its bytes into device memory and leaves its words empty; a read returns the bytes, and so does an AtomicOp, which writes its
result; elsewhere a write is dropped and a read is 0. A notify register takes 4 bytes. A request of a mailbox, the one in
hand before the oldest outstanding one, is answered by a signed report with its tag. The addresses of the BARs are the
model's choice (log 14). -/
def Obligations.HostAccesses : Prop :=
  ∀ (a len vi : Nat) (bs : List Byte) (wide : Bool) (op : HostAtomic) (nonce : BitVec 256) (s : State),
    let n := if wide = true then 8 else 4
    (a + len ≤ 2 ^ 38 → ∃ u, act (.windowMap a len true) s = .next u ∧ u.mem = s.mem ∧ u.core = s.core ∧
      ∀ b k, a ≤ b → b + k ≤ a + len → u.inWindow b k = true) ∧
    (s.bring < 6 → exec (.hostWrite a bs) s = .next s ∧ exec (.hostAtomicop a wide op) s = .next s ∧
      exec (.hostRead a len) s = .next { s with hostData := List.replicate len 255 }) ∧
    (6 ≤ s.bring → s.inWindow a bs.length = true → a + bs.length ≤ 2 ^ 38 → ∃ u, exec (.hostWrite a bs) s = .next u ∧ u.mem.bytes = s.mem.bytes.write a bs ∧
      u.core = s.core ∧ u.mem.host = s.mem.host ∧
      (bs ≠ [] → ∀ w, a / 8 ≤ w → w ≤ (a + bs.length - 1) / 8 → NSet.has u.mem.full w = false)) ∧
    (s.inWindow a bs.length = false → a < 2 ^ 64 → exec (.hostWrite a bs) s = .next s) ∧
    (6 ≤ s.bring → s.inWindow a len = true → a + len ≤ 2 ^ 38 → poisonOf s a len = none → ∃ u, exec (.hostRead a len) s = .next u ∧
      u.hostData = s.mem.bytes.bytes a len ∧ u.mem.bytes = s.mem.bytes ∧ u.core = s.core) ∧
    (6 ≤ s.bring → s.inWindow a len = false → a < 2 ^ 64 →
      exec (.hostRead a len) s = .next { s with hostData := List.replicate len 0 }) ∧
    (a % n ≠ 0 ∨ s.inWindow a n = false → exec (.hostAtomicop a wide op) s = .next s) ∧
    (6 ≤ s.bring → a % n = 0 → s.inWindow a n = true → a + n ≤ 2 ^ 38 → poisonOf s a n = none →
      let old := s.mem.bytes.nat a n
      let new := match op with
        | .fetchAdd v => (old + v.toNat) % 2 ^ (8 * n)
        | .swap v => v.toNat % 2 ^ (8 * n)
        | .cas cmp new => if old = cmp.toNat % 2 ^ (8 * n) then new.toNat % 2 ^ (8 * n) else old
      ∃ u, exec (.hostAtomicop a wide op) s = .next u ∧ u.hostData = toBytes n old ∧
        u.mem.bytes = s.mem.bytes.write a (toBytes n new) ∧ u.mem.full = s.mem.full) ∧
    (∀ v, 6 ≤ s.bring → vi < 64 → s.viOf vi = some v → len < 64 → bs.length = 4 → s.pnat (v.queueTable + 64 * len + 9) 1 = 1 →
      exec (.hostWrite (2 ^ 64 + 2 ^ 24 * vi + 4096 * len) bs) s =
        .next (s.dput (v.queueTable + 64 * len + 24) 4 (ofBytes bs))) ∧
    (vi < 64 →
      let i : Fin 64 := Fin.ofNat 64 vi
      let m := s.mbox[i]
      m.page.wf → m.reqRd < 16 → m.reqWr < 16 → m.repRd < 16 → m.repWr < 16 →
      let unread := (m.repWr + 16 - m.repRd) % 16
      ((m.hand = none ∧ m.reqRd = m.reqWr) ∨ unread = 15 → exec (.attestationReport vi nonce) s = .next s) ∧
      (∀ req, m.hand = some req → unread ≠ 15 → ∃ u, exec (.attestationReport vi nonce) s = .next u ∧
        u.mbox[i].hand = none ∧ u.mbox[i].reqRd = m.reqRd ∧ u.mbox[i].repWr = (m.repWr + 1) % 16 ∧ u.mem = s.mem ∧
        let rep := u.mbox[i].page.nat (0x800 + 64 * m.repWr) 8
        rep % 2 ^ 16 = req % 2 ^ 16 ∧ rep / 2 ^ 32 = req / 2 ^ 32 % 2 ^ 32) ∧
      (m.hand = none → m.reqRd ≠ m.reqWr → (m.repWr + 16 - m.repRd) % 16 ≠ 15 → ∃ u, exec (.attestationReport vi nonce) s = .next u ∧
        u.mbox[i].reqRd = (m.reqRd + 1) % 16 ∧ u.mbox[i].repWr = (m.repWr + 1) % 16 ∧ u.mem = s.mem ∧
        (let req := m.page.nat (0x400 + 64 * m.reqRd) 8
         let rep := u.mbox[i].page.nat (0x800 + 64 * m.repWr) 8
         rep % 2 ^ 16 = req % 2 ^ 16 ∧ rep / 2 ^ 32 = req / 2 ^ 32) ∧
        ∀ j : Fin 64, j ≠ i → u.mbox[j] = s.mbox[j]))

/-! ## Encodings, a step, reset (03; 04 R100 to R106; 08 R170; the reset columns of the inventory tables) -/

/-- 03 R58, R62 to R68, R75: the word that the encoder gives a well-formed instruction, for every operand, decodes to
that instruction and carries the end bit that was asked for. -/
def Obligations.DecodeOfEncode : Prop :=
  ∀ (e : Bool) (i : Instr) (w : BitVec 32), i.wf = true → encode e i = some w →
    decodeSlot w = .ok i ∧ w.getLsbD 31 = e

/-- 03 R62 to R65, R75: words written field by field, from bit 31 down, and what they stand for: one of each class and
format, two that R60 refuses. -/
def Obligations.SlotWords : Prop :=
  decodeSlot (0b0#1 ++ 0b00#2 ++ 0b0#1 ++ 0x01#7 ++ 0#3 ++ 5#6 ++ 6#6 ++ 57#6) = .ok (.sub false 5 (.x 6) .b1) ∧
  decodeSlot (0b1#1 ++ 0b00#2 ++ 0b1#1 ++ 0x20#7 ++ 0b111#3 ++ 5#6 ++ 6#6 ++ 0b111101#6) =
    .ok (.addi true 5 (.x 6) (BitVec.ofInt 9 (-3))) ∧
  decodeSlot (0b0#1 ++ 0b00#2 ++ 0b0#1 ++ 0x30#7 ++ 0b010#3 ++ 7#6 ++ 0#6 ++ 3#6) = .ok (.li false 7 0x2003) ∧
  decodeSlot (0b0#1 ++ 0b00#2 ++ 0b0#1 ++ 0x38#7 ++ 2#4 ++ 0b1#1 ++ 0xFFFE#16) = .ok (.br 2 true 0xFFFE) ∧
  decodeSlot (0b0#1 ++ 0b00#2 ++ 0b0#1 ++ 0x50#7 ++ 0#3 ++ 9#6 ++ 1#6 ++ 0x11#6) = .ok (.csrr false 9 0x051) ∧
  decodeSlot (0b0#1 ++ 0b01#2 ++ 0b0#1 ++ 0x00#7 ++ 0b011#3 ++ 48#6 ++ 47#6 ++ 58#6) =
    .ok (.vadd false .i32 (.w 0) (.v 47) .b2) ∧
  decodeSlot (0b0#1 ++ 0b10#2 ++ 0b0#1 ++ 0x02#7 ++ 0b100#3 ++ 1#6 ++ 2#6 ++ 0#6) = .ok (.rcp false .f32 (.v 1) (.v 2)) ∧
  decodeSlot (0b0#1 ++ 0b11#2 ++ 0b0#1 ++ 0x00#7 ++ 0b010#3 ++ 8#6 ++ 3#6 ++ 63#6) =
    .ok (.lds false .i16 (.v 8) (.x 3) 63) ∧
  decodeSlot (0b0#1 ++ 0b11#2 ++ 0b0#1 ++ 0x20#7 ++ 0b101#3 ++ 4#6 ++ 3#6 ++ 0b01#2 ++ 0b011#3 ++ 0#1) =
    .ok (.ldAcq false 5 4 (.x 3) .chip) ∧
  decodeSlot (0b0#1 ++ 0b11#2 ++ 0b0#1 ++ 0x2C#7 ++ 0b101#3 ++ 4#6 ++ 3#6 ++ 0b11#2 ++ 1#1 ++ 0b110#3) = .error .reserved ∧
  decodeSlot (0b0#1 ++ 0b00#2 ++ 0b1#1 ++ 0x42#7 ++ 0#21) = .error .nBit ∧
  decodeSlot (0b0#1 ++ 0b00#2 ++ 0b0#1 ++ 0x43#7 ++ 0#21) = .error .unassigned

namespace Sys2Proof.Claims

/-- The step of s is the turn of the current core of r: the schedule names that core, or it names nothing and the turn
falls to it (log 1), no boundary being due. -/
def turnOf (s r : State) : Prop :=
  s.power ≠ .off ∧ r.core.runnable = true ∧
  ((∃ p ts, s.schedule = .core p :: ts ∧ r = ({ s with schedule := ts } : State).switch (p % 128)) ∨
   ∃ p, s.schedule = [] ∧ s.tick % 2 = 0 ∧ s.boundaryDue = false ∧ s.passDue = false ∧ s.nextCore = some p ∧ r = s.switch p)

/-- The step of s ends as its turn does, in t, with what every step ends with; unless an interval boundary would then be
unprocessed past its time: then its processing, or the time up to it, comes first (23 R445). -/
def endsIn (s t : State) : Prop :=
  (t.overdue = false → step s = .next t.settle) ∧
  (t.overdue = true → ∀ u, s.boundaryFirst = .next u → step s = .next u.settle)

/-- No rule on the bundle as a whole keeps it from issuing: it breaks none (03 R60), its segment has room for it (08
R171), it waits for no register (03 R73), and it takes no checkpoint, so that no trap record is due at it (08 R170, R184).
-/
def plainBundle (c : State) (ws : List Nat) (xs : List Slot) : Prop :=
  c.core.fault ws xs = none ∧ c.core.segBundles < c.core.segLimit ∧ c.freezes ws xs = false ∧
  c.core.startsCkpt ws = false ∧ c.core.awaitsOld = false ∧ c.core.seat ≠ none ∧
  ∀ x ∈ xs, x.early = false ∧ x.isFreeze = false

end Sys2Proof.Claims

/-- 03 R58, R66, R72; 06 R148; 08 R172: a step runs the decoded instructions. The core whose turn it is reads the
bundle at its pc, lands the results that are due, swaps, and runs the slots in order of position; then the sequencer
moves on, and the followers of pairs go where their leaders go. A slot is exec of the instruction that its word decodes to, with its position and unit at hand; a slot that
traps ends the bundle; a squashed one does nothing. Whose turn it is, and that the processing of an interval boundary comes
before a turn that would go past its time, are the model's readings (log 1, 13). -/
def Obligations.StepRunsDecodedSlots : Prop :=
  (∀ (s r b : State) (ws : List Nat), turnOf s r →
    let a := r.catchUp
    let m := a.slept
    a.asleep = false → (a.core.asyncDue = true → a.core.level ≠ .u) →
    bundleAt { m with core := { m.core with sleep := none } } a.core.pc.toNat = (.ok ws, b) →
    let c : State := { b with core := b.core.landDue }
    let xs := c.core.slots ws
    plainBundle c ws xs →
    let d : State := { c with core := (c.core.openIssue ws.length).swapAll xs }
    (∀ t, runSlots c.core.cbuf xs d = .next t → t.core.iss.stopped = true → endsIn s t) ∧
    (∀ t, runSlots c.core.cbuf xs d = .next t → t.core.iss.stopped = false → t.core.seat ≠ none → t.core.occupied ≤ 64 →
      endsIn s (t.endBundle xs c.core.cbuf.length))) ∧
  (∀ (x : Slot) (xs : List Slot) (es : List Entry) (d : State) (i : Instr),
    let e := { d with core := { d.core with iss := { d.core.iss with pos := x.pos, unit := x.unit } } }
    decodeSlot (BitVec.ofNat 32 x.word) = .ok i →
    (x.squash = true → runSlots es (x :: xs) d = runSlots es xs d) ∧
    (x.squash = false → x.waitsSelf es = true → runSlots es (x :: xs) d = .next (e.trapAt x.pos 0x0D 0 0)) ∧
    (x.squash = false → x.waitsSelf es = false →
      (∀ t, exec i e = .next t → t.core.iss.stopped = true → runSlots es (x :: xs) d = .next t) ∧
      (∀ t, exec i e = .next t → t.core.iss.stopped = false → runSlots es (x :: xs) d = runSlots es xs t) ∧
      (∀ f, exec i e = .fault f → runSlots es (x :: xs) d = .fault f) ∧
      (∀ f, exec i e = .refused f → runSlots es (x :: xs) d = .refused f))) ∧
  (∀ es d, runSlots es [] d = .next d)

/-- What the inventory tables state for device reset (11 R241; 14 R311; 15 R342, R365; 16 R366, R375; 18 R416, R418;
10 R217; 09 R194), on every core and of the chip; and the machine is in good form there. -/
def Obligations.ResetState : Prop :=
  let s := State.reset
  (∀ p < 128, let c := s.getCore p
    c.pcore = p ∧ c.seat = none ∧ c.cbuf = [] ∧ c.drain = [] ∧ c.flight = [] ∧ c.pend = [] ∧ c.arch.loops = [] ∧
    c.arch.modq.active = false ∧ c.mx.queue = [] ∧ c.mx.rowOff = 0 ∧ c.mx.colOff = 0 ∧ c.eng.bte = [] ∧
    c.eng.statq = [] ∧ c.port.tlb = [] ∧ c.port.l1d = [] ∧ c.port.l1i = [] ∧ c.port.window = [] ∧ c.port.fwd = [] ∧
    c.arch.x[0] = 0 ∧ (∀ i : Fin 8, c.lat[i] = 0) ∧ (∀ e : Fin 8, c.eng.pipes[e].role = 0)) ∧
  s.tick = 0 ∧ s.ctxs = [] ∧ s.tasks = [] ∧ s.mem.full = [] ∧ s.mem.poison = [] ∧ s.mem.dirtyTrack = [] ∧ s.ctlb = [] ∧
  s.atc = [] ∧ (∀ i : Fin 64, s.vit[i] = none) ∧ s.ten.rail = 0xFA50 ∧ s.gov.watts = 600 ∧
  (∀ i : Fin 4, s.islands[i].pool = 64) ∧ s.limH = 0x06E00690064005F0 ∧ s.bridge.backoff = 200 ∧
  s.bridge.marginHigh = 40 ∧ s.bridge.marginLow = 15 ∧ s.coolant.pump = 256 ∧ StateOk s

/-- 00 R3; 03 R68; 08 R173; 09 R194; 16 R369: every step keeps the form that StateOk names: X0 reads as zero on every core,
memory, scratchpad and barrier cells stay canonical, and no core withholds more than 64 entries. -/
def Obligations.StepKeepsForm : Prop := ∀ s t : State, StateOk s → step s = .next t → StateOk t
end

