-- ==== Sys2Proof/Laws/Chip.lean ====
section
/-! SUPPORT. Cores by number, tables and small updates: what reading one after writing one gives. -/

namespace Sys2Proof.Machine

/-- A core found by its number has that number. -/
@[simp] theorem State.getCore_pcore (s : State) (p : Nat) : (s.getCore p).pcore = p := by
  simp only [State.getCore]
  split
  · assumption
  · cases h : s.others.find? fun c => c.pcore == p with
    | none => rfl
    | some c => simpa using List.find?_some h

/-- Finding a core among the others after one was put there. -/
theorem find_insertCore (c : Core) (p : Nat) (l : List Core) :
    (insertCore c l).find? (fun d => d.pcore == p) =
      if c.pcore = p then some c else l.find? fun d => d.pcore == p := by
  induction l with
  | nil => simp only [insertCore, List.find?]; split <;> simp_all
  | cons d ds ih =>
    simp only [insertCore]
    split
    · simp only [List.find?_cons, ih]
      by_cases h : c.pcore = p
      · have : (d.pcore == p) = false := by simp; omega
        simp [h, this]
      · simp [h]
    · split
      · simp only [List.find?_cons]
        by_cases h : c.pcore = p
        · simp [h]
        · have h1 : (c.pcore == p) = false := by simpa using h
          have h2 : (d.pcore == p) = false := by simp; omega
          simp [h, h1, h2]
      · simp only [List.find?_cons]
        by_cases h : c.pcore = p
        · simp [h]
        · have h1 : (c.pcore == p) = false := by simpa using h
          simp [h, h1]

/-- Reading a core after one was replaced. -/
theorem State.getCore_setCore (s : State) (c : Core) (p : Nat) :
    (s.setCore c).getCore p = if c.pcore = p then c else s.getCore p := by
  simp only [State.setCore]
  by_cases h : s.core.pcore = c.pcore
  · rw [if_pos h]
    by_cases h2 : c.pcore = p
    · simp [State.getCore, h2]
    · have h3 : s.core.pcore ≠ p := by omega
      simp [State.getCore, h2, h3]
  · rw [if_neg h]
    by_cases h2 : c.pcore = p
    · have h3 : s.core.pcore ≠ p := by omega
      simp [State.getCore, h3, find_insertCore, h2]
    · by_cases h3 : s.core.pcore = p
      · simp [State.getCore, h3, h2]
      · simp [State.getCore, h3, find_insertCore, h2]

/-- The core that a switch makes current. -/
@[simp] theorem State.switch_core (s : State) (p : Nat) : (s.switch p).core = s.getCore p := by
  simp only [State.switch, State.getCore]
  by_cases h : s.core.pcore = p <;> simp [h]

/-- A switch changes no memory. -/
@[simp] theorem State.switch_mem (s : State) (p : Nat) : (s.switch p).mem = s.mem := by
  simp only [State.switch]; split <;> rfl

/-- A switch passes no time. -/
@[simp] theorem State.switch_tick (s : State) (p : Nat) : (s.switch p).tick = s.tick := by
  simp only [State.switch]; split <;> rfl

/-- A switch to the current core changes nothing. -/
theorem State.switch_self (s : State) : s.switch s.core.pcore = s := by simp [State.switch]

/-- Replacing a core changes nothing but cores. -/
@[simp] theorem State.setCore_mem (s : State) (c : Core) : (s.setCore c).mem = s.mem := by
  simp only [State.setCore]; split <;> rfl

/-- Replacing a core passes no time. -/
@[simp] theorem State.setCore_tick (s : State) (c : Core) : (s.setCore c).tick = s.tick := by
  simp only [State.setCore]; split <;> rfl

/-- An entry of a table after one was set. -/
theorem Tab.get_put {α : Type} (t : Tab α) (k j : Nat) (v : α) :
    Tab.get (Tab.put t k v) j = if k = j then some v else Tab.get t j := by
  induction t with
  | nil => simp [Tab.put, Tab.get]
  | cons c cs ih =>
    simp only [Tab.put]
    split
    · simp only [Tab.get, ih]
      split_ifs <;> first | rfl | omega
    · split
      · rename_i h1 h2
        simp only [Tab.get]
        split_ifs <;> first | rfl | omega
      · simp only [Tab.get]

/-- An entry of a table after one was removed. -/
theorem Tab.get_del {α : Type} (t : Tab α) (k j : Nat) :
    Tab.get (Tab.del t k) j = if k = j then none else Tab.get t j := by
  induction t with
  | nil => simp [Tab.del, Tab.get]
  | cons c cs ih =>
    simp only [Tab.del] at ih ⊢
    by_cases h : c.1 = k
    · have h' : (c.1 != k) = false := by simp [h]
      rw [List.filter_cons_of_neg (by simp [h']), ih]
      simp only [Tab.get]; split_ifs <;> first | rfl | omega
    · have h' : (c.1 != k) = true := by simpa using h
      rw [List.filter_cons_of_pos (by simpa using h)]
      simp only [Tab.get, ih]; split_ifs <;> first | rfl | omega

/-- Changing one entry of a vector is setting it. -/
theorem vmod_eq_set {α : Type} {n : Nat} (v : Vector α n) (i : Nat) (f : α → α) (h : i < n) :
    vmod v i f = v.set i (f v[i]) h := by
  ext j hj
  simp only [vmod, Vector.getElem_ofFn, Vector.getElem_set, Fin.getElem_fin]
  by_cases hij : j = i
  · subst hij; simp
  · simp [hij, Ne.symm hij]

/-- Removing an entry by its place. -/
theorem dropNth_eq_eraseIdx {α : Type} (l : List α) (i : Nat) : dropNth l i = l.eraseIdx i := by
  simp [dropNth, List.eraseIdx_eq_take_drop_succ]

/-- Traffic accounting changes no core. -/
@[simp] theorem State.meter_core (s : State) (who : Option Payer) (n : Nat) : (s.meter who n).core = s.core := by
  cases who <;> rfl

/-- Traffic accounting changes no memory. -/
@[simp] theorem State.meter_mem (s : State) (who : Option Payer) (n : Nat) : (s.meter who n).mem = s.mem := by
  cases who <;> rfl

/-- Traffic accounting changes no other core. -/
@[simp] theorem State.meter_others (s : State) (who : Option Payer) (n : Nat) : (s.meter who n).others = s.others := by
  cases who <;> rfl

end Sys2Proof.Machine
end

