-- ==== Sys2Proof/Laws/Encode.lean ====
section
/-! SUPPORT. Every field and every operand shape decodes to what was encoded (03 R62 to R68). -/

namespace Sys2Proof

@[simp] theorem dec_bind_ok {α β : Type} (x : α) (f : α → Dec β) : ((Except.ok x : Dec α) >>= f) = f x := rfl

@[simp] theorem dec_pure {α : Type} (x : α) : (pure x : Dec α) = .ok x := rfl

@[simp] theorem dec_map_ok {α β : Type} (x : α) (f : α → β) : ((Except.ok x : Dec α).map f) = .ok (f x) := rfl

@[simp] theorem zero_zero {w : Nat} : zero (0#w) = .ok () := by simp [zero]

@[simp] theorem noN_false : noN false = .ok () := rfl

theorem finDec_finEnc {k w : Nat} (i : Fin k) (h : k ≤ 2 ^ w) : finDec k (finEnc i : BitVec w) = .ok i := by
  have hi : i.val < 2 ^ w := Nat.lt_of_lt_of_le i.isLt h
  simp [finDec, finEnc, Nat.mod_eq_of_lt hi]

@[simp] theorem finDec_finEnc_56 (i : Fin 56) : finDec 56 (finEnc i : BitVec 6) = .ok i := finDec_finEnc i (by decide)
@[simp] theorem finDec_finEnc_25 (i : Fin 25) : finDec 25 (finEnc i : BitVec 6) = .ok i := finDec_finEnc i (by decide)
@[simp] theorem finDec_finEnc_16 (i : Fin 16) : finDec 16 (finEnc i : BitVec 6) = .ok i := finDec_finEnc i (by decide)
@[simp] theorem finDec_finEnc_8 (i : Fin 8) : finDec 8 (finEnc i : BitVec 6) = .ok i := finDec_finEnc i (by decide)

@[simp] theorem finDec_flip (i : Fin 16) : finDec 16 ((finEnc i : BitVec 6) ^^^ 16#6 ^^^ 16#6) = .ok i := by
  rw [BitVec.xor_assoc, BitVec.xor_self, BitVec.xor_zero]
  exact finDec_finEnc_16 i

@[simp] theorem SSrc.dec_enc (x : SSrc) : SSrc.dec x.enc = .ok x := by
  cases x with
  | x i => revert i; decide
  | _ => decide

@[simp] theorem VSrc.dec_enc (x : VSrc) : VSrc.dec x.enc = .ok x := by
  cases x with
  | v i => revert i; decide
  | w i => revert i; decide
  | _ => decide

@[simp] theorem VDst.dec_enc (x : VDst) : VDst.dec x.enc = .ok x := by
  cases x with
  | v i => revert i; decide
  | w i => revert i; decide

@[simp] theorem ITy.dec_enc (x : ITy) : ITy.dec x.enc = .ok x := by cases x <;> decide

@[simp] theorem FTy.dec_enc (x : FTy) : FTy.dec x.enc = .ok x := by cases x <;> decide

@[simp] theorem ElTy.dec_code (x : ElTy) : ElTy.dec x.isF x.code = .ok x := by
  cases x <;> simp [ElTy.dec, ElTy.isF, ElTy.code]

@[simp] theorem Scope.dec_enc (x : Scope) : Scope.dec x.enc = .ok x := by cases x <;> decide

@[simp] theorem Ord.dec_enc (x : Ord) : Ord.dec x.enc = .ok x := by cases x <;> decide

@[simp] theorem flagDec_flagEnc (b : Bool) : flagDec (flagEnc b) = .ok b := by cases b <;> decide

/-! Pieces of a field put together again. -/

/-- A piece of two joined words that lies inside the lower one. -/
theorem extract_low {v w : Nat} (x : BitVec v) (y : BitVec w) {i n : Nat} (h : i + n ≤ w) :
    (x ++ y).extractLsb' i n = y.extractLsb' i n := by
  ext k hk
  simp [BitVec.getLsbD_append, show i + k < w by omega]

/-- A piece of two joined words that lies inside the upper one. -/
theorem extract_high {v w : Nat} (x : BitVec v) (y : BitVec w) {i n : Nat} (h : w ≤ i) :
    (x ++ y).extractLsb' i n = x.extractLsb' (i - w) n := by
  ext k hk
  simp [BitVec.getLsbD_append, show ¬ i + k < w by omega, show i + k - w = i - w + k by omega]


/-- Two pieces of a word, the upper and the lower, are the word. -/
theorem extract_join {n : Nat} (k : Nat) (x : BitVec n) {m : Nat} (h : k + m = n) :
    (x.extractLsb' k m ++ x.extractLsb' 0 k).cast (by omega) = x := by
  ext i hi
  rcases Nat.lt_or_ge i k with g | g
  · simp [BitVec.getElem_append, g, BitVec.getLsbD_eq_getElem hi]
  · simp [BitVec.getElem_append, show ¬ i < k by omega, show k + (i - k) = i by omega, BitVec.getLsbD_eq_getElem hi]

@[simp] theorem join_9 (x : BitVec 9) : x.extractLsb' 6 3 ++ x.extractLsb' 0 6 = x := extract_join 6 x rfl
@[simp] theorem join_12 (x : BitVec 12) : x.extractLsb' 6 6 ++ x.extractLsb' 0 6 = x := extract_join 6 x rfl
@[simp] theorem join_8 (x : BitVec 8) : x.extractLsb' 4 4 ++ x.extractLsb' 0 4 = x := extract_join 4 x rfl
@[simp] theorem join_4 (x : BitVec 4) : x.extractLsb' 1 3 ++ x.extractLsb' 0 1 = x := extract_join 1 x rfl

/-- The upper and the middle piece of a word of three pieces. -/
theorem join_mid {n : Nat} (x : BitVec n) {k m j : Nat} :
    x.extractLsb' (k + m) j ++ x.extractLsb' k m = x.extractLsb' k (j + m) := by
  ext i hi
  rcases Nat.lt_or_ge i m with g | g
  · simp [BitVec.getElem_append, g]
  · simp [BitVec.getElem_append, show ¬ i < m by omega, show k + m + (i - m) = k + i by omega]

@[simp] theorem join_15 (x : BitVec 15) : x.extractLsb' 12 3 ++ x.extractLsb' 6 6 ++ x.extractLsb' 0 6 = x := by
  rw [show x.extractLsb' 12 3 ++ x.extractLsb' 6 6 = x.extractLsb' 6 9 from join_mid x]
  exact extract_join 6 x rfl

@[simp] theorem join_16 (x : BitVec 16) : x.extractLsb' 12 4 ++ x.extractLsb' 6 6 ++ x.extractLsb' 0 6 = x := by
  rw [show x.extractLsb' 12 4 ++ x.extractLsb' 6 6 = x.extractLsb' 6 10 from join_mid x]
  exact extract_join 6 x rfl

@[simp] theorem extract_all {n : Nat} (x : BitVec n) : x.extractLsb' 0 n = x := BitVec.extractLsb'_eq_self

/-! The pieces the shapes below take out of joined fields. -/

@[simp] theorem cut_2_1_2_1 (x : BitVec 2) (y : BitVec 1) : (x ++ y : BitVec 3).extractLsb' 2 1 = x.extractLsb' 1 1 :=
  extract_high x y (by decide)
@[simp] theorem cut_2_1_1_2 (x : BitVec 2) (y : BitVec 1) : (x ++ y : BitVec 3).extractLsb' 1 2 = x.extractLsb' 0 2 :=
  extract_high x y (by decide)
@[simp] theorem cut_2_4_4_2 (x : BitVec 2) (y : BitVec 4) : (x ++ y : BitVec 6).extractLsb' 4 2 = x.extractLsb' 0 2 :=
  extract_high x y (by decide)
@[simp] theorem cut_2_4_0_4 (x : BitVec 2) (y : BitVec 4) : (x ++ y : BitVec 6).extractLsb' 0 4 = y.extractLsb' 0 4 :=
  extract_low x y (by decide)
@[simp] theorem cut_5_1_4_2 (x : BitVec 5) (y : BitVec 1) : (x ++ y : BitVec 6).extractLsb' 4 2 = x.extractLsb' 3 2 :=
  extract_high x y (by decide)
@[simp] theorem cut_5_1_0_1 (x : BitVec 5) (y : BitVec 1) : (x ++ y : BitVec 6).extractLsb' 0 1 = y.extractLsb' 0 1 :=
  extract_low x y (by decide)
@[simp] theorem cut_5_1_1_3 (x : BitVec 5) (y : BitVec 1) : (x ++ y : BitVec 6).extractLsb' 1 3 = x.extractLsb' 0 3 :=
  extract_high x y (by decide)
@[simp] theorem cut_2_3_3_2 (x : BitVec 2) (y : BitVec 3) : (x ++ y : BitVec 5).extractLsb' 3 2 = x.extractLsb' 0 2 :=
  extract_high x y (by decide)
@[simp] theorem cut_2_3_0_3 (x : BitVec 2) (y : BitVec 3) : (x ++ y : BitVec 5).extractLsb' 0 3 = y.extractLsb' 0 3 :=
  extract_low x y (by decide)
@[simp] theorem cut_2_4_5_1 (x : BitVec 2) (y : BitVec 4) : (x ++ y : BitVec 6).extractLsb' 5 1 = x.extractLsb' 1 1 :=
  extract_high x y (by decide)
@[simp] theorem cut_1_1_1_1 (x : BitVec 1) (y : BitVec 1) : (x ++ y : BitVec 2).extractLsb' 1 1 = x.extractLsb' 0 1 :=
  extract_high x y (by decide)
@[simp] theorem cut_1_1_0_1 (x : BitVec 1) (y : BitVec 1) : (x ++ y : BitVec 2).extractLsb' 0 1 = y.extractLsb' 0 1 :=
  extract_low x y (by decide)
@[simp] theorem cut_5_1_1_1 (x : BitVec 5) (y : BitVec 1) : (x ++ y : BitVec 6).extractLsb' 1 1 = x.extractLsb' 0 1 :=
  extract_high x y (by decide)
@[simp] theorem cut_5_1_2_4 (x : BitVec 5) (y : BitVec 1) : (x ++ y : BitVec 6).extractLsb' 2 4 = x.extractLsb' 1 4 :=
  extract_high x y (by decide)
@[simp] theorem cut_4_1_1_4 (x : BitVec 4) (y : BitVec 1) : (x ++ y : BitVec 5).extractLsb' 1 4 = x.extractLsb' 0 4 :=
  extract_high x y (by decide)
@[simp] theorem cut_4_1_0_1 (x : BitVec 4) (y : BitVec 1) : (x ++ y : BitVec 5).extractLsb' 0 1 = y.extractLsb' 0 1 :=
  extract_low x y (by decide)
@[simp] theorem cut_4_2_2_4 (x : BitVec 4) (y : BitVec 2) : (x ++ y : BitVec 6).extractLsb' 2 4 = x.extractLsb' 0 4 :=
  extract_high x y (by decide)
@[simp] theorem cut_4_2_0_2 (x : BitVec 4) (y : BitVec 2) : (x ++ y : BitVec 6).extractLsb' 0 2 = y.extractLsb' 0 2 :=
  extract_low x y (by decide)
@[simp] theorem cut_3_3_0_3 (x : BitVec 3) (y : BitVec 3) : (x ++ y : BitVec 6).extractLsb' 0 3 = y.extractLsb' 0 3 :=
  extract_low x y (by decide)
@[simp] theorem cut_3_3_3_3 (x : BitVec 3) (y : BitVec 3) : (x ++ y : BitVec 6).extractLsb' 3 3 = x.extractLsb' 0 3 :=
  extract_high x y (by decide)
@[simp] theorem cut_2_6_6_2 (x : BitVec 2) (y : BitVec 6) : (x ++ y : BitVec 8).extractLsb' 6 2 = x.extractLsb' 0 2 :=
  extract_high x y (by decide)
@[simp] theorem cut_2_6_0_6 (x : BitVec 2) (y : BitVec 6) : (x ++ y : BitVec 8).extractLsb' 0 6 = y.extractLsb' 0 6 :=
  extract_low x y (by decide)
@[simp] theorem cut_2_4_4_1 (x : BitVec 2) (y : BitVec 4) : (x ++ y : BitVec 6).extractLsb' 4 1 = x.extractLsb' 0 1 :=
  extract_high x y (by decide)
@[simp] theorem cut_1_4_0_4 (x : BitVec 1) (y : BitVec 4) : (x ++ y : BitVec 5).extractLsb' 0 4 = y.extractLsb' 0 4 :=
  extract_low x y (by decide)
@[simp] theorem cut_3_3_5_1 (x : BitVec 3) (y : BitVec 3) : (x ++ y : BitVec 6).extractLsb' 5 1 = x.extractLsb' 2 1 :=
  extract_high x y (by decide)
@[simp] theorem cut_1_5_5_1 (x : BitVec 1) (y : BitVec 5) : (x ++ y : BitVec 6).extractLsb' 5 1 = x.extractLsb' 0 1 :=
  extract_high x y (by decide)
@[simp] theorem cut_4_2_1_1 (x : BitVec 4) (y : BitVec 2) : (x ++ y : BitVec 6).extractLsb' 1 1 = y.extractLsb' 1 1 :=
  extract_low x y (by decide)
@[simp] theorem cut_5_3_0_3 (x : BitVec 5) (y : BitVec 3) : (x ++ y : BitVec 8).extractLsb' 0 3 = y.extractLsb' 0 3 :=
  extract_low x y (by decide)
@[simp] theorem cut_3_3_3_2 (x : BitVec 3) (y : BitVec 3) : (x ++ y : BitVec 6).extractLsb' 3 2 = x.extractLsb' 0 2 :=
  extract_high x y (by decide)
@[simp] theorem cut_1_2_1_1 (x : BitVec 1) (y : BitVec 2) : (x ++ y : BitVec 3).extractLsb' 1 1 = y.extractLsb' 1 1 :=
  extract_low x y (by decide)
@[simp] theorem cut_2_1_1_1 (x : BitVec 2) (y : BitVec 1) : (x ++ y : BitVec 3).extractLsb' 1 1 = x.extractLsb' 0 1 :=
  extract_high x y (by decide)
@[simp] theorem cut_3_1_0_1 (x : BitVec 3) (y : BitVec 1) : (x ++ y : BitVec 4).extractLsb' 0 1 = y.extractLsb' 0 1 :=
  extract_low x y (by decide)
@[simp] theorem cut_3_3_4_2 (x : BitVec 3) (y : BitVec 3) : (x ++ y : BitVec 6).extractLsb' 4 2 = x.extractLsb' 1 2 :=
  extract_high x y (by decide)

/-- A bit of two joined words that lies in the lower one. -/
theorem elem_low {v w : Nat} (x : BitVec v) (y : BitVec w) {i : Nat} (h : i < w) : (x ++ y)[i] = y[i] := by
  simp [BitVec.getElem_append, h]

/-- A bit of two joined words that lies in the upper one. -/
theorem elem_high {v w : Nat} (x : BitVec v) (y : BitVec w) {i : Nat} (h : w ≤ i) (g : i < v + w) :
    (x ++ y)[i] = x[i - w] := by
  simp [BitVec.getElem_append, show ¬ i < w by omega]

@[simp] theorem bit_4_1_0 (x : BitVec 4) (y : BitVec 1) : (x ++ y : BitVec 5)[0] = y[0] := elem_low x y (by decide)
@[simp] theorem bit_2_4_4 (x : BitVec 2) (y : BitVec 4) : (x ++ y : BitVec 6)[4] = x[0] := elem_high x y (by decide) (by decide)
@[simp] theorem bit_2_4_5 (x : BitVec 2) (y : BitVec 4) : (x ++ y : BitVec 6)[5] = x[1] := elem_high x y (by decide) (by decide)
@[simp] theorem bit_1_1_0 (x : BitVec 1) (y : BitVec 1) : (x ++ y : BitVec 2)[0] = y[0] := elem_low x y (by decide)
@[simp] theorem bit_1_1_1 (x : BitVec 1) (y : BitVec 1) : (x ++ y : BitVec 2)[1] = x[0] := elem_high x y (by decide) (by decide)
@[simp] theorem bit_5_1_0 (x : BitVec 5) (y : BitVec 1) : (x ++ y : BitVec 6)[0] = y[0] := elem_low x y (by decide)
@[simp] theorem bit_4_2_0 (x : BitVec 4) (y : BitVec 2) : (x ++ y : BitVec 6)[0] = y[0] := elem_low x y (by decide)
@[simp] theorem bit_4_2_1 (x : BitVec 4) (y : BitVec 2) : (x ++ y : BitVec 6)[1] = y[1] := elem_low x y (by decide)
@[simp] theorem bit_3_3_3 (x : BitVec 3) (y : BitVec 3) : (x ++ y : BitVec 6)[3] = x[0] := elem_high x y (by decide) (by decide)
@[simp] theorem bit_3_3_4 (x : BitVec 3) (y : BitVec 3) : (x ++ y : BitVec 6)[4] = x[1] := elem_high x y (by decide) (by decide)
@[simp] theorem bit_5_1_1 (x : BitVec 5) (y : BitVec 1) : (x ++ y : BitVec 6)[1] = x[0] := elem_high x y (by decide) (by decide)
@[simp] theorem bit_1_5_5 (x : BitVec 1) (y : BitVec 5) : (x ++ y : BitVec 6)[5] = x[0] := elem_high x y (by decide) (by decide)
@[simp] theorem bit_3_3_5 (x : BitVec 3) (y : BitVec 3) : (x ++ y : BitVec 6)[5] = x[2] := elem_high x y (by decide) (by decide)
@[simp] theorem bit_2_1_0 (x : BitVec 2) (y : BitVec 1) : (x ++ y : BitVec 3)[0] = y[0] := elem_low x y (by decide)
@[simp] theorem bit_2_1_1 (x : BitVec 2) (y : BitVec 1) : (x ++ y : BitVec 3)[1] = x[0] := elem_high x y (by decide) (by decide)
@[simp] theorem bit_2_1_2 (x : BitVec 2) (y : BitVec 1) : (x ++ y : BitVec 3)[2] = x[1] := elem_high x y (by decide) (by decide)
@[simp] theorem ofBool_elem (b : Bool) : (BitVec.ofBool b)[0] = b := by cases b <;> rfl

@[simp] theorem ordPlain_enc (x : BitVec 4) : ordPlain (0#2 ++ x) = .ok x := by
  simp [ordPlain]

@[simp] theorem ordScope_enc (o : BitVec 2) (s : Scope) : ordScope o (encOrdScope o s) = .ok s := by
  simp [ordScope, encOrdScope]

@[simp] theorem encOrdScope_ord (o : BitVec 2) (s : Scope) : (encOrdScope o s).extractLsb' 4 2 = o := by
  simp [encOrdScope]

@[simp] theorem BarOp.dec_field (x : BarOp) : BarOp.dec x.bn x.field = .ok x := by
  cases x <;> simp [BarOp.dec, BarOp.bn, BarOp.field]

@[simp] theorem barOptDec_field (x : Option BarOp) : barOptDec x.isSome (barOptBn x) (barOptField x) = .ok x := by
  cases x <;> simp [barOptDec, barOptBn, barOptField]

@[simp] theorem PipeSrc.dec_enc (x : PipeSrc) : PipeSrc.dec x.tag[0] x.enc = .ok x := by
  cases x <;> simp [PipeSrc.dec, PipeSrc.tag, PipeSrc.enc]

@[simp] theorem PipeSrc.tag_high (x : PipeSrc) : x.tag.extractLsb' 1 2 = 0#2 := by cases x <;> simp [PipeSrc.tag]

@[simp] theorem PipeDst.dec_enc (x : PipeDst) : PipeDst.dec x.tag[0] x.enc = .ok x := by
  cases x <;> simp [PipeDst.dec, PipeDst.tag, PipeDst.enc]

@[simp] theorem PipeDst.tag_high (x : PipeDst) : x.tag.extractLsb' 1 2 = 0#2 := by cases x <;> simp [PipeDst.tag]

@[simp] theorem ofBool_bit (b : Bool) : (BitVec.ofBool b).getLsbD 0 = b := by cases b <;> rfl

@[simp] theorem finEnc_16_high (i : Fin 16) : (finEnc i : BitVec 6).extractLsb' 4 2 = 0#2 := by revert i; decide
@[simp] theorem finEnc_16_flip_high (i : Fin 16) : (finEnc i ^^^ 16#6 : BitVec 6).extractLsb' 4 2 = 1#2 := by
  revert i; decide

/-- The fields of a packed word, with or without the e bit, are the fields that were packed (R58, R62). -/
theorem unpack_pack (f : Fields) : unpack (pack f) = f := by
  obtain ⟨n, cls, op, t, d, a, b⟩ := f
  have hn : (0#1 ++ cls ++ BitVec.ofBool n ++ op ++ t ++ d ++ a ++ b).getLsbD 28 = n := by
    have high : ∀ (v w : Nat) (x : BitVec v) (y : BitVec w) (i : Nat), w ≤ i → (x ++ y).getLsbD i = x.getLsbD (i - w) :=
      fun v w x y i g => by simp [BitVec.getLsbD_append, show ¬ i < w by omega]
    have low : ∀ (v w : Nat) (x : BitVec v) (y : BitVec w) (i : Nat), i < w → (x ++ y).getLsbD i = y.getLsbD i :=
      fun v w x y i g => by simp [BitVec.getLsbD_append, g]
    exact (high _ _ _ _ _ (by decide)).trans <| (high _ _ _ _ _ (by decide)).trans <|
      (high _ _ _ _ _ (by decide)).trans <| (high _ _ _ _ _ (by decide)).trans <|
      (high _ _ _ _ _ (by decide)).trans <| (low _ _ _ _ _ (by decide)).trans (ofBool_bit n)
  have hcls : (0#1 ++ cls ++ BitVec.ofBool n ++ op ++ t ++ d ++ a ++ b).extractLsb' 29 2 = cls :=
    (extract_high _ _ (by decide)).trans <|
      (extract_high _ _ (by decide)).trans <| (extract_high _ _ (by decide)).trans <| (extract_high _ _ (by decide)).trans <|
      (extract_high _ _ (by decide)).trans <| (extract_high _ _ (by decide)).trans <| (extract_low _ _ (by decide)).trans (extract_all _)
  have hop : (0#1 ++ cls ++ BitVec.ofBool n ++ op ++ t ++ d ++ a ++ b).extractLsb' 21 7 = op :=
    (extract_high _ _ (by decide)).trans <|
      (extract_high _ _ (by decide)).trans <| (extract_high _ _ (by decide)).trans <| (extract_high _ _ (by decide)).trans <| (extract_low _ _ (by decide)).trans (extract_all _)
  have ht : (0#1 ++ cls ++ BitVec.ofBool n ++ op ++ t ++ d ++ a ++ b).extractLsb' 18 3 = t :=
    (extract_high _ _ (by decide)).trans <|
      (extract_high _ _ (by decide)).trans <| (extract_high _ _ (by decide)).trans <| (extract_low _ _ (by decide)).trans (extract_all _)
  have hd : (0#1 ++ cls ++ BitVec.ofBool n ++ op ++ t ++ d ++ a ++ b).extractLsb' 12 6 = d :=
    (extract_high _ _ (by decide)).trans <| (extract_high _ _ (by decide)).trans <| (extract_low _ _ (by decide)).trans (extract_all _)
  have ha : (0#1 ++ cls ++ BitVec.ofBool n ++ op ++ t ++ d ++ a ++ b).extractLsb' 6 6 = a :=
    (extract_high _ _ (by decide)).trans <| (extract_low _ _ (by decide)).trans (extract_all _)
  have hb : (0#1 ++ cls ++ BitVec.ofBool n ++ op ++ t ++ d ++ a ++ b).extractLsb' 0 6 = b :=
    (extract_low _ _ (by decide)).trans (extract_all _)
  exact congr (congr (congr (congr (congr (congr (congrArg Fields.mk hn) hcls) hop) ht) hd) ha) hb

/-- The e bit is no field (R58). -/
theorem unpack_e (w : BitVec 32) : unpack (w ||| 0x80000000#32) = unpack w := by
  simp [unpack, BitVec.extractLsb'_or]

/-! One equation per operand shape: the decoder of the shape undoes its encoder. -/

@[simp] theorem decR3_encR3 (cls : BitVec 2) (op : BitVec 7) (n : Bool) (d : SDst) (a : SSrc) (b : SSrc) (mk : Bool → SDst → SSrc → SSrc → Instr) :
    decR3 (encR3 cls op n d a b) mk = .ok (mk n d a b) := by
  simp [decR3, encR3]

@[simp] theorem decR2_encR2 (cls : BitVec 2) (op : BitVec 7) (n : Bool) (d : SDst) (a : SSrc) (mk : Bool → SDst → SSrc → Instr) :
    decR2 (encR2 cls op n d a) mk = .ok (mk n d a) := by
  simp [decR2, encR2]

@[simp] theorem decRw_encRw (cls : BitVec 2) (op : BitVec 7) (n : Bool) (d : SDst) (a : SSrc) (w : BitVec 6) (mk : Bool → SDst → SSrc → (BitVec 6) → Instr) :
    decRw (encRw cls op n d a w) mk = .ok (mk n d a w) := by
  simp [decRw, encRw]

@[simp] theorem decWidf_encWidf (cls : BitVec 2) (op : BitVec 7) (n : Bool) (d : SDst) (k : BitVec 6) (mk : Bool → SDst → (BitVec 6) → Instr) :
    decWidf (encWidf cls op n d k) mk = .ok (mk n d k) := by
  simp [decWidf, encWidf]

@[simp] theorem decI_encI (cls : BitVec 2) (op : BitVec 7) (n : Bool) (d : SDst) (a : SSrc) (imm : BitVec 9) (mk : Bool → SDst → SSrc → (BitVec 9) → Instr) :
    decI (encI cls op n d a imm) mk = .ok (mk n d a imm) := by
  simp [decI, encI]

@[simp] theorem decIp_encIp (cls : BitVec 2) (op : BitVec 7) (n : Bool) (d : PReg) (a : SSrc) (imm : BitVec 9) (mk : Bool → PReg → SSrc → (BitVec 9) → Instr) :
    decIp (encIp cls op n d a imm) mk = .ok (mk n d a imm) := by
  simp [decIp, encIp]

@[simp] theorem decL_encL (cls : BitVec 2) (op : BitVec 7) (n : Bool) (d : SDst) (imm : BitVec 15) (mk : Bool → SDst → (BitVec 15) → Instr) :
    decL (encL cls op n d imm) mk = .ok (mk n d imm) := by
  simp [decL, encL]

@[simp] theorem decCmp_encCmp (cls : BitVec 2) (op : BitVec 7) (k : BitVec 3) (n : Bool) (d : PReg) (a : SSrc) (b : SSrc) (mk : Bool → PReg → SSrc → SSrc → Instr) :
    decCmp (encCmp cls op k n d a b) mk = .ok (mk n d a b) := by
  simp [decCmp, encCmp]

@[simp] theorem decP3_encP3 (cls : BitVec 2) (op : BitVec 7) (n : Bool) (d : PReg) (a : PReg) (b : PReg) (mk : Bool → PReg → PReg → PReg → Instr) :
    decP3 (encP3 cls op n d a b) mk = .ok (mk n d a b) := by
  simp [decP3, encP3]

@[simp] theorem decP2_encP2 (cls : BitVec 2) (op : BitVec 7) (n : Bool) (d : PReg) (a : PReg) (mk : Bool → PReg → PReg → Instr) :
    decP2 (encP2 cls op n d a) mk = .ok (mk n d a) := by
  simp [decP2, encP2]

@[simp] theorem decBr_encBr (cls : BitVec 2) (op : BitVec 7) (p : PReg) (neg : Bool) (disp : BitVec 16) (mk : PReg → Bool → (BitVec 16) → Instr) :
    decBr (encBr cls op p neg disp) mk = .ok (mk p neg disp) := by
  simp [decBr, encBr]

@[simp] theorem decCall_encCall (cls : BitVec 2) (op : BitVec 7) (n : Bool) (p : PReg) (neg : Bool) (disp : BitVec 16) (mk : Bool → PReg → Bool → (BitVec 16) → Instr) :
    decCall (encCall cls op n p neg disp) mk = .ok (mk n p neg disp) := by
  simp [decCall, encCall]

@[simp] theorem decRa_encRa (cls : BitVec 2) (op : BitVec 7) (a : SSrc) (mk : SSrc → Instr) :
    decRa (encRa cls op a) mk = .ok (mk a) := by
  simp [decRa, encRa]

@[simp] theorem decLoop_encLoop (cls : BitVec 2) (op : BitVec 7) (d : SSrc) (imm : BitVec 15) (mk : SSrc → (BitVec 15) → Instr) :
    decLoop (encLoop cls op d imm) mk = .ok (mk d imm) := by
  simp [decLoop, encLoop]

@[simp] theorem decBrkl_encBrkl (cls : BitVec 2) (op : BitVec 7) (neg : Bool) (p : PReg) (mk : Bool → PReg → Instr) :
    decBrkl (encBrkl cls op neg p) mk = .ok (mk neg p) := by
  simp [decBrkl, encBrkl]

@[simp] theorem decShf_encShf (cls : BitVec 2) (op : BitVec 7) (k : BitVec 3) (fld : Fin 25) (a : SSrc) (sd : Fin 8) (mk : (Fin 25) → SSrc → (Fin 8) → Instr) :
    decShf (encShf cls op k fld a sd) mk = .ok (mk fld a sd) := by
  simp [decShf, encShf]

@[simp] theorem decShfi_encShfi (cls : BitVec 2) (op : BitVec 7) (k : BitVec 3) (imm : BitVec 9) (fld : Fin 25) (sd : Fin 8) (mk : (BitVec 9) → (Fin 25) → (Fin 8) → Instr) :
    decShfi (encShfi cls op k imm fld sd) mk = .ok (mk imm fld sd) := by
  simp [decShfi, encShfi]

@[simp] theorem decShcp_encShcp (cls : BitVec 2) (op : BitVec 7) (k : BitVec 3) (sd : Fin 8) (t : Fin 8) (mk : (Fin 8) → (Fin 8) → Instr) :
    decShcp (encShcp cls op k sd t) mk = .ok (mk sd t) := by
  simp [decShcp, encShcp]

@[simp] theorem decShcpM_encShcpM (cls : BitVec 2) (op : BitVec 7) (k : BitVec 3) (sd : Fin 8) (a : SSrc) (mk : (Fin 8) → SSrc → Instr) :
    decShcpM (encShcpM cls op k sd a) mk = .ok (mk sd a) := by
  simp [decShcpM, encShcpM]

@[simp] theorem decShrd_encShrd (cls : BitVec 2) (op : BitVec 7) (n : Bool) (d : SDst) (r : Fin 16) (fld : Fin 25) (mk : Bool → SDst → (Fin 16) → (Fin 25) → Instr) :
    decShrd (encShrd cls op n d r fld) mk = .ok (mk n d r fld) := by
  simp [decShrd, encShrd]

@[simp] theorem decShchk_encShchk (cls : BitVec 2) (op : BitVec 7) (n : Bool) (d : SDst) (r : Fin 16) (mk : Bool → SDst → (Fin 16) → Instr) :
    decShchk (encShchk cls op n d r) mk = .ok (mk n d r) := by
  simp [decShchk, encShchk]

@[simp] theorem decCsrr_encCsrr (cls : BitVec 2) (op : BitVec 7) (n : Bool) (g : SDst) (c : BitVec 12) (mk : Bool → SDst → (BitVec 12) → Instr) :
    decCsrr (encCsrr cls op n g c) mk = .ok (mk n g c) := by
  simp [decCsrr, encCsrr]

@[simp] theorem decCsrw_encCsrw (cls : BitVec 2) (op : BitVec 7) (g : SSrc) (c : BitVec 12) (mk : SSrc → (BitVec 12) → Instr) :
    decCsrw (encCsrw cls op g c) mk = .ok (mk g c) := by
  simp [decCsrw, encCsrw]

@[simp] theorem decSys_encSys (cls : BitVec 2) (op : BitVec 7) (f : BitVec 6) (mk : (BitVec 6) → Instr) :
    decSys (encSys cls op f) mk = .ok (mk f) := by
  simp [decSys, encSys]

@[simp] theorem decR1d_encR1d (cls : BitVec 2) (op : BitVec 7) (n : Bool) (d : SDst) (mk : Bool → SDst → Instr) :
    decR1d (encR1d cls op n d) mk = .ok (mk n d) := by
  simp [decR1d, encR1d]

@[simp] theorem decV3_encV3 (cls : BitVec 2) (op : BitVec 7) (n : Bool) (t : ITy) (d : VDst) (a : VSrc) (b : VSrc) (mk : Bool → ITy → VDst → VSrc → VSrc → Instr) :
    decV3 (encV3 cls op n t d a b) mk = .ok (mk n t d a b) := by
  simp [decV3, encV3]

@[simp] theorem decV2_encV2 (cls : BitVec 2) (op : BitVec 7) (n : Bool) (t : ITy) (d : VDst) (a : VSrc) (mk : Bool → ITy → VDst → VSrc → Instr) :
    decV2 (encV2 cls op n t d a) mk = .ok (mk n t d a) := by
  simp [decV2, encV2]

@[simp] theorem decVc_encVc (cls : BitVec 2) (op : BitVec 7) (n : Bool) (t : ITy) (d : PReg) (a : VSrc) (b : VSrc) (mk : Bool → ITy → PReg → VSrc → VSrc → Instr) :
    decVc (encVc cls op n t d a b) mk = .ok (mk n t d a b) := by
  simp [decVc, encVc]

@[simp] theorem decVp_encVp (cls : BitVec 2) (op : BitVec 7) (n : Bool) (t : ITy) (d : VDst) (a : VSrc) (p : PReg) (mk : Bool → ITy → VDst → VSrc → PReg → Instr) :
    decVp (encVp cls op n t d a p) mk = .ok (mk n t d a p) := by
  simp [decVp, encVp]

@[simp] theorem decF3_encF3 (cls : BitVec 2) (op : BitVec 7) (n : Bool) (t : FTy) (d : VDst) (a : VSrc) (b : VSrc) (mk : Bool → FTy → VDst → VSrc → VSrc → Instr) :
    decF3 (encF3 cls op n t d a b) mk = .ok (mk n t d a b) := by
  simp [decF3, encF3]

@[simp] theorem decF2_encF2 (cls : BitVec 2) (op : BitVec 7) (n : Bool) (t : FTy) (d : VDst) (a : VSrc) (mk : Bool → FTy → VDst → VSrc → Instr) :
    decF2 (encF2 cls op n t d a) mk = .ok (mk n t d a) := by
  simp [decF2, encF2]

@[simp] theorem decFc_encFc (cls : BitVec 2) (op : BitVec 7) (n : Bool) (t : FTy) (d : PReg) (a : VSrc) (b : VSrc) (mk : Bool → FTy → PReg → VSrc → VSrc → Instr) :
    decFc (encFc cls op n t d a b) mk = .ok (mk n t d a b) := by
  simp [decFc, encFc]

@[simp] theorem decCvt_encCvt (cls : BitVec 2) (op : BitVec 7) (n : Bool) (t : ElTy) (d : VDst) (a : VSrc) (src : ElTy) (mk : Bool → ElTy → VDst → VSrc → ElTy → Instr) :
    decCvt (encCvt cls op n t d a src) mk = .ok (mk n t d a src) := by
  simp [decCvt, encCvt]

@[simp] theorem decViota_encViota (cls : BitVec 2) (op : BitVec 7) (n : Bool) (t : ITy) (d : VDst) (p : PReg) (mk : Bool → ITy → VDst → PReg → Instr) :
    decViota (encViota cls op n t d p) mk = .ok (mk n t d p) := by
  simp [decViota, encViota]

@[simp] theorem decVpX_encVpX (cls : BitVec 2) (op : BitVec 7) (n : Bool) (t : ITy) (d : VDst) (a : VSrc) (p : PReg) (mk : Bool → ITy → VDst → VSrc → PReg → Instr) :
    decVpX (encVpX cls op n t d a p) mk = .ok (mk n t d a p) := by
  simp [decVpX, encVpX]

@[simp] theorem decCmpxI_encCmpxI (cls : BitVec 2) (op : BitVec 7) (n : Bool) (t : ITy) (d : VDst) (a : VSrc) (desc : Bool) (flip : Bool) (j : BitVec 4) (mk : Bool → ITy → VDst → VSrc → Bool → Bool → (BitVec 4) → Instr) :
    decCmpxI (encCmpxI cls op n t d a desc flip j) mk = .ok (mk n t d a desc flip j) := by
  simp [decCmpxI, encCmpxI]

@[simp] theorem decPset_encPset (cls : BitVec 2) (op : BitVec 7) (n : Bool) (d : PReg) (k : BitVec 12) (mk : Bool → PReg → (BitVec 12) → Instr) :
    decPset (encPset cls op n d k) mk = .ok (mk n d k) := by
  simp [decPset, encPset]

@[simp] theorem decPcnt_encPcnt (cls : BitVec 2) (op : BitVec 7) (n : Bool) (d : VDst) (a : PReg) (mk : Bool → VDst → PReg → Instr) :
    decPcnt (encPcnt cls op n d a) mk = .ok (mk n d a) := by
  simp [decPcnt, encPcnt]

@[simp] theorem decFp_encFp (cls : BitVec 2) (op : BitVec 7) (n : Bool) (t : FTy) (d : VDst) (a : VSrc) (p : PReg) (mk : Bool → FTy → VDst → VSrc → PReg → Instr) :
    decFp (encFp cls op n t d a p) mk = .ok (mk n t d a p) := by
  simp [decFp, encFp]

@[simp] theorem decFpX_encFpX (cls : BitVec 2) (op : BitVec 7) (n : Bool) (t : FTy) (d : VDst) (a : VSrc) (p : PReg) (mk : Bool → FTy → VDst → VSrc → PReg → Instr) :
    decFpX (encFpX cls op n t d a p) mk = .ok (mk n t d a p) := by
  simp [decFpX, encFpX]

@[simp] theorem decCmpxF_encCmpxF (cls : BitVec 2) (op : BitVec 7) (n : Bool) (t : FTy) (d : VDst) (a : VSrc) (desc : Bool) (flip : Bool) (j : BitVec 4) (mk : Bool → FTy → VDst → VSrc → Bool → Bool → (BitVec 4) → Instr) :
    decCmpxF (encCmpxF cls op n t d a desc flip j) mk = .ok (mk n t d a desc flip j) := by
  simp [decCmpxF, encCmpxF]

@[simp] theorem decLds_encLds (cls : BitVec 2) (op : BitVec 7) (n : Bool) (t : ITy) (g : VDst) (b : SSrc) (off : BitVec 6) (mk : Bool → ITy → VDst → SSrc → (BitVec 6) → Instr) :
    decLds (encLds cls op n t g b off) mk = .ok (mk n t g b off) := by
  simp [decLds, encLds]

@[simp] theorem decSts_encSts (cls : BitVec 2) (op : BitVec 7) (t : ITy) (g : VSrc) (b : SSrc) (off : BitVec 6) (mk : ITy → VSrc → SSrc → (BitVec 6) → Instr) :
    decSts (encSts cls op t g b off) mk = .ok (mk t g b off) := by
  simp [decSts, encSts]

@[simp] theorem decLdss_encLdss (cls : BitVec 2) (op : BitVec 7) (n : Bool) (z : BitVec 3) (g : SDst) (b : SSrc) (off : BitVec 6) (mk : Bool → (BitVec 3) → SDst → SSrc → (BitVec 6) → Instr) :
    decLdss (encLdss cls op n z g b off) mk = .ok (mk n z g b off) := by
  simp [decLdss, encLdss]

@[simp] theorem decStss_encStss (cls : BitVec 2) (op : BitVec 7) (z : BitVec 3) (g : SSrc) (b : SSrc) (off : BitVec 6) (mk : (BitVec 3) → SSrc → SSrc → (BitVec 6) → Instr) :
    decStss (encStss cls op z g b off) mk = .ok (mk z g b off) := by
  simp [decStss, encStss]

@[simp] theorem decLdx_encLdx (cls : BitVec 2) (op : BitVec 7) (n : Bool) (t : ITy) (g : VDst) (b : SSrc) (i : VSrc) (mk : Bool → ITy → VDst → SSrc → VSrc → Instr) :
    decLdx (encLdx cls op n t g b i) mk = .ok (mk n t g b i) := by
  simp [decLdx, encLdx]

@[simp] theorem decStx_encStx (cls : BitVec 2) (op : BitVec 7) (t : ITy) (g : VSrc) (b : SSrc) (i : VSrc) (mk : ITy → VSrc → SSrc → VSrc → Instr) :
    decStx (encStx cls op t g b i) mk = .ok (mk t g b i) := by
  simp [decStx, encStx]

@[simp] theorem decRab_encRab (cls : BitVec 2) (op : BitVec 7) (a : SSrc) (b : SSrc) (mk : SSrc → SSrc → Instr) :
    decRab (encRab cls op a b) mk = .ok (mk a b) := by
  simp [decRab, encRab]

@[simp] theorem decMtx_encMtx (cls : BitVec 2) (op : BitVec 7) (h : Fin 8) (sw : Bool) (bar : Option BarOp) (x : SSrc) (mk : (Fin 8) → Bool → (Option BarOp) → SSrc → Instr) :
    decMtx (encMtx cls op h sw bar x) mk = .ok (mk h sw bar x) := by
  simp [decMtx, encMtx]

@[simp] theorem decAccrd_encAccrd (cls : BitVec 2) (op : BitVec 7) (n : Bool) (d : VDst) (a : SSrc) (mk : Bool → VDst → SSrc → Instr) :
    decAccrd (encAccrd cls op n d a) mk = .ok (mk n d a) := by
  simp [decAccrd, encAccrd]

@[simp] theorem decMwait_encMwait (cls : BitVec 2) (op : BitVec 7) (d : SDst) (a : SSrc) (mk : SDst → SSrc → Instr) :
    decMwait (encMwait cls op d a) mk = .ok (mk d a) := by
  simp [decMwait, encMwait]

@[simp] theorem decLd_encLd (cls : BitVec 2) (op : BitVec 7) (n : Bool) (z : BitVec 3) (g : SDst) (b : SSrc) (off : BitVec 4) (mk : Bool → (BitVec 3) → SDst → SSrc → (BitVec 4) → Instr) :
    decLd (encLd cls op n z g b off) mk = .ok (mk n z g b off) := by
  simp [decLd, encLd]

@[simp] theorem decLdA_encLdA (cls : BitVec 2) (op : BitVec 7) (n : Bool) (z : BitVec 3) (g : SDst) (b : SSrc) (sc : Scope) (mk : Bool → (BitVec 3) → SDst → SSrc → Scope → Instr) :
    decLdA (encLdA cls op n z g b sc) mk = .ok (mk n z g b sc) := by
  simp [decLdA, encLdA]

@[simp] theorem decSt_encSt (cls : BitVec 2) (op : BitVec 7) (z : BitVec 3) (g : SSrc) (b : SSrc) (off : BitVec 4) (mk : (BitVec 3) → SSrc → SSrc → (BitVec 4) → Instr) :
    decSt (encSt cls op z g b off) mk = .ok (mk z g b off) := by
  simp [decSt, encSt]

@[simp] theorem decStR_encStR (cls : BitVec 2) (op : BitVec 7) (z : BitVec 3) (g : SSrc) (b : SSrc) (sc : Scope) (mk : (BitVec 3) → SSrc → SSrc → Scope → Instr) :
    decStR (encStR cls op z g b sc) mk = .ok (mk z g b sc) := by
  simp [decStR, encStR]

@[simp] theorem decVld_encVld (cls : BitVec 2) (op : BitVec 7) (n : Bool) (t : ITy) (g : VDst) (b : SSrc) (off : BitVec 4) (mk : Bool → ITy → VDst → SSrc → (BitVec 4) → Instr) :
    decVld (encVld cls op n t g b off) mk = .ok (mk n t g b off) := by
  simp [decVld, encVld]

@[simp] theorem decVldA_encVldA (cls : BitVec 2) (op : BitVec 7) (n : Bool) (t : ITy) (g : VDst) (b : SSrc) (sc : Scope) (mk : Bool → ITy → VDst → SSrc → Scope → Instr) :
    decVldA (encVldA cls op n t g b sc) mk = .ok (mk n t g b sc) := by
  simp [decVldA, encVldA]

@[simp] theorem decVst_encVst (cls : BitVec 2) (op : BitVec 7) (t : ITy) (g : VSrc) (b : SSrc) (off : BitVec 4) (mk : ITy → VSrc → SSrc → (BitVec 4) → Instr) :
    decVst (encVst cls op t g b off) mk = .ok (mk t g b off) := by
  simp [decVst, encVst]

@[simp] theorem decVstR_encVstR (cls : BitVec 2) (op : BitVec 7) (t : ITy) (g : VSrc) (b : SSrc) (sc : Scope) (mk : ITy → VSrc → SSrc → Scope → Instr) :
    decVstR (encVstR cls op t g b sc) mk = .ok (mk t g b sc) := by
  simp [decVstR, encVstR]

@[simp] theorem decLdf_encLdf (cls : BitVec 2) (op : BitVec 7) (n : Bool) (g : SDst) (b : SSrc) (mk : Bool → SDst → SSrc → Instr) :
    decLdf (encLdf cls op n g b) mk = .ok (mk n g b) := by
  simp [decLdf, encLdf]

@[simp] theorem decLdfA_encLdfA (cls : BitVec 2) (op : BitVec 7) (n : Bool) (g : SDst) (b : SSrc) (sc : Scope) (mk : Bool → SDst → SSrc → Scope → Instr) :
    decLdfA (encLdfA cls op n g b sc) mk = .ok (mk n g b sc) := by
  simp [decLdfA, encLdfA]

@[simp] theorem decStf_encStf (cls : BitVec 2) (op : BitVec 7) (g : SSrc) (b : SSrc) (mk : SSrc → SSrc → Instr) :
    decStf (encStf cls op g b) mk = .ok (mk g b) := by
  simp [decStf, encStf]

@[simp] theorem decStfR_encStfR (cls : BitVec 2) (op : BitVec 7) (g : SSrc) (b : SSrc) (sc : Scope) (mk : SSrc → SSrc → Scope → Instr) :
    decStfR (encStfR cls op g b sc) mk = .ok (mk g b sc) := by
  simp [decStfR, encStfR]

@[simp] theorem decPref_encPref (cls : BitVec 2) (op : BitVec 7) (l1 : Bool) (b : SSrc) (off : BitVec 4) (mk : Bool → SSrc → (BitVec 4) → Instr) :
    decPref (encPref cls op l1 b off) mk = .ok (mk l1 b off) := by
  simp [decPref, encPref]

@[simp] theorem decFence_encFence (cls : BitVec 2) (op : BitVec 7) (k : BitVec 6) (sc : Scope) (mk : Scope → Instr) :
    decFence (encFence cls op k sc) mk = .ok (mk sc) := by
  simp [decFence, encFence]

@[simp] theorem decFencex_encFencex (cls : BitVec 2) (op : BitVec 7) (sc : Scope) (p : BitVec 3) (q : BitVec 3) (mk : Scope → (BitVec 3) → (BitVec 3) → Instr) :
    decFencex (encFencex cls op sc p q) mk = .ok (mk sc p q) := by
  simp [decFencex, encFencex]

@[simp] theorem decAtom_encAtom (cls : BitVec 2) (op : BitVec 7) (k : BitVec 3) (n : Bool) (sc : Scope) (g : SDst) (b : SSrc) (o : Ord) (sz : Bool) (mk : Bool → Scope → SDst → SSrc → Ord → Bool → Instr) :
    decAtom (encAtom cls op k n sc g b o sz) mk = .ok (mk n sc g b o sz) := by
  simp [decAtom, encAtom]

@[simp] theorem decCopy_encCopy (cls : BitVec 2) (op : BitVec 7) (k : BitVec 1) (h : Fin 8) (sw : Bool) (bar : BarOp) (dense : Bool) (x : SDst) (mk : (Fin 8) → Bool → BarOp → Bool → SDst → Instr) :
    decCopy (encCopy cls op k h sw bar dense x) mk = .ok (mk h sw bar dense x) := by
  simp [decCopy, encCopy]

@[simp] theorem decCopym_encCopym (cls : BitVec 2) (op : BitVec 7) (h : Fin 8) (sw : Bool) (bar : BarOp) (post : Bool) (x : SDst) (mk : (Fin 8) → Bool → BarOp → Bool → SDst → Instr) :
    decCopym (encCopym cls op h sw bar post x) mk = .ok (mk h sw bar post x) := by
  simp [decCopym, encCopym]

@[simp] theorem decCopys_encCopys (cls : BitVec 2) (op : BitVec 7) (k : BitVec 2) (h : Fin 8) (sw : Bool) (bar : BarOp) (x : SDst) (mk : (Fin 8) → Bool → BarOp → SDst → Instr) :
    decCopys (encCopys cls op k h sw bar x) mk = .ok (mk h sw bar x) := by
  simp [decCopys, encCopys]

@[simp] theorem decSpawn_encSpawn (cls : BitVec 2) (op : BitVec 7) (bar : Option BarOp) (x : SSrc) (mk : (Option BarOp) → SSrc → Instr) :
    decSpawn (encSpawn cls op bar x) mk = .ok (mk bar x) := by
  simp [decSpawn, encSpawn]

@[simp] theorem decPipw_encPipw (cls : BitVec 2) (op : BitVec 7) (e : Fin 8) (src : PipeSrc) (mk : (Fin 8) → PipeSrc → Instr) :
    decPipw (encPipw cls op e src) mk = .ok (mk e src) := by
  simp [decPipw, encPipw]

@[simp] theorem decPipr_encPipr (cls : BitVec 2) (op : BitVec 7) (n : Bool) (dst : PipeDst) (e : Fin 8) (mk : Bool → PipeDst → (Fin 8) → Instr) :
    decPipr (encPipr cls op n dst e) mk = .ok (mk n dst e) := by
  simp [decPipr, encPipr]

@[simp] theorem decPipq_encPipq (cls : BitVec 2) (op : BitVec 7) (n : Bool) (d : SDst) (e : Fin 8) (mk : Bool → SDst → (Fin 8) → Instr) :
    decPipq (encPipq cls op n d e) mk = .ok (mk n d e) := by
  simp [decPipq, encPipq]

@[simp] theorem decBarx_encBarx (cls : BitVec 2) (op : BitVec 7) (k : BitVec 2) (bar : BarOp) (x : SSrc) (mk : BarOp → SSrc → Instr) :
    decBarx (encBarx cls op k bar x) mk = .ok (mk bar x) := by
  simp [decBarx, encBarx]

@[simp] theorem decBar_encBar (cls : BitVec 2) (op : BitVec 7) (k : BitVec 2) (bar : BarOp) (mk : BarOp → Instr) :
    decBar (encBar cls op k bar) mk = .ok (mk bar) := by
  simp [decBar, encBar]

@[simp] theorem decBwait_encBwait (cls : BitVec 2) (op : BitVec 7) (k : BitVec 2) (bar : BarOp) (x : SDst) (mk : BarOp → SDst → Instr) :
    decBwait (encBwait cls op k bar x) mk = .ok (mk bar x) := by
  simp [decBwait, encBwait]

@[simp] theorem decBtry_encBtry (cls : BitVec 2) (op : BitVec 7) (k : BitVec 2) (n : Bool) (bar : BarOp) (x : SDst) (mk : Bool → BarOp → SDst → Instr) :
    decBtry (encBtry cls op k n bar x) mk = .ok (mk n bar x) := by
  simp [decBtry, encBtry]

@[simp] theorem decZ_encZ (cls : BitVec 2) (op : BitVec 7) (mk : Instr) :
    decZ (encZ cls op) mk = .ok (mk) := by
  simp [decZ, encZ]

@[simp] theorem decR2K_encR2K (cls : BitVec 2) (op : BitVec 7) (n : Bool) (d : SDst) (a : SSrc) (mk : Bool → SDst → SSrc → Instr) :
    decR2K (encR2K cls op n d a) mk = .ok (mk n d a) := by
  simp [decR2K, encR2K]

end Sys2Proof
end

