-- ==== Sys2Proof/Laws/Memory.lean ====
section
/-! SUPPORT. Memory: every operation keeps the canonical form, and what a byte reads as after a write. -/

namespace Sys2Proof.Machine

theorem Mem.below_sublist (m : Mem) (a : Nat) : (m.below a).Sublist m := by
  induction m with
  | nil => simp [Mem.below]
  | cons c cs ih =>
    simp only [Mem.below]
    split
    · exact ih.cons_cons c
    · exact List.nil_sublist _

theorem Mem.above_sublist (m : Mem) (a : Nat) : (m.above a).Sublist m := by
  induction m with
  | nil => simp [Mem.above]
  | cons c cs ih =>
    simp only [Mem.above]
    split
    · exact ih.cons c
    · exact List.Sublist.refl _

theorem Mem.wf.sublist {m n : Mem} (h : m.wf) (hs : n.Sublist m) : n.wf :=
  ⟨h.1.sublist hs, fun c hc => h.2 c (hs.subset hc)⟩

theorem Mem.below_wf {m : Mem} (h : m.wf) (a : Nat) : (m.below a).wf := h.sublist (m.below_sublist a)

theorem Mem.above_wf {m : Mem} (h : m.wf) (a : Nat) : (m.above a).wf := h.sublist (m.above_sublist a)

theorem Mem.below_lt (m : Mem) (a : Nat) : ∀ c ∈ m.below a, c.1 < a := by
  induction m with
  | nil => simp [Mem.below]
  | cons c cs ih =>
    simp only [Mem.below]
    split
    · intro d hd
      rcases List.mem_cons.1 hd with rfl | hd
      · assumption
      · exact ih d hd
    · simp

theorem Mem.wf.tail {c : Host.Cell} {cs : Mem} (h : Mem.wf (c :: cs)) : Mem.wf cs := h.sublist (List.sublist_cons_self c cs)

theorem Mem.wf.head_lt {c : Host.Cell} {cs : Mem} (h : Mem.wf (c :: cs)) : ∀ d ∈ cs, c.1 < d.1 :=
  (List.pairwise_cons.1 h.1).1

theorem Mem.above_ge {m : Mem} (h : m.wf) (a : Nat) : ∀ c ∈ m.above a, a ≤ c.1 := by
  induction m with
  | nil => simp [Mem.above]
  | cons c cs ih =>
    simp only [Mem.above]
    split
    · exact ih h.tail
    · intro d hd
      rcases List.mem_cons.1 hd with rfl | hd
      · omega
      · have := h.head_lt d hd
        omega

/-- Joining canonical parts whose addresses lie in order. -/
theorem Mem.append_wf {m n : Mem} (hm : m.wf) (hn : n.wf) (h : ∀ c ∈ m, ∀ d ∈ n, c.1 < d.1) : Mem.wf (m ++ n) := by
  refine ⟨List.pairwise_append.2 ⟨hm.1, hn.1, h⟩, ?_⟩
  intro c hc
  rcases List.mem_append.1 hc with hc | hc
  · exact hm.2 c hc
  · exact hn.2 c hc

theorem Mem.cells_range (bs : List Byte) (a : Nat) : ∀ c ∈ Mem.cells bs a, a ≤ c.1 ∧ c.1 < a + bs.length := by
  induction bs generalizing a with
  | nil => simp [Mem.cells]
  | cons b bs ih =>
    intro c hc
    simp only [Mem.cells] at hc
    split at hc
    · have := ih (a + 1) c hc
      simp only [List.length_cons]
      omega
    · rcases List.mem_cons.1 hc with rfl | hc
      · simp
      · have := ih (a + 1) c hc
        simp only [List.length_cons]
        omega

theorem Mem.cells_wf (bs : List Byte) (a : Nat) : Mem.wf (Mem.cells bs a) := by
  induction bs generalizing a with
  | nil => simp [Mem.cells, Mem.wf]
  | cons b bs ih =>
    simp only [Mem.cells]
    split
    · exact ih _
    · refine ⟨List.pairwise_cons.2 ⟨fun d hd => ?_, (ih _).1⟩, ?_⟩
      · have := (Mem.cells_range bs (a + 1) d hd).1
        simp only
        omega
      · intro c hc
        rcases List.mem_cons.1 hc with rfl | hc
        · assumption
        · exact (ih _).2 c hc

theorem Mem.natCells_range (n v a : Nat) : ∀ c ∈ Mem.natCells n v a, a ≤ c.1 ∧ c.1 < a + n := by
  induction n generalizing v a with
  | zero => simp [Mem.natCells]
  | succ n ih =>
    intro c hc
    simp only [Mem.natCells] at hc
    split at hc
    · simp at hc
    · split at hc
      · have := ih _ (a + 1) c hc
        omega
      · rcases List.mem_cons.1 hc with rfl | hc
        · simp
        · have := ih _ (a + 1) c hc
          omega

theorem Mem.natCells_wf (n v a : Nat) : Mem.wf (Mem.natCells n v a) := by
  induction n generalizing v a with
  | zero => simp [Mem.natCells, Mem.wf]
  | succ n ih =>
    simp only [Mem.natCells]
    split
    · simp [Mem.wf]
    · split
      · exact ih _ _
      · rename_i h
        refine ⟨List.pairwise_cons.2 ⟨fun d hd => ?_, (ih _ _).1⟩, ?_⟩
        · have := (Mem.natCells_range n _ (a + 1) d hd).1
          simp only
          omega
        · intro c hc
          rcases List.mem_cons.1 hc with rfl | hc
          · intro h0
            have := congrArg BitVec.toNat h0
            simp at this
            omega
          · exact (ih _ _).2 c hc

/-- A canonical middle part put in place of a range. -/
theorem Mem.splice_wf {m mid : Mem} (h : m.wf) (hm : mid.wf) (a n : Nat) (hr : ∀ c ∈ mid, a ≤ c.1 ∧ c.1 < a + n) :
    Mem.wf (m.below a ++ mid ++ m.above (a + n)) := by
  refine append_wf (append_wf (below_wf h a) hm fun c hc d hd => ?_) (above_wf h _) fun c hc d hd => ?_
  · exact lt_of_lt_of_le (below_lt m a c hc) (hr d hd).1
  · have h1 := above_ge h (a + n) d hd
    rcases List.mem_append.1 hc with hc | hc
    · have := below_lt m a c hc
      omega
    · have := (hr c hc).2
      omega

theorem Mem.write_wf {m : Mem} (h : m.wf) (a : Nat) (bs : List Byte) : (m.write a bs).wf :=
  splice_wf h (cells_wf bs a) a bs.length (cells_range bs a)

theorem Mem.put_wf {m : Mem} (h : m.wf) (a n v : Nat) : (m.put a n v).wf := write_wf h a _

theorem Mem.putN_wf {m : Mem} (h : m.wf) (a n v : Nat) : (m.putN a n v).wf :=
  splice_wf h (natCells_wf n v a) a n (natCells_range n v a)

theorem Mem.clear_wf {m : Mem} (h : m.wf) (a n : Nat) : (m.clear a n).wf := by
  have := splice_wf h (mid := []) (by simp [Mem.wf]) a n (by simp)
  simpa [Mem.clear] using this

theorem Mem.shift_wf {m : Mem} (h : m.wf) (o : Nat) : (m.shift o).wf := by
  refine ⟨List.pairwise_map.2 (h.1.imp fun hlt => by simpa using hlt), ?_⟩
  intro c hc
  obtain ⟨d, hd, rfl⟩ := List.mem_map.1 hc
  exact h.2 d hd

theorem Mem.slice_wf {m : Mem} (h : m.wf) (a n : Nat) : (m.slice a n).wf := by
  have hb := below_wf (above_wf h a) (a + n)
  have hge : ∀ c ∈ (m.above a).below (a + n), a ≤ c.1 := fun c hc =>
    above_ge h a c ((below_sublist _ _).subset hc)
  refine ⟨List.pairwise_map.2 (hb.1.imp_of_mem fun {c d} hc hd hlt => ?_), ?_⟩
  · have h1 := hge c hc
    have h2 := hge d hd
    simp only
    omega
  · intro c hc
    obtain ⟨d, hd, rfl⟩ := List.mem_map.1 hc
    exact hb.2 d hd

theorem Mem.paste_wf {m src : Mem} (h : m.wf) (hs : src.wf) (a n : Nat) : (m.paste a n src).wf := by
  refine splice_wf h (shift_wf (below_wf hs n) a) a n fun c hc => ?_
  obtain ⟨d, hd, rfl⟩ := List.mem_map.1 hc
  have := below_lt src n d hd
  simp only
  omega

/-! ## Reading -/

theorem Mem.get_append (m n : Mem) (x : Nat) :
    Mem.get (m ++ n) x = if (∃ c ∈ m, c.1 = x) then m.get x else n.get x := by
  induction m with
  | nil => simp
  | cons c cs ih =>
    simp only [List.cons_append, Mem.get]
    by_cases hc : c.1 = x
    · simp [hc]
    · simp [hc, ih]

theorem Mem.get_eq_zero {m : Mem} {x : Nat} (h : ∀ c ∈ m, c.1 ≠ x) : m.get x = 0 := by
  induction m with
  | nil => rfl
  | cons c cs ih =>
    have := h c (by simp)
    simp only [Mem.get, this, if_false]
    exact ih fun d hd => h d (by simp [hd])

theorem Mem.get_below {m : Mem} (h : m.wf) (a x : Nat) : (m.below a).get x = if x < a then m.get x else 0 := by
  induction m with
  | nil => simp [Mem.below, Mem.get]
  | cons c cs ih =>
    simp only [Mem.below]
    split
    · simp only [Mem.get]
      by_cases hx : c.1 = x
      · simp [hx, show x < a by omega]
      · simp [hx, ih h.tail]
    · split
      · rename_i h1 h2
        exact (Mem.get_eq_zero fun d hd => by
          rcases List.mem_cons.1 hd with rfl | hd
          · omega
          · have := h.head_lt d hd
            omega).symm
      · rfl

theorem Mem.get_above {m : Mem} (h : m.wf) (a x : Nat) : (m.above a).get x = if a ≤ x then m.get x else 0 := by
  induction m with
  | nil => simp [Mem.above, Mem.get]
  | cons c cs ih =>
    simp only [Mem.above]
    split
    · rw [ih h.tail]
      by_cases hx : a ≤ x
      · simp [hx, Mem.get, show c.1 ≠ x by omega]
      · simp [hx]
    · split
      · rfl
      · exact Mem.get_eq_zero fun d hd => by
          rcases List.mem_cons.1 hd with rfl | hd
          · omega
          · have := h.head_lt d hd
            omega

theorem Mem.get_of_mem {m : Mem} (h : m.wf) {c : Host.Cell} (hc : c ∈ m) : m.get c.1 = c.2 := by
  induction m with
  | nil => simp at hc
  | cons d ds ih =>
    simp only [Mem.get]
    rcases List.mem_cons.1 hc with rfl | hc
    · simp
    · have := h.head_lt c hc
      simp [show d.1 ≠ c.1 by omega, ih h.tail hc]

/-- What a byte reads as after a canonical part replaced a range. -/
theorem Mem.get_splice {m mid : Mem} (h : m.wf) (a n x : Nat) (hr : ∀ c ∈ mid, a ≤ c.1 ∧ c.1 < a + n) :
    Mem.get (m.below a ++ mid ++ m.above (a + n)) x = if a ≤ x ∧ x < a + n then mid.get x else m.get x := by
  by_cases hin : a ≤ x ∧ x < a + n
  · simp only [hin, and_self, if_true]
    rw [Mem.get_append]
    have hb : ¬ ∃ c ∈ m.below a, c.1 = x := fun ⟨c, hc, e⟩ => by
      have := below_lt m a c hc
      omega
    split
    · rw [Mem.get_append, if_neg hb]
    · rename_i hne
      rw [Mem.get_above h, if_neg (by omega)]
      refine (Mem.get_eq_zero fun c hc e => hne ⟨c, ?_, e⟩).symm
      exact List.mem_append.2 (.inr hc)
  · rw [if_neg hin, Mem.get_append]
    have hmid : ¬ ∃ c ∈ mid, c.1 = x := fun ⟨c, hc, e⟩ => hin (e ▸ hr c hc)
    split
    · rename_i hex
      rw [Mem.get_append]
      split
      · rename_i h2
        obtain ⟨c, hc, rfl⟩ := h2
        rw [Mem.get_below h, if_pos (below_lt m a c hc)]
      · rename_i h2
        obtain ⟨c, hc, e⟩ := hex
        rcases List.mem_append.1 hc with hc | hc
        · exact absurd ⟨c, hc, e⟩ h2
        · exact absurd ⟨c, hc, e⟩ hmid
    · rename_i hne
      rw [Mem.get_above h]
      split
      · rfl
      · have hlt : x < a := by omega
        refine (?_ : m.get x = 0).symm
        have := Mem.get_below h a x
        rw [if_pos hlt] at this
        rw [← this]
        exact Mem.get_eq_zero fun c hc e => hne ⟨c, List.mem_append.2 (.inl hc), e⟩

theorem Mem.get_cells (bs : List Byte) (a i : Nat) (h : i < bs.length) : (Mem.cells bs a).get (a + i) = bs[i] := by
  induction bs generalizing a i with
  | nil => simp at h
  | cons b bs ih =>
    simp only [Mem.cells]
    cases i with
    | zero =>
      split
      · rename_i hb
        simp only [hb, Nat.add_zero, List.getElem_cons_zero]
        exact Mem.get_eq_zero fun c hc => by
          have := (Mem.cells_range bs (a + 1) c hc).1
          omega
      · simp [Mem.get]
    | succ i =>
      have e : a + (i + 1) = a + 1 + i := by omega
      rw [e]
      split
      · simpa using ih (a + 1) i (by simpa using h)
      · simp only [Mem.get, List.getElem_cons_succ]
        rw [if_neg (by omega)]
        exact ih (a + 1) i (by simpa using h)

/-- The byte at an address after a write. -/
theorem Mem.get_write {m : Mem} (h : m.wf) (a : Nat) (bs : List Byte) (x : Nat) :
    (m.write a bs).get x = if hx : a ≤ x ∧ x < a + bs.length then bs[x - a] else m.get x := by
  rw [Mem.write, Mem.get_splice h a bs.length x (Mem.cells_range bs a)]
  split
  · rename_i hx
    have := Mem.get_cells bs a (x - a) (by omega)
    rwa [show a + (x - a) = x by omega] at this
  · rfl

/-- A write leaves every byte outside its range. -/
theorem Mem.get_write_of_not {m : Mem} (h : m.wf) (a : Nat) (bs : List Byte) (x : Nat)
    (hx : ¬ (a ≤ x ∧ x < a + bs.length)) : (m.write a bs).get x = m.get x := by
  rw [Mem.get_write h, dif_neg hx]

/-- A number put leaves every byte outside its range. -/
theorem Mem.get_putN_of_not {m : Mem} (h : m.wf) (a n v x : Nat) (hx : ¬ (a ≤ x ∧ x < a + n)) :
    (m.putN a n v).get x = m.get x := by
  rw [Mem.putN, Mem.get_splice h a n x (Mem.natCells_range n v a), if_neg hx]

theorem Mem.take_eq {m : Mem} (h : m.wf) (n a : Nat) (hg : ∀ c ∈ m, a ≤ c.1) :
    Mem.take n m a = (List.range n).map fun i => m.get (a + i) := by
  induction n generalizing m a with
  | zero => simp [Mem.take]
  | succ n ih =>
    cases m with
    | nil =>
      rw [Mem.take, ih (m := []) h (a + 1) (by simp)]
      simp only [Mem.get, List.map_const', List.length_range, List.replicate_succ]
    | cons c cs =>
      rw [Mem.take]
      split
      · rename_i hc
        rw [ih h.tail (a + 1) fun d hd => by have := h.head_lt d hd; omega, List.range_succ_eq_map]
        simp only [List.map_cons, List.map_map, Nat.add_zero]
        rw [Mem.get, if_pos hc]
        congr 1
        refine List.map_congr_left fun i _ => ?_
        simp only [Function.comp, Mem.get]
        rw [if_neg (by omega)]
        congr 1
        omega
      · rename_i hc
        have h0 := hg c (by simp)
        rw [ih h (a + 1) fun d hd => by
          rcases List.mem_cons.1 hd with rfl | hd
          · omega
          · have := h.head_lt d hd; omega, List.range_succ_eq_map]
        simp only [List.map_cons, List.map_map, Nat.add_zero]
        have hz : Mem.get (c :: cs) a = 0 := Mem.get_eq_zero fun d hd => by
          rcases List.mem_cons.1 hd with rfl | hd
          · omega
          · have := h.head_lt d hd; omega
        rw [hz]
        congr 1
        refine List.map_congr_left fun i _ => ?_
        simp only [Function.comp]
        congr 1
        omega

/-- Bytes read are the bytes at their addresses. -/
theorem Mem.bytes_eq {m : Mem} (h : m.wf) (a n : Nat) : m.bytes a n = (List.range n).map fun i => m.get (a + i) := by
  rw [Mem.bytes, Mem.take_eq (Mem.above_wf h a) n a (Mem.above_ge h a)]
  refine List.map_congr_left fun i _ => ?_
  rw [Mem.get_above h, if_pos (by omega)]

end Sys2Proof.Machine
end

