-- ==== Sys2Proof/Laws/PerInstr.lean ====
section
/-! SUPPORT. One lemma per constructor: the decoder reads from the encoder's fields the instruction they stand for
(03 R62 to R68, R75). -/

namespace Sys2Proof.Laws

/-- The fields the encoder gives an instruction decode to that instruction, before the rules of WellFormed; an event
row of the opcode table has no fields. -/
def RoundTrip.Statement (i : Instr) : Prop := ∀ f, encodeFields i = some f → decodeRaw f = .ok i

theorem RoundTrip.add (a0 : Bool) (a1 : SDst) (a2 : SSrc) (a3 : SSrc) : RoundTrip.Statement (.add a0 a1 a2 a3) := by
  rintro _ ⟨⟩
  exact (show decodeRaw (encR3 0 0 a0 a1 a2 a3) = decR3 (encR3 0 0 a0 a1 a2 a3) .add from rfl).trans (by simp)

theorem RoundTrip.sub (a0 : Bool) (a1 : SDst) (a2 : SSrc) (a3 : SSrc) : RoundTrip.Statement (.sub a0 a1 a2 a3) := by
  rintro _ ⟨⟩
  exact (show decodeRaw (encR3 0 1 a0 a1 a2 a3) = decR3 (encR3 0 1 a0 a1 a2 a3) .sub from rfl).trans (by simp)

theorem RoundTrip.mul (a0 : Bool) (a1 : SDst) (a2 : SSrc) (a3 : SSrc) : RoundTrip.Statement (.mul a0 a1 a2 a3) := by
  rintro _ ⟨⟩
  exact (show decodeRaw (encR3 0 2 a0 a1 a2 a3) = decR3 (encR3 0 2 a0 a1 a2 a3) .mul from rfl).trans (by simp)

theorem RoundTrip.mulh (a0 : Bool) (a1 : SDst) (a2 : SSrc) (a3 : SSrc) : RoundTrip.Statement (.mulh a0 a1 a2 a3) := by
  rintro _ ⟨⟩
  exact (show decodeRaw (encR3 0 3 a0 a1 a2 a3) = decR3 (encR3 0 3 a0 a1 a2 a3) .mulh from rfl).trans (by simp)

theorem RoundTrip.mulhu (a0 : Bool) (a1 : SDst) (a2 : SSrc) (a3 : SSrc) : RoundTrip.Statement (.mulhu a0 a1 a2 a3) := by
  rintro _ ⟨⟩
  exact (show decodeRaw (encR3 0 4 a0 a1 a2 a3) = decR3 (encR3 0 4 a0 a1 a2 a3) .mulhu from rfl).trans (by simp)

theorem RoundTrip.div (a0 : Bool) (a1 : SDst) (a2 : SSrc) (a3 : SSrc) : RoundTrip.Statement (.div a0 a1 a2 a3) := by
  rintro _ ⟨⟩
  exact (show decodeRaw (encR3 0 5 a0 a1 a2 a3) = decR3 (encR3 0 5 a0 a1 a2 a3) .div from rfl).trans (by simp)

theorem RoundTrip.divu (a0 : Bool) (a1 : SDst) (a2 : SSrc) (a3 : SSrc) : RoundTrip.Statement (.divu a0 a1 a2 a3) := by
  rintro _ ⟨⟩
  exact (show decodeRaw (encR3 0 6 a0 a1 a2 a3) = decR3 (encR3 0 6 a0 a1 a2 a3) .divu from rfl).trans (by simp)

theorem RoundTrip.rem (a0 : Bool) (a1 : SDst) (a2 : SSrc) (a3 : SSrc) : RoundTrip.Statement (.rem a0 a1 a2 a3) := by
  rintro _ ⟨⟩
  exact (show decodeRaw (encR3 0 7 a0 a1 a2 a3) = decR3 (encR3 0 7 a0 a1 a2 a3) .rem from rfl).trans (by simp)

theorem RoundTrip.remu (a0 : Bool) (a1 : SDst) (a2 : SSrc) (a3 : SSrc) : RoundTrip.Statement (.remu a0 a1 a2 a3) := by
  rintro _ ⟨⟩
  exact (show decodeRaw (encR3 0 8 a0 a1 a2 a3) = decR3 (encR3 0 8 a0 a1 a2 a3) .remu from rfl).trans (by simp)

theorem RoundTrip.and (a0 : Bool) (a1 : SDst) (a2 : SSrc) (a3 : SSrc) : RoundTrip.Statement (.and a0 a1 a2 a3) := by
  rintro _ ⟨⟩
  exact (show decodeRaw (encR3 0 9 a0 a1 a2 a3) = decR3 (encR3 0 9 a0 a1 a2 a3) .and from rfl).trans (by simp)

theorem RoundTrip.or (a0 : Bool) (a1 : SDst) (a2 : SSrc) (a3 : SSrc) : RoundTrip.Statement (.or a0 a1 a2 a3) := by
  rintro _ ⟨⟩
  exact (show decodeRaw (encR3 0 10 a0 a1 a2 a3) = decR3 (encR3 0 10 a0 a1 a2 a3) .or from rfl).trans (by simp)

theorem RoundTrip.xor (a0 : Bool) (a1 : SDst) (a2 : SSrc) (a3 : SSrc) : RoundTrip.Statement (.xor a0 a1 a2 a3) := by
  rintro _ ⟨⟩
  exact (show decodeRaw (encR3 0 11 a0 a1 a2 a3) = decR3 (encR3 0 11 a0 a1 a2 a3) .xor from rfl).trans (by simp)

theorem RoundTrip.andn (a0 : Bool) (a1 : SDst) (a2 : SSrc) (a3 : SSrc) : RoundTrip.Statement (.andn a0 a1 a2 a3) := by
  rintro _ ⟨⟩
  exact (show decodeRaw (encR3 0 12 a0 a1 a2 a3) = decR3 (encR3 0 12 a0 a1 a2 a3) .andn from rfl).trans (by simp)

theorem RoundTrip.shl (a0 : Bool) (a1 : SDst) (a2 : SSrc) (a3 : SSrc) : RoundTrip.Statement (.shl a0 a1 a2 a3) := by
  rintro _ ⟨⟩
  exact (show decodeRaw (encR3 0 13 a0 a1 a2 a3) = decR3 (encR3 0 13 a0 a1 a2 a3) .shl from rfl).trans (by simp)

theorem RoundTrip.shr (a0 : Bool) (a1 : SDst) (a2 : SSrc) (a3 : SSrc) : RoundTrip.Statement (.shr a0 a1 a2 a3) := by
  rintro _ ⟨⟩
  exact (show decodeRaw (encR3 0 14 a0 a1 a2 a3) = decR3 (encR3 0 14 a0 a1 a2 a3) .shr from rfl).trans (by simp)

theorem RoundTrip.sra (a0 : Bool) (a1 : SDst) (a2 : SSrc) (a3 : SSrc) : RoundTrip.Statement (.sra a0 a1 a2 a3) := by
  rintro _ ⟨⟩
  exact (show decodeRaw (encR3 0 15 a0 a1 a2 a3) = decR3 (encR3 0 15 a0 a1 a2 a3) .sra from rfl).trans (by simp)

theorem RoundTrip.rotl (a0 : Bool) (a1 : SDst) (a2 : SSrc) (a3 : SSrc) : RoundTrip.Statement (.rotl a0 a1 a2 a3) := by
  rintro _ ⟨⟩
  exact (show decodeRaw (encR3 0 16 a0 a1 a2 a3) = decR3 (encR3 0 16 a0 a1 a2 a3) .rotl from rfl).trans (by simp)

theorem RoundTrip.min (a0 : Bool) (a1 : SDst) (a2 : SSrc) (a3 : SSrc) : RoundTrip.Statement (.min a0 a1 a2 a3) := by
  rintro _ ⟨⟩
  exact (show decodeRaw (encR3 0 17 a0 a1 a2 a3) = decR3 (encR3 0 17 a0 a1 a2 a3) .min from rfl).trans (by simp)

theorem RoundTrip.max (a0 : Bool) (a1 : SDst) (a2 : SSrc) (a3 : SSrc) : RoundTrip.Statement (.max a0 a1 a2 a3) := by
  rintro _ ⟨⟩
  exact (show decodeRaw (encR3 0 18 a0 a1 a2 a3) = decR3 (encR3 0 18 a0 a1 a2 a3) .max from rfl).trans (by simp)

theorem RoundTrip.minu (a0 : Bool) (a1 : SDst) (a2 : SSrc) (a3 : SSrc) : RoundTrip.Statement (.minu a0 a1 a2 a3) := by
  rintro _ ⟨⟩
  exact (show decodeRaw (encR3 0 19 a0 a1 a2 a3) = decR3 (encR3 0 19 a0 a1 a2 a3) .minu from rfl).trans (by simp)

theorem RoundTrip.maxu (a0 : Bool) (a1 : SDst) (a2 : SSrc) (a3 : SSrc) : RoundTrip.Statement (.maxu a0 a1 a2 a3) := by
  rintro _ ⟨⟩
  exact (show decodeRaw (encR3 0 20 a0 a1 a2 a3) = decR3 (encR3 0 20 a0 a1 a2 a3) .maxu from rfl).trans (by simp)

theorem RoundTrip.clz (a0 : Bool) (a1 : SDst) (a2 : SSrc) : RoundTrip.Statement (.clz a0 a1 a2) := by
  rintro _ ⟨⟩
  exact (show decodeRaw (encR2 0 21 a0 a1 a2) = decR2 (encR2 0 21 a0 a1 a2) .clz from rfl).trans (by simp)

theorem RoundTrip.ctz (a0 : Bool) (a1 : SDst) (a2 : SSrc) : RoundTrip.Statement (.ctz a0 a1 a2) := by
  rintro _ ⟨⟩
  exact (show decodeRaw (encR2 0 22 a0 a1 a2) = decR2 (encR2 0 22 a0 a1 a2) .ctz from rfl).trans (by simp)

theorem RoundTrip.popc (a0 : Bool) (a1 : SDst) (a2 : SSrc) : RoundTrip.Statement (.popc a0 a1 a2) := by
  rintro _ ⟨⟩
  exact (show decodeRaw (encR2 0 23 a0 a1 a2) = decR2 (encR2 0 23 a0 a1 a2) .popc from rfl).trans (by simp)

theorem RoundTrip.sel (a0 : Bool) (a1 : SDst) (a2 : SSrc) (a3 : SSrc) : RoundTrip.Statement (.sel a0 a1 a2 a3) := by
  rintro _ ⟨⟩
  exact (show decodeRaw (encR3 0 24 a0 a1 a2 a3) = decR3 (encR3 0 24 a0 a1 a2 a3) .sel from rfl).trans (by simp)

theorem RoundTrip.exts (a0 : Bool) (a1 : SDst) (a2 : SSrc) (a3 : BitVec 6) : RoundTrip.Statement (.exts a0 a1 a2 a3) := by
  rintro _ ⟨⟩
  exact (show decodeRaw (encRw 0 25 a0 a1 a2 a3) = decRw (encRw 0 25 a0 a1 a2 a3) .exts from rfl).trans (by simp)

theorem RoundTrip.extz (a0 : Bool) (a1 : SDst) (a2 : SSrc) (a3 : BitVec 6) : RoundTrip.Statement (.extz a0 a1 a2 a3) := by
  rintro _ ⟨⟩
  exact (show decodeRaw (encRw 0 26 a0 a1 a2 a3) = decRw (encRw 0 26 a0 a1 a2 a3) .extz from rfl).trans (by simp)

theorem RoundTrip.bfx (a0 : Bool) (a1 : SDst) (a2 : SSrc) (a3 : SSrc) : RoundTrip.Statement (.bfx a0 a1 a2 a3) := by
  rintro _ ⟨⟩
  exact (show decodeRaw (encR3 0 27 a0 a1 a2 a3) = decR3 (encR3 0 27 a0 a1 a2 a3) .bfx from rfl).trans (by simp)

theorem RoundTrip.bfi (a0 : Bool) (a1 : SDst) (a2 : SSrc) (a3 : SSrc) : RoundTrip.Statement (.bfi a0 a1 a2 a3) := by
  rintro _ ⟨⟩
  exact (show decodeRaw (encR3 0 28 a0 a1 a2 a3) = decR3 (encR3 0 28 a0 a1 a2 a3) .bfi from rfl).trans (by simp)

theorem RoundTrip.mov (a0 : Bool) (a1 : SDst) (a2 : SSrc) : RoundTrip.Statement (.mov a0 a1 a2) := by
  rintro _ ⟨⟩
  exact (show decodeRaw (encR2 0 29 a0 a1 a2) = decR2 (encR2 0 29 a0 a1 a2) .mov from rfl).trans (by simp)

theorem RoundTrip.adda (a0 : Bool) (a1 : SDst) (a2 : SSrc) (a3 : SSrc) : RoundTrip.Statement (.adda a0 a1 a2 a3) := by
  rintro _ ⟨⟩
  exact (show decodeRaw (encR3 0 30 a0 a1 a2 a3) = decR3 (encR3 0 30 a0 a1 a2 a3) .adda from rfl).trans (by simp)

theorem RoundTrip.widf (a0 : Bool) (a1 : SDst) (a2 : BitVec 6) : RoundTrip.Statement (.widf a0 a1 a2) := by
  rintro _ ⟨⟩
  exact (show decodeRaw (encWidf 0 31 a0 a1 a2) = decWidf (encWidf 0 31 a0 a1 a2) .widf from rfl).trans (by simp)

theorem RoundTrip.addi (a0 : Bool) (a1 : SDst) (a2 : SSrc) (a3 : BitVec 9) : RoundTrip.Statement (.addi a0 a1 a2 a3) := by
  rintro _ ⟨⟩
  exact (show decodeRaw (encI 0 32 a0 a1 a2 a3) = decI (encI 0 32 a0 a1 a2 a3) .addi from rfl).trans (by simp)

theorem RoundTrip.andi (a0 : Bool) (a1 : SDst) (a2 : SSrc) (a3 : BitVec 9) : RoundTrip.Statement (.andi a0 a1 a2 a3) := by
  rintro _ ⟨⟩
  exact (show decodeRaw (encI 0 33 a0 a1 a2 a3) = decI (encI 0 33 a0 a1 a2 a3) .andi from rfl).trans (by simp)

theorem RoundTrip.ori (a0 : Bool) (a1 : SDst) (a2 : SSrc) (a3 : BitVec 9) : RoundTrip.Statement (.ori a0 a1 a2 a3) := by
  rintro _ ⟨⟩
  exact (show decodeRaw (encI 0 34 a0 a1 a2 a3) = decI (encI 0 34 a0 a1 a2 a3) .ori from rfl).trans (by simp)

theorem RoundTrip.xori (a0 : Bool) (a1 : SDst) (a2 : SSrc) (a3 : BitVec 9) : RoundTrip.Statement (.xori a0 a1 a2 a3) := by
  rintro _ ⟨⟩
  exact (show decodeRaw (encI 0 35 a0 a1 a2 a3) = decI (encI 0 35 a0 a1 a2 a3) .xori from rfl).trans (by simp)

theorem RoundTrip.shli (a0 : Bool) (a1 : SDst) (a2 : SSrc) (a3 : BitVec 9) : RoundTrip.Statement (.shli a0 a1 a2 a3) := by
  rintro _ ⟨⟩
  exact (show decodeRaw (encI 0 36 a0 a1 a2 a3) = decI (encI 0 36 a0 a1 a2 a3) .shli from rfl).trans (by simp)

theorem RoundTrip.shri (a0 : Bool) (a1 : SDst) (a2 : SSrc) (a3 : BitVec 9) : RoundTrip.Statement (.shri a0 a1 a2 a3) := by
  rintro _ ⟨⟩
  exact (show decodeRaw (encI 0 37 a0 a1 a2 a3) = decI (encI 0 37 a0 a1 a2 a3) .shri from rfl).trans (by simp)

theorem RoundTrip.srai (a0 : Bool) (a1 : SDst) (a2 : SSrc) (a3 : BitVec 9) : RoundTrip.Statement (.srai a0 a1 a2 a3) := by
  rintro _ ⟨⟩
  exact (show decodeRaw (encI 0 38 a0 a1 a2 a3) = decI (encI 0 38 a0 a1 a2 a3) .srai from rfl).trans (by simp)

theorem RoundTrip.cmpiEq (a0 : Bool) (a1 : PReg) (a2 : SSrc) (a3 : BitVec 9) : RoundTrip.Statement (.cmpiEq a0 a1 a2 a3) := by
  rintro _ ⟨⟩
  exact (show decodeRaw (encIp 0 39 a0 a1 a2 a3) = decIp (encIp 0 39 a0 a1 a2 a3) .cmpiEq from rfl).trans (by simp)

theorem RoundTrip.cmpiNe (a0 : Bool) (a1 : PReg) (a2 : SSrc) (a3 : BitVec 9) : RoundTrip.Statement (.cmpiNe a0 a1 a2 a3) := by
  rintro _ ⟨⟩
  exact (show decodeRaw (encIp 0 40 a0 a1 a2 a3) = decIp (encIp 0 40 a0 a1 a2 a3) .cmpiNe from rfl).trans (by simp)

theorem RoundTrip.cmpiLt (a0 : Bool) (a1 : PReg) (a2 : SSrc) (a3 : BitVec 9) : RoundTrip.Statement (.cmpiLt a0 a1 a2 a3) := by
  rintro _ ⟨⟩
  exact (show decodeRaw (encIp 0 41 a0 a1 a2 a3) = decIp (encIp 0 41 a0 a1 a2 a3) .cmpiLt from rfl).trans (by simp)

theorem RoundTrip.cmpiLe (a0 : Bool) (a1 : PReg) (a2 : SSrc) (a3 : BitVec 9) : RoundTrip.Statement (.cmpiLe a0 a1 a2 a3) := by
  rintro _ ⟨⟩
  exact (show decodeRaw (encIp 0 42 a0 a1 a2 a3) = decIp (encIp 0 42 a0 a1 a2 a3) .cmpiLe from rfl).trans (by simp)

theorem RoundTrip.cmpiLtn (a0 : Bool) (a1 : PReg) (a2 : SSrc) (a3 : BitVec 9) : RoundTrip.Statement (.cmpiLtn a0 a1 a2 a3) := by
  rintro _ ⟨⟩
  exact (show decodeRaw (encIp 0 43 a0 a1 a2 a3) = decIp (encIp 0 43 a0 a1 a2 a3) .cmpiLtn from rfl).trans (by simp)

theorem RoundTrip.cmpiLen (a0 : Bool) (a1 : PReg) (a2 : SSrc) (a3 : BitVec 9) : RoundTrip.Statement (.cmpiLen a0 a1 a2 a3) := by
  rintro _ ⟨⟩
  exact (show decodeRaw (encIp 0 44 a0 a1 a2 a3) = decIp (encIp 0 44 a0 a1 a2 a3) .cmpiLen from rfl).trans (by simp)

theorem RoundTrip.li (a0 : Bool) (a1 : SDst) (a2 : BitVec 15) : RoundTrip.Statement (.li a0 a1 a2) := by
  rintro _ ⟨⟩
  exact (show decodeRaw (encL 0 48 a0 a1 a2) = decL (encL 0 48 a0 a1 a2) .li from rfl).trans (by simp)

theorem RoundTrip.lih (a0 : Bool) (a1 : SDst) (a2 : BitVec 15) : RoundTrip.Statement (.lih a0 a1 a2) := by
  rintro _ ⟨⟩
  exact (show decodeRaw (encL 0 49 a0 a1 a2) = decL (encL 0 49 a0 a1 a2) .lih from rfl).trans (by simp)

theorem RoundTrip.cmpEq (a0 : Bool) (a1 : PReg) (a2 : SSrc) (a3 : SSrc) : RoundTrip.Statement (.cmpEq a0 a1 a2 a3) := by
  rintro _ ⟨⟩
  exact (show decodeRaw (encCmp 0 50 0 a0 a1 a2 a3) = decCmp (encCmp 0 50 0 a0 a1 a2 a3) .cmpEq
    by simp [decodeRaw, decodeS, encCmp]).trans (by simp)

theorem RoundTrip.cmpNe (a0 : Bool) (a1 : PReg) (a2 : SSrc) (a3 : SSrc) : RoundTrip.Statement (.cmpNe a0 a1 a2 a3) := by
  rintro _ ⟨⟩
  exact (show decodeRaw (encCmp 0 50 1 a0 a1 a2 a3) = decCmp (encCmp 0 50 1 a0 a1 a2 a3) .cmpNe
    by simp [decodeRaw, decodeS, encCmp]).trans (by simp)

theorem RoundTrip.cmpLt (a0 : Bool) (a1 : PReg) (a2 : SSrc) (a3 : SSrc) : RoundTrip.Statement (.cmpLt a0 a1 a2 a3) := by
  rintro _ ⟨⟩
  exact (show decodeRaw (encCmp 0 50 2 a0 a1 a2 a3) = decCmp (encCmp 0 50 2 a0 a1 a2 a3) .cmpLt
    by simp [decodeRaw, decodeS, encCmp]).trans (by simp)

theorem RoundTrip.cmpLe (a0 : Bool) (a1 : PReg) (a2 : SSrc) (a3 : SSrc) : RoundTrip.Statement (.cmpLe a0 a1 a2 a3) := by
  rintro _ ⟨⟩
  exact (show decodeRaw (encCmp 0 50 3 a0 a1 a2 a3) = decCmp (encCmp 0 50 3 a0 a1 a2 a3) .cmpLe
    by simp [decodeRaw, decodeS, encCmp]).trans (by simp)

theorem RoundTrip.cmpLtn (a0 : Bool) (a1 : PReg) (a2 : SSrc) (a3 : SSrc) : RoundTrip.Statement (.cmpLtn a0 a1 a2 a3) := by
  rintro _ ⟨⟩
  exact (show decodeRaw (encCmp 0 50 4 a0 a1 a2 a3) = decCmp (encCmp 0 50 4 a0 a1 a2 a3) .cmpLtn
    by simp [decodeRaw, decodeS, encCmp]).trans (by simp)

theorem RoundTrip.cmpLen (a0 : Bool) (a1 : PReg) (a2 : SSrc) (a3 : SSrc) : RoundTrip.Statement (.cmpLen a0 a1 a2 a3) := by
  rintro _ ⟨⟩
  exact (show decodeRaw (encCmp 0 50 5 a0 a1 a2 a3) = decCmp (encCmp 0 50 5 a0 a1 a2 a3) .cmpLen
    by simp [decodeRaw, decodeS, encCmp]).trans (by simp)

theorem RoundTrip.pand (a0 : Bool) (a1 : PReg) (a2 : PReg) (a3 : PReg) : RoundTrip.Statement (.pand a0 a1 a2 a3) := by
  rintro _ ⟨⟩
  exact (show decodeRaw (encP3 0 51 a0 a1 a2 a3) = decP3 (encP3 0 51 a0 a1 a2 a3) .pand from rfl).trans (by simp)

theorem RoundTrip.por (a0 : Bool) (a1 : PReg) (a2 : PReg) (a3 : PReg) : RoundTrip.Statement (.por a0 a1 a2 a3) := by
  rintro _ ⟨⟩
  exact (show decodeRaw (encP3 0 52 a0 a1 a2 a3) = decP3 (encP3 0 52 a0 a1 a2 a3) .por from rfl).trans (by simp)

theorem RoundTrip.pxor (a0 : Bool) (a1 : PReg) (a2 : PReg) (a3 : PReg) : RoundTrip.Statement (.pxor a0 a1 a2 a3) := by
  rintro _ ⟨⟩
  exact (show decodeRaw (encP3 0 53 a0 a1 a2 a3) = decP3 (encP3 0 53 a0 a1 a2 a3) .pxor from rfl).trans (by simp)

theorem RoundTrip.pnot (a0 : Bool) (a1 : PReg) (a2 : PReg) : RoundTrip.Statement (.pnot a0 a1 a2) := by
  rintro _ ⟨⟩
  exact (show decodeRaw (encP2 0 54 a0 a1 a2) = decP2 (encP2 0 54 a0 a1 a2) .pnot from rfl).trans (by simp)

theorem RoundTrip.pmov (a0 : Bool) (a1 : PReg) (a2 : PReg) : RoundTrip.Statement (.pmov a0 a1 a2) := by
  rintro _ ⟨⟩
  exact (show decodeRaw (encP2 0 55 a0 a1 a2) = decP2 (encP2 0 55 a0 a1 a2) .pmov from rfl).trans (by simp)

theorem RoundTrip.br (a0 : PReg) (a1 : Bool) (a2 : BitVec 16) : RoundTrip.Statement (.br a0 a1 a2) := by
  rintro _ ⟨⟩
  exact (show decodeRaw (encBr 0 56 a0 a1 a2) = decBr (encBr 0 56 a0 a1 a2) .br from rfl).trans (by simp)

theorem RoundTrip.call (a0 : Bool) (a1 : PReg) (a2 : Bool) (a3 : BitVec 16) : RoundTrip.Statement (.call a0 a1 a2 a3) := by
  rintro _ ⟨⟩
  exact (show decodeRaw (encCall 0 57 a0 a1 a2 a3) = decCall (encCall 0 57 a0 a1 a2 a3) .call
    from rfl).trans (by simp)

theorem RoundTrip.ret (a0 : SSrc) : RoundTrip.Statement (.ret a0) := by
  rintro _ ⟨⟩
  exact (show decodeRaw (encRa 0 58 a0) = decRa (encRa 0 58 a0) .ret from rfl).trans (by simp)

theorem RoundTrip.jmpx (a0 : Bool) (a1 : SDst) (a2 : SSrc) : RoundTrip.Statement (.jmpx a0 a1 a2) := by
  rintro _ ⟨⟩
  exact (show decodeRaw (encR2 0 59 a0 a1 a2) = decR2 (encR2 0 59 a0 a1 a2) .jmpx from rfl).trans (by simp)

theorem RoundTrip.loop (a0 : SSrc) (a1 : BitVec 15) : RoundTrip.Statement (.loop a0 a1) := by
  rintro _ ⟨⟩
  exact (show decodeRaw (encLoop 0 60 a0 a1) = decLoop (encLoop 0 60 a0 a1) .loop from rfl).trans (by simp)

theorem RoundTrip.loopm (a0 : SSrc) (a1 : BitVec 15) : RoundTrip.Statement (.loopm a0 a1) := by
  rintro _ ⟨⟩
  exact (show decodeRaw (encLoop 0 61 a0 a1) = decLoop (encLoop 0 61 a0 a1) .loopm from rfl).trans (by simp)

theorem RoundTrip.brkl (a0 : Bool) (a1 : PReg) : RoundTrip.Statement (.brkl a0 a1) := by
  rintro _ ⟨⟩
  exact (show decodeRaw (encBrkl 0 62 a0 a1) = decBrkl (encBrkl 0 62 a0 a1) .brkl from rfl).trans (by simp)

theorem RoundTrip.sleep (a0 : SSrc) : RoundTrip.Statement (.sleep a0) := by
  rintro _ ⟨⟩
  exact (show decodeRaw (encRa 0 64 a0) = decRa (encRa 0 64 a0) .sleep from rfl).trans (by simp)

theorem RoundTrip.shf (a0 : Fin 25) (a1 : SSrc) (a2 : Fin 8) : RoundTrip.Statement (.shf a0 a1 a2) := by
  rintro _ ⟨⟩
  exact (show decodeRaw (encShf 0 68 0 a0 a1 a2) = decShf (encShf 0 68 0 a0 a1 a2) .shf
    by simp [decodeRaw, decodeS, encShf]).trans (by simp)

theorem RoundTrip.shfAdd (a0 : Fin 25) (a1 : SSrc) (a2 : Fin 8) : RoundTrip.Statement (.shfAdd a0 a1 a2) := by
  rintro _ ⟨⟩
  exact (show decodeRaw (encShf 0 68 1 a0 a1 a2) = decShf (encShf 0 68 1 a0 a1 a2) .shfAdd
    by simp [decodeRaw, decodeS, encShf]).trans (by simp)

theorem RoundTrip.shfi (a0 : BitVec 9) (a1 : Fin 25) (a2 : Fin 8) : RoundTrip.Statement (.shfi a0 a1 a2) := by
  rintro _ ⟨⟩
  exact (show decodeRaw (encShfi 0 69 0 a0 a1 a2) = decShfi (encShfi 0 69 0 a0 a1 a2) .shfi
    by simp [decodeRaw, decodeS, encShfi]).trans (by simp)

theorem RoundTrip.shfiAdd (a0 : BitVec 9) (a1 : Fin 25) (a2 : Fin 8) : RoundTrip.Statement (.shfiAdd a0 a1 a2) := by
  rintro _ ⟨⟩
  exact (show decodeRaw (encShfi 0 69 1 a0 a1 a2) = decShfi (encShfi 0 69 1 a0 a1 a2) .shfiAdd
    by simp [decodeRaw, decodeS, encShfi]).trans (by simp)

theorem RoundTrip.shcpD (a0 : Fin 8) (a1 : Fin 8) : RoundTrip.Statement (.shcpD a0 a1) := by
  rintro _ ⟨⟩
  exact (show decodeRaw (encShcp 0 70 0 a0 a1) = decShcp (encShcp 0 70 0 a0 a1) .shcpD
    by simp [decodeRaw, decodeS, encShcp]).trans (by simp)

theorem RoundTrip.shcpSd (a0 : Fin 8) (a1 : Fin 8) : RoundTrip.Statement (.shcpSd a0 a1) := by
  rintro _ ⟨⟩
  exact (show decodeRaw (encShcp 0 70 1 a0 a1) = decShcp (encShcp 0 70 1 a0 a1) .shcpSd
    by simp [decodeRaw, decodeS, encShcp]).trans (by simp)

theorem RoundTrip.shcpMem (a0 : Fin 8) (a1 : SSrc) : RoundTrip.Statement (.shcpMem a0 a1) := by
  rintro _ ⟨⟩
  exact (show decodeRaw (encShcpM 0 70 2 a0 a1) = decShcpM (encShcpM 0 70 2 a0 a1) .shcpMem
    by simp [decodeRaw, decodeS, encShcpM]).trans (by simp)

theorem RoundTrip.shrd (a0 : Bool) (a1 : SDst) (a2 : Fin 16) (a3 : Fin 25) : RoundTrip.Statement (.shrd a0 a1 a2 a3) := by
  rintro _ ⟨⟩
  exact (show decodeRaw (encShrd 0 71 a0 a1 a2 a3) = decShrd (encShrd 0 71 a0 a1 a2 a3) .shrd
    from rfl).trans (by simp)

theorem RoundTrip.shchk (a0 : Bool) (a1 : SDst) (a2 : Fin 16) : RoundTrip.Statement (.shchk a0 a1 a2) := by
  rintro _ ⟨⟩
  exact (show decodeRaw (encShchk 0 72 a0 a1 a2) = decShchk (encShchk 0 72 a0 a1 a2) .shchk from rfl).trans (by simp)

theorem RoundTrip.csrr (a0 : Bool) (a1 : SDst) (a2 : BitVec 12) : RoundTrip.Statement (.csrr a0 a1 a2) := by
  rintro _ ⟨⟩
  exact (show decodeRaw (encCsrr 0 80 a0 a1 a2) = decCsrr (encCsrr 0 80 a0 a1 a2) .csrr from rfl).trans (by simp)

theorem RoundTrip.csrw (a0 : SSrc) (a1 : BitVec 12) : RoundTrip.Statement (.csrw a0 a1) := by
  rintro _ ⟨⟩
  exact (show decodeRaw (encCsrw 0 81 a0 a1) = decCsrw (encCsrw 0 81 a0 a1) .csrw from rfl).trans (by simp)

theorem RoundTrip.csrs (a0 : SSrc) (a1 : BitVec 12) : RoundTrip.Statement (.csrs a0 a1) := by
  rintro _ ⟨⟩
  exact (show decodeRaw (encCsrw 0 82 a0 a1) = decCsrw (encCsrw 0 82 a0 a1) .csrs from rfl).trans (by simp)

theorem RoundTrip.csrc (a0 : SSrc) (a1 : BitVec 12) : RoundTrip.Statement (.csrc a0 a1) := by
  rintro _ ⟨⟩
  exact (show decodeRaw (encCsrw 0 83 a0 a1) = decCsrw (encCsrw 0 83 a0 a1) .csrc from rfl).trans (by simp)

theorem RoundTrip.sys (a0 : BitVec 6) : RoundTrip.Statement (.sys a0) := by
  rintro _ ⟨⟩
  exact (show decodeRaw (encSys 0 84 a0) = decSys (encSys 0 84 a0) .sys from rfl).trans (by simp)

theorem RoundTrip.freeze (a0 : Bool) (a1 : SDst) (a2 : SSrc) : RoundTrip.Statement (.freeze a0 a1 a2) := by
  rintro _ ⟨⟩
  exact (show decodeRaw (encR2 0 87 a0 a1 a2) = decR2 (encR2 0 87 a0 a1 a2) .freeze from rfl).trans (by simp)

theorem RoundTrip.pairset (a0 : Bool) (a1 : SDst) (a2 : SSrc) : RoundTrip.Statement (.pairset a0 a1 a2) := by
  rintro _ ⟨⟩
  exact (show decodeRaw (encR2 0 88 a0 a1 a2) = decR2 (encR2 0 88 a0 a1 a2) .pairset from rfl).trans (by simp)

theorem RoundTrip.ctc (a0 : Bool) (a1 : SDst) : RoundTrip.Statement (.ctc a0 a1) := by
  rintro _ ⟨⟩
  exact (show decodeRaw (encR1d 0 96 a0 a1) = decR1d (encR1d 0 96 a0 a1) .ctc from rfl).trans (by simp)

theorem RoundTrip.budq (a0 : Bool) (a1 : SDst) (a2 : SSrc) : RoundTrip.Statement (.budq a0 a1 a2) := by
  rintro _ ⟨⟩
  exact (show decodeRaw (encR2 0 97 a0 a1 a2) = decR2 (encR2 0 97 a0 a1 a2) .budq from rfl).trans (by simp)

theorem RoundTrip.boost (a0 : Bool) (a1 : SDst) (a2 : SSrc) : RoundTrip.Statement (.boost a0 a1 a2) := by
  rintro _ ⟨⟩
  exact (show decodeRaw (encR2 0 98 a0 a1 a2) = decR2 (encR2 0 98 a0 a1 a2) .boost from rfl).trans (by simp)

theorem RoundTrip.jrd (a0 : Bool) (a1 : SDst) (a2 : SSrc) : RoundTrip.Statement (.jrd a0 a1 a2) := by
  rintro _ ⟨⟩
  exact (show decodeRaw (encR2 0 99 a0 a1 a2) = decR2 (encR2 0 99 a0 a1 a2) .jrd from rfl).trans (by simp)

theorem RoundTrip.thq (a0 : Bool) (a1 : SDst) (a2 : SSrc) : RoundTrip.Statement (.thq a0 a1 a2) := by
  rintro _ ⟨⟩
  exact (show decodeRaw (encR2 0 100 a0 a1 a2) = decR2 (encR2 0 100 a0 a1 a2) .thq from rfl).trans (by simp)

theorem RoundTrip.vadd (a0 : Bool) (a1 : ITy) (a2 : VDst) (a3 : VSrc) (a4 : VSrc) : RoundTrip.Statement (.vadd a0 a1 a2 a3 a4) := by
  rintro _ ⟨⟩
  exact (show decodeRaw (encV3 1 0 a0 a1 a2 a3 a4) = decV3 (encV3 1 0 a0 a1 a2 a3 a4) .vadd from rfl).trans (by simp)

theorem RoundTrip.vsub (a0 : Bool) (a1 : ITy) (a2 : VDst) (a3 : VSrc) (a4 : VSrc) : RoundTrip.Statement (.vsub a0 a1 a2 a3 a4) := by
  rintro _ ⟨⟩
  exact (show decodeRaw (encV3 1 1 a0 a1 a2 a3 a4) = decV3 (encV3 1 1 a0 a1 a2 a3 a4) .vsub from rfl).trans (by simp)

theorem RoundTrip.vadds (a0 : Bool) (a1 : ITy) (a2 : VDst) (a3 : VSrc) (a4 : VSrc) : RoundTrip.Statement (.vadds a0 a1 a2 a3 a4) := by
  rintro _ ⟨⟩
  exact (show decodeRaw (encV3 1 2 a0 a1 a2 a3 a4) = decV3 (encV3 1 2 a0 a1 a2 a3 a4) .vadds from rfl).trans (by simp)

theorem RoundTrip.vsubs (a0 : Bool) (a1 : ITy) (a2 : VDst) (a3 : VSrc) (a4 : VSrc) : RoundTrip.Statement (.vsubs a0 a1 a2 a3 a4) := by
  rintro _ ⟨⟩
  exact (show decodeRaw (encV3 1 3 a0 a1 a2 a3 a4) = decV3 (encV3 1 3 a0 a1 a2 a3 a4) .vsubs from rfl).trans (by simp)

theorem RoundTrip.vmul (a0 : Bool) (a1 : ITy) (a2 : VDst) (a3 : VSrc) (a4 : VSrc) : RoundTrip.Statement (.vmul a0 a1 a2 a3 a4) := by
  rintro _ ⟨⟩
  exact (show decodeRaw (encV3 1 4 a0 a1 a2 a3 a4) = decV3 (encV3 1 4 a0 a1 a2 a3 a4) .vmul from rfl).trans (by simp)

theorem RoundTrip.vmulh (a0 : Bool) (a1 : ITy) (a2 : VDst) (a3 : VSrc) (a4 : VSrc) : RoundTrip.Statement (.vmulh a0 a1 a2 a3 a4) := by
  rintro _ ⟨⟩
  exact (show decodeRaw (encV3 1 5 a0 a1 a2 a3 a4) = decV3 (encV3 1 5 a0 a1 a2 a3 a4) .vmulh from rfl).trans (by simp)

theorem RoundTrip.vmulw (a0 : Bool) (a1 : ITy) (a2 : VDst) (a3 : VSrc) (a4 : VSrc) : RoundTrip.Statement (.vmulw a0 a1 a2 a3 a4) := by
  rintro _ ⟨⟩
  exact (show decodeRaw (encV3 1 6 a0 a1 a2 a3 a4) = decV3 (encV3 1 6 a0 a1 a2 a3 a4) .vmulw from rfl).trans (by simp)

theorem RoundTrip.vmac (a0 : Bool) (a1 : ITy) (a2 : VDst) (a3 : VSrc) (a4 : VSrc) : RoundTrip.Statement (.vmac a0 a1 a2 a3 a4) := by
  rintro _ ⟨⟩
  exact (show decodeRaw (encV3 1 7 a0 a1 a2 a3 a4) = decV3 (encV3 1 7 a0 a1 a2 a3 a4) .vmac from rfl).trans (by simp)

theorem RoundTrip.vdot (a0 : Bool) (a1 : ITy) (a2 : VDst) (a3 : VSrc) (a4 : VSrc) : RoundTrip.Statement (.vdot a0 a1 a2 a3 a4) := by
  rintro _ ⟨⟩
  exact (show decodeRaw (encV3 1 8 a0 a1 a2 a3 a4) = decV3 (encV3 1 8 a0 a1 a2 a3 a4) .vdot from rfl).trans (by simp)

theorem RoundTrip.vand (a0 : Bool) (a1 : ITy) (a2 : VDst) (a3 : VSrc) (a4 : VSrc) : RoundTrip.Statement (.vand a0 a1 a2 a3 a4) := by
  rintro _ ⟨⟩
  exact (show decodeRaw (encV3 1 9 a0 a1 a2 a3 a4) = decV3 (encV3 1 9 a0 a1 a2 a3 a4) .vand from rfl).trans (by simp)

theorem RoundTrip.vor (a0 : Bool) (a1 : ITy) (a2 : VDst) (a3 : VSrc) (a4 : VSrc) : RoundTrip.Statement (.vor a0 a1 a2 a3 a4) := by
  rintro _ ⟨⟩
  exact (show decodeRaw (encV3 1 10 a0 a1 a2 a3 a4) = decV3 (encV3 1 10 a0 a1 a2 a3 a4) .vor from rfl).trans (by simp)

theorem RoundTrip.vxor (a0 : Bool) (a1 : ITy) (a2 : VDst) (a3 : VSrc) (a4 : VSrc) : RoundTrip.Statement (.vxor a0 a1 a2 a3 a4) := by
  rintro _ ⟨⟩
  exact (show decodeRaw (encV3 1 11 a0 a1 a2 a3 a4) = decV3 (encV3 1 11 a0 a1 a2 a3 a4) .vxor
    from rfl).trans (by simp)

theorem RoundTrip.vandn (a0 : Bool) (a1 : ITy) (a2 : VDst) (a3 : VSrc) (a4 : VSrc) : RoundTrip.Statement (.vandn a0 a1 a2 a3 a4) := by
  rintro _ ⟨⟩
  exact (show decodeRaw (encV3 1 12 a0 a1 a2 a3 a4) = decV3 (encV3 1 12 a0 a1 a2 a3 a4) .vandn
    from rfl).trans (by simp)

theorem RoundTrip.vshl (a0 : Bool) (a1 : ITy) (a2 : VDst) (a3 : VSrc) (a4 : VSrc) : RoundTrip.Statement (.vshl a0 a1 a2 a3 a4) := by
  rintro _ ⟨⟩
  exact (show decodeRaw (encV3 1 13 a0 a1 a2 a3 a4) = decV3 (encV3 1 13 a0 a1 a2 a3 a4) .vshl
    from rfl).trans (by simp)

theorem RoundTrip.vshr (a0 : Bool) (a1 : ITy) (a2 : VDst) (a3 : VSrc) (a4 : VSrc) : RoundTrip.Statement (.vshr a0 a1 a2 a3 a4) := by
  rintro _ ⟨⟩
  exact (show decodeRaw (encV3 1 14 a0 a1 a2 a3 a4) = decV3 (encV3 1 14 a0 a1 a2 a3 a4) .vshr
    from rfl).trans (by simp)

theorem RoundTrip.vsra (a0 : Bool) (a1 : ITy) (a2 : VDst) (a3 : VSrc) (a4 : VSrc) : RoundTrip.Statement (.vsra a0 a1 a2 a3 a4) := by
  rintro _ ⟨⟩
  exact (show decodeRaw (encV3 1 15 a0 a1 a2 a3 a4) = decV3 (encV3 1 15 a0 a1 a2 a3 a4) .vsra
    from rfl).trans (by simp)

theorem RoundTrip.vmin (a0 : Bool) (a1 : ITy) (a2 : VDst) (a3 : VSrc) (a4 : VSrc) : RoundTrip.Statement (.vmin a0 a1 a2 a3 a4) := by
  rintro _ ⟨⟩
  exact (show decodeRaw (encV3 1 16 a0 a1 a2 a3 a4) = decV3 (encV3 1 16 a0 a1 a2 a3 a4) .vmin
    from rfl).trans (by simp)

theorem RoundTrip.vmax (a0 : Bool) (a1 : ITy) (a2 : VDst) (a3 : VSrc) (a4 : VSrc) : RoundTrip.Statement (.vmax a0 a1 a2 a3 a4) := by
  rintro _ ⟨⟩
  exact (show decodeRaw (encV3 1 17 a0 a1 a2 a3 a4) = decV3 (encV3 1 17 a0 a1 a2 a3 a4) .vmax
    from rfl).trans (by simp)

theorem RoundTrip.vabs (a0 : Bool) (a1 : ITy) (a2 : VDst) (a3 : VSrc) : RoundTrip.Statement (.vabs a0 a1 a2 a3) := by
  rintro _ ⟨⟩
  exact (show decodeRaw (encV2 1 18 a0 a1 a2 a3) = decV2 (encV2 1 18 a0 a1 a2 a3) .vabs from rfl).trans (by simp)

theorem RoundTrip.vneg (a0 : Bool) (a1 : ITy) (a2 : VDst) (a3 : VSrc) : RoundTrip.Statement (.vneg a0 a1 a2 a3) := by
  rintro _ ⟨⟩
  exact (show decodeRaw (encV2 1 19 a0 a1 a2 a3) = decV2 (encV2 1 19 a0 a1 a2 a3) .vneg from rfl).trans (by simp)

theorem RoundTrip.vcmpEq (a0 : Bool) (a1 : ITy) (a2 : PReg) (a3 : VSrc) (a4 : VSrc) : RoundTrip.Statement (.vcmpEq a0 a1 a2 a3 a4) := by
  rintro _ ⟨⟩
  exact (show decodeRaw (encVc 1 20 a0 a1 a2 a3 a4) = decVc (encVc 1 20 a0 a1 a2 a3 a4) .vcmpEq
    from rfl).trans (by simp)

theorem RoundTrip.vcmpNe (a0 : Bool) (a1 : ITy) (a2 : PReg) (a3 : VSrc) (a4 : VSrc) : RoundTrip.Statement (.vcmpNe a0 a1 a2 a3 a4) := by
  rintro _ ⟨⟩
  exact (show decodeRaw (encVc 1 21 a0 a1 a2 a3 a4) = decVc (encVc 1 21 a0 a1 a2 a3 a4) .vcmpNe
    from rfl).trans (by simp)

theorem RoundTrip.vcmpLt (a0 : Bool) (a1 : ITy) (a2 : PReg) (a3 : VSrc) (a4 : VSrc) : RoundTrip.Statement (.vcmpLt a0 a1 a2 a3 a4) := by
  rintro _ ⟨⟩
  exact (show decodeRaw (encVc 1 22 a0 a1 a2 a3 a4) = decVc (encVc 1 22 a0 a1 a2 a3 a4) .vcmpLt
    from rfl).trans (by simp)

theorem RoundTrip.vcmpLe (a0 : Bool) (a1 : ITy) (a2 : PReg) (a3 : VSrc) (a4 : VSrc) : RoundTrip.Statement (.vcmpLe a0 a1 a2 a3 a4) := by
  rintro _ ⟨⟩
  exact (show decodeRaw (encVc 1 23 a0 a1 a2 a3 a4) = decVc (encVc 1 23 a0 a1 a2 a3 a4) .vcmpLe
    from rfl).trans (by simp)

theorem RoundTrip.vsel (a0 : Bool) (a1 : ITy) (a2 : VDst) (a3 : VSrc) (a4 : PReg) : RoundTrip.Statement (.vsel a0 a1 a2 a3 a4) := by
  rintro _ ⟨⟩
  exact (show decodeRaw (encVp 1 24 a0 a1 a2 a3 a4) = decVp (encVp 1 24 a0 a1 a2 a3 a4) .vsel
    from rfl).trans (by simp)

theorem RoundTrip.vclz (a0 : Bool) (a1 : ITy) (a2 : VDst) (a3 : VSrc) : RoundTrip.Statement (.vclz a0 a1 a2 a3) := by
  rintro _ ⟨⟩
  exact (show decodeRaw (encV2 1 25 a0 a1 a2 a3) = decV2 (encV2 1 25 a0 a1 a2 a3) .vclz from rfl).trans (by simp)

theorem RoundTrip.vpopc (a0 : Bool) (a1 : ITy) (a2 : VDst) (a3 : VSrc) : RoundTrip.Statement (.vpopc a0 a1 a2 a3) := by
  rintro _ ⟨⟩
  exact (show decodeRaw (encV2 1 26 a0 a1 a2 a3) = decV2 (encV2 1 26 a0 a1 a2 a3) .vpopc from rfl).trans (by simp)

theorem RoundTrip.vdotSat (a0 : Bool) (a1 : ITy) (a2 : VDst) (a3 : VSrc) (a4 : VSrc) : RoundTrip.Statement (.vdotSat a0 a1 a2 a3 a4) := by
  rintro _ ⟨⟩
  exact (show decodeRaw (encV3 1 27 a0 a1 a2 a3 a4) = decV3 (encV3 1 27 a0 a1 a2 a3 a4) .vdotSat
    from rfl).trans (by simp)

theorem RoundTrip.fadd (a0 : Bool) (a1 : FTy) (a2 : VDst) (a3 : VSrc) (a4 : VSrc) : RoundTrip.Statement (.fadd a0 a1 a2 a3 a4) := by
  rintro _ ⟨⟩
  exact (show decodeRaw (encF3 1 32 a0 a1 a2 a3 a4) = decF3 (encF3 1 32 a0 a1 a2 a3 a4) .fadd
    from rfl).trans (by simp)

theorem RoundTrip.fsub (a0 : Bool) (a1 : FTy) (a2 : VDst) (a3 : VSrc) (a4 : VSrc) : RoundTrip.Statement (.fsub a0 a1 a2 a3 a4) := by
  rintro _ ⟨⟩
  exact (show decodeRaw (encF3 1 33 a0 a1 a2 a3 a4) = decF3 (encF3 1 33 a0 a1 a2 a3 a4) .fsub
    from rfl).trans (by simp)

theorem RoundTrip.fmul (a0 : Bool) (a1 : FTy) (a2 : VDst) (a3 : VSrc) (a4 : VSrc) : RoundTrip.Statement (.fmul a0 a1 a2 a3 a4) := by
  rintro _ ⟨⟩
  exact (show decodeRaw (encF3 1 34 a0 a1 a2 a3 a4) = decF3 (encF3 1 34 a0 a1 a2 a3 a4) .fmul
    from rfl).trans (by simp)

theorem RoundTrip.fma (a0 : Bool) (a1 : FTy) (a2 : VDst) (a3 : VSrc) (a4 : VSrc) : RoundTrip.Statement (.fma a0 a1 a2 a3 a4) := by
  rintro _ ⟨⟩
  exact (show decodeRaw (encF3 1 35 a0 a1 a2 a3 a4) = decF3 (encF3 1 35 a0 a1 a2 a3 a4) .fma from rfl).trans (by simp)

theorem RoundTrip.fms (a0 : Bool) (a1 : FTy) (a2 : VDst) (a3 : VSrc) (a4 : VSrc) : RoundTrip.Statement (.fms a0 a1 a2 a3 a4) := by
  rintro _ ⟨⟩
  exact (show decodeRaw (encF3 1 36 a0 a1 a2 a3 a4) = decF3 (encF3 1 36 a0 a1 a2 a3 a4) .fms from rfl).trans (by simp)

theorem RoundTrip.fnma (a0 : Bool) (a1 : FTy) (a2 : VDst) (a3 : VSrc) (a4 : VSrc) : RoundTrip.Statement (.fnma a0 a1 a2 a3 a4) := by
  rintro _ ⟨⟩
  exact (show decodeRaw (encF3 1 37 a0 a1 a2 a3 a4) = decF3 (encF3 1 37 a0 a1 a2 a3 a4) .fnma
    from rfl).trans (by simp)

theorem RoundTrip.fmin (a0 : Bool) (a1 : FTy) (a2 : VDst) (a3 : VSrc) (a4 : VSrc) : RoundTrip.Statement (.fmin a0 a1 a2 a3 a4) := by
  rintro _ ⟨⟩
  exact (show decodeRaw (encF3 1 38 a0 a1 a2 a3 a4) = decF3 (encF3 1 38 a0 a1 a2 a3 a4) .fmin
    from rfl).trans (by simp)

theorem RoundTrip.fmax (a0 : Bool) (a1 : FTy) (a2 : VDst) (a3 : VSrc) (a4 : VSrc) : RoundTrip.Statement (.fmax a0 a1 a2 a3 a4) := by
  rintro _ ⟨⟩
  exact (show decodeRaw (encF3 1 39 a0 a1 a2 a3 a4) = decF3 (encF3 1 39 a0 a1 a2 a3 a4) .fmax
    from rfl).trans (by simp)

theorem RoundTrip.fabs (a0 : Bool) (a1 : FTy) (a2 : VDst) (a3 : VSrc) : RoundTrip.Statement (.fabs a0 a1 a2 a3) := by
  rintro _ ⟨⟩
  exact (show decodeRaw (encF2 1 40 a0 a1 a2 a3) = decF2 (encF2 1 40 a0 a1 a2 a3) .fabs from rfl).trans (by simp)

theorem RoundTrip.fneg (a0 : Bool) (a1 : FTy) (a2 : VDst) (a3 : VSrc) : RoundTrip.Statement (.fneg a0 a1 a2 a3) := by
  rintro _ ⟨⟩
  exact (show decodeRaw (encF2 1 41 a0 a1 a2 a3) = decF2 (encF2 1 41 a0 a1 a2 a3) .fneg from rfl).trans (by simp)

theorem RoundTrip.fcmpEq (a0 : Bool) (a1 : FTy) (a2 : PReg) (a3 : VSrc) (a4 : VSrc) : RoundTrip.Statement (.fcmpEq a0 a1 a2 a3 a4) := by
  rintro _ ⟨⟩
  exact (show decodeRaw (encFc 1 42 a0 a1 a2 a3 a4) = decFc (encFc 1 42 a0 a1 a2 a3 a4) .fcmpEq
    from rfl).trans (by simp)

theorem RoundTrip.fcmpNe (a0 : Bool) (a1 : FTy) (a2 : PReg) (a3 : VSrc) (a4 : VSrc) : RoundTrip.Statement (.fcmpNe a0 a1 a2 a3 a4) := by
  rintro _ ⟨⟩
  exact (show decodeRaw (encFc 1 43 a0 a1 a2 a3 a4) = decFc (encFc 1 43 a0 a1 a2 a3 a4) .fcmpNe
    from rfl).trans (by simp)

theorem RoundTrip.fcmpLt (a0 : Bool) (a1 : FTy) (a2 : PReg) (a3 : VSrc) (a4 : VSrc) : RoundTrip.Statement (.fcmpLt a0 a1 a2 a3 a4) := by
  rintro _ ⟨⟩
  exact (show decodeRaw (encFc 1 44 a0 a1 a2 a3 a4) = decFc (encFc 1 44 a0 a1 a2 a3 a4) .fcmpLt
    from rfl).trans (by simp)

theorem RoundTrip.fcmpLe (a0 : Bool) (a1 : FTy) (a2 : PReg) (a3 : VSrc) (a4 : VSrc) : RoundTrip.Statement (.fcmpLe a0 a1 a2 a3 a4) := by
  rintro _ ⟨⟩
  exact (show decodeRaw (encFc 1 45 a0 a1 a2 a3 a4) = decFc (encFc 1 45 a0 a1 a2 a3 a4) .fcmpLe
    from rfl).trans (by simp)

theorem RoundTrip.fcmpUn (a0 : Bool) (a1 : FTy) (a2 : PReg) (a3 : VSrc) (a4 : VSrc) : RoundTrip.Statement (.fcmpUn a0 a1 a2 a3 a4) := by
  rintro _ ⟨⟩
  exact (show decodeRaw (encFc 1 46 a0 a1 a2 a3 a4) = decFc (encFc 1 46 a0 a1 a2 a3 a4) .fcmpUn
    from rfl).trans (by simp)

theorem RoundTrip.frint (a0 : Bool) (a1 : FTy) (a2 : VDst) (a3 : VSrc) : RoundTrip.Statement (.frint a0 a1 a2 a3) := by
  rintro _ ⟨⟩
  exact (show decodeRaw (encF2 1 47 a0 a1 a2 a3) = decF2 (encF2 1 47 a0 a1 a2 a3) .frint from rfl).trans (by simp)

theorem RoundTrip.vcvt (a0 : Bool) (a1 : ElTy) (a2 : VDst) (a3 : VSrc) (a4 : ElTy) : RoundTrip.Statement (.vcvt a0 a1 a2 a3 a4) := by
  rintro _ ⟨⟩
  exact (show decodeRaw (encCvt 1 48 a0 a1 a2 a3 a4) = decCvt (encCvt 1 48 a0 a1 a2 a3 a4) .vcvt
    from rfl).trans (by simp)

theorem RoundTrip.vcvtw (a0 : Bool) (a1 : ElTy) (a2 : VDst) (a3 : VSrc) (a4 : ElTy) : RoundTrip.Statement (.vcvtw a0 a1 a2 a3 a4) := by
  rintro _ ⟨⟩
  exact (show decodeRaw (encCvt 1 49 a0 a1 a2 a3 a4) = decCvt (encCvt 1 49 a0 a1 a2 a3 a4) .vcvtw
    from rfl).trans (by simp)

theorem RoundTrip.vpack (a0 : Bool) (a1 : ITy) (a2 : VDst) (a3 : VSrc) (a4 : VSrc) : RoundTrip.Statement (.vpack a0 a1 a2 a3 a4) := by
  rintro _ ⟨⟩
  exact (show decodeRaw (encV3 1 50 a0 a1 a2 a3 a4) = decV3 (encV3 1 50 a0 a1 a2 a3 a4) .vpack
    from rfl).trans (by simp)

theorem RoundTrip.vqnt (a0 : Bool) (a1 : ITy) (a2 : VDst) (a3 : VSrc) (a4 : VSrc) : RoundTrip.Statement (.vqnt a0 a1 a2 a3 a4) := by
  rintro _ ⟨⟩
  exact (show decodeRaw (encV3 1 51 a0 a1 a2 a3 a4) = decV3 (encV3 1 51 a0 a1 a2 a3 a4) .vqnt
    from rfl).trans (by simp)

theorem RoundTrip.vmov (a0 : Bool) (a1 : ITy) (a2 : VDst) (a3 : VSrc) : RoundTrip.Statement (.vmov a0 a1 a2 a3) := by
  rintro _ ⟨⟩
  exact (show decodeRaw (encV2 1 56 a0 a1 a2 a3) = decV2 (encV2 1 56 a0 a1 a2 a3) .vmov from rfl).trans (by simp)

theorem RoundTrip.vbcast (a0 : Bool) (a1 : ITy) (a2 : VDst) (a3 : VSrc) (a4 : VSrc) : RoundTrip.Statement (.vbcast a0 a1 a2 a3 a4) := by
  rintro _ ⟨⟩
  exact (show decodeRaw (encV3 1 57 a0 a1 a2 a3 a4) = decV3 (encV3 1 57 a0 a1 a2 a3 a4) .vbcast
    from rfl).trans (by simp)

theorem RoundTrip.vext (a0 : Bool) (a1 : ITy) (a2 : VDst) (a3 : VSrc) (a4 : VSrc) : RoundTrip.Statement (.vext a0 a1 a2 a3 a4) := by
  rintro _ ⟨⟩
  exact (show decodeRaw (encV3 1 58 a0 a1 a2 a3 a4) = decV3 (encV3 1 58 a0 a1 a2 a3 a4) .vext
    from rfl).trans (by simp)

theorem RoundTrip.vins (a0 : Bool) (a1 : ITy) (a2 : VDst) (a3 : VSrc) (a4 : VSrc) : RoundTrip.Statement (.vins a0 a1 a2 a3 a4) := by
  rintro _ ⟨⟩
  exact (show decodeRaw (encV3 1 59 a0 a1 a2 a3 a4) = decV3 (encV3 1 59 a0 a1 a2 a3 a4) .vins
    from rfl).trans (by simp)

theorem RoundTrip.vperm (a0 : Bool) (a1 : ITy) (a2 : VDst) (a3 : VSrc) (a4 : VSrc) : RoundTrip.Statement (.vperm a0 a1 a2 a3 a4) := by
  rintro _ ⟨⟩
  exact (show decodeRaw (encV3 1 60 a0 a1 a2 a3 a4) = decV3 (encV3 1 60 a0 a1 a2 a3 a4) .vperm
    from rfl).trans (by simp)

theorem RoundTrip.vzip (a0 : Bool) (a1 : ITy) (a2 : VDst) (a3 : VSrc) (a4 : VSrc) : RoundTrip.Statement (.vzip a0 a1 a2 a3 a4) := by
  rintro _ ⟨⟩
  exact (show decodeRaw (encV3 1 61 a0 a1 a2 a3 a4) = decV3 (encV3 1 61 a0 a1 a2 a3 a4) .vzip
    from rfl).trans (by simp)

theorem RoundTrip.vunzip (a0 : Bool) (a1 : ITy) (a2 : VDst) (a3 : VSrc) (a4 : VSrc) : RoundTrip.Statement (.vunzip a0 a1 a2 a3 a4) := by
  rintro _ ⟨⟩
  exact (show decodeRaw (encV3 1 62 a0 a1 a2 a3 a4) = decV3 (encV3 1 62 a0 a1 a2 a3 a4) .vunzip
    from rfl).trans (by simp)

theorem RoundTrip.vslide (a0 : Bool) (a1 : ITy) (a2 : VDst) (a3 : VSrc) (a4 : VSrc) : RoundTrip.Statement (.vslide a0 a1 a2 a3 a4) := by
  rintro _ ⟨⟩
  exact (show decodeRaw (encV3 1 63 a0 a1 a2 a3 a4) = decV3 (encV3 1 63 a0 a1 a2 a3 a4) .vslide
    from rfl).trans (by simp)

theorem RoundTrip.vcompr (a0 : Bool) (a1 : ITy) (a2 : VDst) (a3 : VSrc) (a4 : PReg) : RoundTrip.Statement (.vcompr a0 a1 a2 a3 a4) := by
  rintro _ ⟨⟩
  exact (show decodeRaw (encVp 1 64 a0 a1 a2 a3 a4) = decVp (encVp 1 64 a0 a1 a2 a3 a4) .vcompr
    from rfl).trans (by simp)

theorem RoundTrip.vexpnd (a0 : Bool) (a1 : ITy) (a2 : VDst) (a3 : VSrc) (a4 : PReg) : RoundTrip.Statement (.vexpnd a0 a1 a2 a3 a4) := by
  rintro _ ⟨⟩
  exact (show decodeRaw (encVp 1 65 a0 a1 a2 a3 a4) = decVp (encVp 1 65 a0 a1 a2 a3 a4) .vexpnd
    from rfl).trans (by simp)

theorem RoundTrip.viota (a0 : Bool) (a1 : ITy) (a2 : VDst) (a3 : PReg) : RoundTrip.Statement (.viota a0 a1 a2 a3) := by
  rintro _ ⟨⟩
  exact (show decodeRaw (encViota 1 66 a0 a1 a2 a3) = decViota (encViota 1 66 a0 a1 a2 a3) .viota
    from rfl).trans (by simp)

theorem RoundTrip.vrsumInt (a0 : Bool) (a1 : ITy) (a2 : VDst) (a3 : VSrc) (a4 : PReg) : RoundTrip.Statement (.vrsumInt a0 a1 a2 a3 a4) := by
  rintro _ ⟨⟩
  exact (show decodeRaw (encVp 1 72 a0 a1 a2 a3 a4) = decVp (encVp 1 72 a0 a1 a2 a3 a4) .vrsumInt
    from rfl).trans (by simp)

theorem RoundTrip.vrmaxInt (a0 : Bool) (a1 : ITy) (a2 : VDst) (a3 : VSrc) (a4 : PReg) : RoundTrip.Statement (.vrmaxInt a0 a1 a2 a3 a4) := by
  rintro _ ⟨⟩
  exact (show decodeRaw (encVp 1 73 a0 a1 a2 a3 a4) = decVp (encVp 1 73 a0 a1 a2 a3 a4) .vrmaxInt
    from rfl).trans (by simp)

theorem RoundTrip.vrminInt (a0 : Bool) (a1 : ITy) (a2 : VDst) (a3 : VSrc) (a4 : PReg) : RoundTrip.Statement (.vrminInt a0 a1 a2 a3 a4) := by
  rintro _ ⟨⟩
  exact (show decodeRaw (encVp 1 74 a0 a1 a2 a3 a4) = decVp (encVp 1 74 a0 a1 a2 a3 a4) .vrminInt
    from rfl).trans (by simp)

theorem RoundTrip.vargmaxInt (a0 : Bool) (a1 : ITy) (a2 : VDst) (a3 : VSrc) (a4 : PReg) : RoundTrip.Statement (.vargmaxInt a0 a1 a2 a3 a4) := by
  rintro _ ⟨⟩
  exact (show decodeRaw (encVp 1 75 a0 a1 a2 a3 a4) = decVp (encVp 1 75 a0 a1 a2 a3 a4) .vargmaxInt
    from rfl).trans (by simp)

theorem RoundTrip.vscanInt (a0 : Bool) (a1 : ITy) (a2 : VDst) (a3 : VSrc) (a4 : PReg) : RoundTrip.Statement (.vscanInt a0 a1 a2 a3 a4) := by
  rintro _ ⟨⟩
  exact (show decodeRaw (encVp 1 76 a0 a1 a2 a3 a4) = decVp (encVp 1 76 a0 a1 a2 a3 a4) .vscanInt
    by simp [decodeRaw, decodeV, encVp]).trans (by simp)

theorem RoundTrip.vscanExInt (a0 : Bool) (a1 : ITy) (a2 : VDst) (a3 : VSrc) (a4 : PReg) : RoundTrip.Statement (.vscanExInt a0 a1 a2 a3 a4) := by
  rintro _ ⟨⟩
  exact (show decodeRaw (encVpX 1 76 a0 a1 a2 a3 a4) = decVpX (encVpX 1 76 a0 a1 a2 a3 a4) .vscanExInt
    by simp [decodeRaw, decodeV, encVpX]).trans (by simp)

theorem RoundTrip.vcmpxInt (a0 : Bool) (a1 : ITy) (a2 : VDst) (a3 : VSrc) (a4 : Bool) (a5 : Bool) (a6 : BitVec 4) : RoundTrip.Statement (.vcmpxInt a0 a1 a2 a3 a4 a5 a6) := by
  rintro _ ⟨⟩
  exact (show decodeRaw (encCmpxI 1 77 a0 a1 a2 a3 a4 a5 a6) = decCmpxI (encCmpxI 1 77 a0 a1 a2 a3 a4 a5 a6) .vcmpxInt
    from rfl).trans (by simp)

theorem RoundTrip.pset (a0 : Bool) (a1 : PReg) (a2 : BitVec 12) : RoundTrip.Statement (.pset a0 a1 a2) := by
  rintro _ ⟨⟩
  exact (show decodeRaw (encPset 1 80 a0 a1 a2) = decPset (encPset 1 80 a0 a1 a2) .pset from rfl).trans (by simp)

theorem RoundTrip.pcnt (a0 : Bool) (a1 : VDst) (a2 : PReg) : RoundTrip.Statement (.pcnt a0 a1 a2) := by
  rintro _ ⟨⟩
  exact (show decodeRaw (encPcnt 1 81 a0 a1 a2) = decPcnt (encPcnt 1 81 a0 a1 a2) .pcnt from rfl).trans (by simp)

theorem RoundTrip.pfirst (a0 : Bool) (a1 : PReg) (a2 : PReg) : RoundTrip.Statement (.pfirst a0 a1 a2) := by
  rintro _ ⟨⟩
  exact (show decodeRaw (encP2 1 82 a0 a1 a2) = decP2 (encP2 1 82 a0 a1 a2) .pfirst from rfl).trans (by simp)

theorem RoundTrip.vrsumFloat (a0 : Bool) (a1 : FTy) (a2 : VDst) (a3 : VSrc) (a4 : PReg) : RoundTrip.Statement (.vrsumFloat a0 a1 a2 a3 a4) := by
  rintro _ ⟨⟩
  exact (show decodeRaw (encFp 1 88 a0 a1 a2 a3 a4) = decFp (encFp 1 88 a0 a1 a2 a3 a4) .vrsumFloat
    from rfl).trans (by simp)

theorem RoundTrip.vrmaxFloat (a0 : Bool) (a1 : FTy) (a2 : VDst) (a3 : VSrc) (a4 : PReg) : RoundTrip.Statement (.vrmaxFloat a0 a1 a2 a3 a4) := by
  rintro _ ⟨⟩
  exact (show decodeRaw (encFp 1 89 a0 a1 a2 a3 a4) = decFp (encFp 1 89 a0 a1 a2 a3 a4) .vrmaxFloat
    from rfl).trans (by simp)

theorem RoundTrip.vrminFloat (a0 : Bool) (a1 : FTy) (a2 : VDst) (a3 : VSrc) (a4 : PReg) : RoundTrip.Statement (.vrminFloat a0 a1 a2 a3 a4) := by
  rintro _ ⟨⟩
  exact (show decodeRaw (encFp 1 90 a0 a1 a2 a3 a4) = decFp (encFp 1 90 a0 a1 a2 a3 a4) .vrminFloat
    from rfl).trans (by simp)

theorem RoundTrip.vargmaxFloat (a0 : Bool) (a1 : FTy) (a2 : VDst) (a3 : VSrc) (a4 : PReg) : RoundTrip.Statement (.vargmaxFloat a0 a1 a2 a3 a4) := by
  rintro _ ⟨⟩
  exact (show decodeRaw (encFp 1 91 a0 a1 a2 a3 a4) = decFp (encFp 1 91 a0 a1 a2 a3 a4) .vargmaxFloat
    from rfl).trans (by simp)

theorem RoundTrip.vscanFloat (a0 : Bool) (a1 : FTy) (a2 : VDst) (a3 : VSrc) (a4 : PReg) : RoundTrip.Statement (.vscanFloat a0 a1 a2 a3 a4) := by
  rintro _ ⟨⟩
  exact (show decodeRaw (encFp 1 92 a0 a1 a2 a3 a4) = decFp (encFp 1 92 a0 a1 a2 a3 a4) .vscanFloat
    by simp [decodeRaw, decodeV, encFp]).trans (by simp)

theorem RoundTrip.vscanExFloat (a0 : Bool) (a1 : FTy) (a2 : VDst) (a3 : VSrc) (a4 : PReg) : RoundTrip.Statement (.vscanExFloat a0 a1 a2 a3 a4) := by
  rintro _ ⟨⟩
  exact (show decodeRaw (encFpX 1 92 a0 a1 a2 a3 a4) = decFpX (encFpX 1 92 a0 a1 a2 a3 a4) .vscanExFloat
    by simp [decodeRaw, decodeV, encFpX]).trans (by simp)

theorem RoundTrip.vcmpxFloat (a0 : Bool) (a1 : FTy) (a2 : VDst) (a3 : VSrc) (a4 : Bool) (a5 : Bool) (a6 : BitVec 4) : RoundTrip.Statement (.vcmpxFloat a0 a1 a2 a3 a4 a5 a6) := by
  rintro _ ⟨⟩
  exact (show decodeRaw (encCmpxF 1 93 a0 a1 a2 a3 a4 a5 a6) = decCmpxF (encCmpxF 1 93 a0 a1 a2 a3 a4 a5 a6) .vcmpxFloat
    from rfl).trans (by simp)

theorem RoundTrip.exp2 (a0 : Bool) (a1 : FTy) (a2 : VDst) (a3 : VSrc) : RoundTrip.Statement (.exp2 a0 a1 a2 a3) := by
  rintro _ ⟨⟩
  exact (show decodeRaw (encF2 2 0 a0 a1 a2 a3) = decF2 (encF2 2 0 a0 a1 a2 a3) .exp2 from rfl).trans (by simp)

theorem RoundTrip.log2 (a0 : Bool) (a1 : FTy) (a2 : VDst) (a3 : VSrc) : RoundTrip.Statement (.log2 a0 a1 a2 a3) := by
  rintro _ ⟨⟩
  exact (show decodeRaw (encF2 2 1 a0 a1 a2 a3) = decF2 (encF2 2 1 a0 a1 a2 a3) .log2 from rfl).trans (by simp)

theorem RoundTrip.rcp (a0 : Bool) (a1 : FTy) (a2 : VDst) (a3 : VSrc) : RoundTrip.Statement (.rcp a0 a1 a2 a3) := by
  rintro _ ⟨⟩
  exact (show decodeRaw (encF2 2 2 a0 a1 a2 a3) = decF2 (encF2 2 2 a0 a1 a2 a3) .rcp from rfl).trans (by simp)

theorem RoundTrip.rsqrt (a0 : Bool) (a1 : FTy) (a2 : VDst) (a3 : VSrc) : RoundTrip.Statement (.rsqrt a0 a1 a2 a3) := by
  rintro _ ⟨⟩
  exact (show decodeRaw (encF2 2 3 a0 a1 a2 a3) = decF2 (encF2 2 3 a0 a1 a2 a3) .rsqrt from rfl).trans (by simp)

theorem RoundTrip.sqrt (a0 : Bool) (a1 : FTy) (a2 : VDst) (a3 : VSrc) : RoundTrip.Statement (.sqrt a0 a1 a2 a3) := by
  rintro _ ⟨⟩
  exact (show decodeRaw (encF2 2 4 a0 a1 a2 a3) = decF2 (encF2 2 4 a0 a1 a2 a3) .sqrt from rfl).trans (by simp)

theorem RoundTrip.sin (a0 : Bool) (a1 : FTy) (a2 : VDst) (a3 : VSrc) : RoundTrip.Statement (.sin a0 a1 a2 a3) := by
  rintro _ ⟨⟩
  exact (show decodeRaw (encF2 2 5 a0 a1 a2 a3) = decF2 (encF2 2 5 a0 a1 a2 a3) .sin from rfl).trans (by simp)

theorem RoundTrip.cos (a0 : Bool) (a1 : FTy) (a2 : VDst) (a3 : VSrc) : RoundTrip.Statement (.cos a0 a1 a2 a3) := by
  rintro _ ⟨⟩
  exact (show decodeRaw (encF2 2 6 a0 a1 a2 a3) = decF2 (encF2 2 6 a0 a1 a2 a3) .cos from rfl).trans (by simp)

theorem RoundTrip.tanh (a0 : Bool) (a1 : FTy) (a2 : VDst) (a3 : VSrc) : RoundTrip.Statement (.tanh a0 a1 a2 a3) := by
  rintro _ ⟨⟩
  exact (show decodeRaw (encF2 2 7 a0 a1 a2 a3) = decF2 (encF2 2 7 a0 a1 a2 a3) .tanh from rfl).trans (by simp)

theorem RoundTrip.erf (a0 : Bool) (a1 : FTy) (a2 : VDst) (a3 : VSrc) : RoundTrip.Statement (.erf a0 a1 a2 a3) := by
  rintro _ ⟨⟩
  exact (show decodeRaw (encF2 2 8 a0 a1 a2 a3) = decF2 (encF2 2 8 a0 a1 a2 a3) .erf from rfl).trans (by simp)

theorem RoundTrip.lds (a0 : Bool) (a1 : ITy) (a2 : VDst) (a3 : SSrc) (a4 : BitVec 6) : RoundTrip.Statement (.lds a0 a1 a2 a3 a4) := by
  rintro _ ⟨⟩
  exact (show decodeRaw (encLds 3 0 a0 a1 a2 a3 a4) = decLds (encLds 3 0 a0 a1 a2 a3 a4) .lds
    from rfl).trans (by simp)

theorem RoundTrip.sts (a0 : ITy) (a1 : VSrc) (a2 : SSrc) (a3 : BitVec 6) : RoundTrip.Statement (.sts a0 a1 a2 a3) := by
  rintro _ ⟨⟩
  exact (show decodeRaw (encSts 3 1 a0 a1 a2 a3) = decSts (encSts 3 1 a0 a1 a2 a3) .sts from rfl).trans (by simp)

theorem RoundTrip.ldss (a0 : Bool) (a1 : BitVec 3) (a2 : SDst) (a3 : SSrc) (a4 : BitVec 6) : RoundTrip.Statement (.ldss a0 a1 a2 a3 a4) := by
  rintro _ ⟨⟩
  exact (show decodeRaw (encLdss 3 2 a0 a1 a2 a3 a4) = decLdss (encLdss 3 2 a0 a1 a2 a3 a4) .ldss
    from rfl).trans (by simp)

theorem RoundTrip.stss (a0 : BitVec 3) (a1 : SSrc) (a2 : SSrc) (a3 : BitVec 6) : RoundTrip.Statement (.stss a0 a1 a2 a3) := by
  rintro _ ⟨⟩
  exact (show decodeRaw (encStss 3 3 a0 a1 a2 a3) = decStss (encStss 3 3 a0 a1 a2 a3) .stss from rfl).trans (by simp)

theorem RoundTrip.ldsg (a0 : Bool) (a1 : ITy) (a2 : VDst) (a3 : SSrc) (a4 : VSrc) : RoundTrip.Statement (.ldsg a0 a1 a2 a3 a4) := by
  rintro _ ⟨⟩
  exact (show decodeRaw (encLdx 3 4 a0 a1 a2 a3 a4) = decLdx (encLdx 3 4 a0 a1 a2 a3 a4) .ldsg
    from rfl).trans (by simp)

theorem RoundTrip.stsx (a0 : ITy) (a1 : VSrc) (a2 : SSrc) (a3 : VSrc) : RoundTrip.Statement (.stsx a0 a1 a2 a3) := by
  rintro _ ⟨⟩
  exact (show decodeRaw (encStx 3 5 a0 a1 a2 a3) = decStx (encStx 3 5 a0 a1 a2 a3) .stsx from rfl).trans (by simp)

theorem RoundTrip.spalloc (a0 : SSrc) (a1 : SSrc) : RoundTrip.Statement (.spalloc a0 a1) := by
  rintro _ ⟨⟩
  exact (show decodeRaw (encRab 3 6 a0 a1) = decRab (encRab 3 6 a0 a1) .spalloc from rfl).trans (by simp)

theorem RoundTrip.spfree (a0 : SSrc) : RoundTrip.Statement (.spfree a0) := by
  rintro _ ⟨⟩
  exact (show decodeRaw (encRa 3 7 a0) = decRa (encRa 3 7 a0) .spfree from rfl).trans (by simp)

theorem RoundTrip.renew (a0 : SSrc) (a1 : SSrc) : RoundTrip.Statement (.renew a0 a1) := by
  rintro _ ⟨⟩
  exact (show decodeRaw (encRab 3 8 a0 a1) = decRab (encRab 3 8 a0 a1) .renew from rfl).trans (by simp)

theorem RoundTrip.splife (a0 : Bool) (a1 : SDst) (a2 : SSrc) : RoundTrip.Statement (.splife a0 a1 a2) := by
  rintro _ ⟨⟩
  exact (show decodeRaw (encR2 3 9 a0 a1 a2) = decR2 (encR2 3 9 a0 a1 a2) .splife from rfl).trans (by simp)

theorem RoundTrip.spfill (a0 : SSrc) (a1 : SSrc) : RoundTrip.Statement (.spfill a0 a1) := by
  rintro _ ⟨⟩
  exact (show decodeRaw (encRab 3 10 a0 a1) = decRab (encRab 3 10 a0 a1) .spfill from rfl).trans (by simp)

theorem RoundTrip.wld (a0 : Fin 8) (a1 : Bool) (a2 : Option BarOp) (a3 : SSrc) : RoundTrip.Statement (.wld a0 a1 a2 a3) := by
  rintro _ ⟨⟩
  exact (show decodeRaw (encMtx 3 16 a0 a1 a2 a3) = decMtx (encMtx 3 16 a0 a1 a2 a3) .wld from rfl).trans (by simp)

theorem RoundTrip.mma (a0 : Fin 8) (a1 : Bool) (a2 : Option BarOp) (a3 : SSrc) : RoundTrip.Statement (.mma a0 a1 a2 a3) := by
  rintro _ ⟨⟩
  exact (show decodeRaw (encMtx 3 17 a0 a1 a2 a3) = decMtx (encMtx 3 17 a0 a1 a2 a3) .mma from rfl).trans (by simp)

theorem RoundTrip.accrd (a0 : Bool) (a1 : VDst) (a2 : SSrc) : RoundTrip.Statement (.accrd a0 a1 a2) := by
  rintro _ ⟨⟩
  exact (show decodeRaw (encAccrd 3 18 a0 a1 a2) = decAccrd (encAccrd 3 18 a0 a1 a2) .accrd from rfl).trans (by simp)

theorem RoundTrip.accst (a0 : Fin 8) (a1 : Bool) (a2 : Option BarOp) (a3 : SSrc) : RoundTrip.Statement (.accst a0 a1 a2 a3) := by
  rintro _ ⟨⟩
  exact (show decodeRaw (encMtx 3 19 a0 a1 a2 a3) = decMtx (encMtx 3 19 a0 a1 a2 a3) .accst from rfl).trans (by simp)

theorem RoundTrip.accld (a0 : Fin 8) (a1 : Bool) (a2 : Option BarOp) (a3 : SSrc) : RoundTrip.Statement (.accld a0 a1 a2 a3) := by
  rintro _ ⟨⟩
  exact (show decodeRaw (encMtx 3 20 a0 a1 a2 a3) = decMtx (encMtx 3 20 a0 a1 a2 a3) .accld from rfl).trans (by simp)

theorem RoundTrip.accclr (a0 : SSrc) : RoundTrip.Statement (.accclr a0) := by
  rintro _ ⟨⟩
  exact (show decodeRaw (encRa 3 21 a0) = decRa (encRa 3 21 a0) .accclr from rfl).trans (by simp)

theorem RoundTrip.mgrp (a0 : SSrc) : RoundTrip.Statement (.mgrp a0) := by
  rintro _ ⟨⟩
  exact (show decodeRaw (encRa 3 22 a0) = decRa (encRa 3 22 a0) .mgrp from rfl).trans (by simp)

theorem RoundTrip.mwait (a0 : SDst) (a1 : SSrc) : RoundTrip.Statement (.mwait a0 a1) := by
  rintro _ ⟨⟩
  exact (show decodeRaw (encMwait 3 23 a0 a1) = decMwait (encMwait 3 23 a0 a1) .mwait from rfl).trans (by simp)

theorem RoundTrip.ld (a0 : Bool) (a1 : BitVec 3) (a2 : SDst) (a3 : SSrc) (a4 : BitVec 4) : RoundTrip.Statement (.ld a0 a1 a2 a3 a4) := by
  rintro _ ⟨⟩
  exact (show decodeRaw (encLd 3 32 a0 a1 a2 a3 a4) = decLd (encLd 3 32 a0 a1 a2 a3 a4) .ld
    by simp [decodeRaw, decodeM, encLd]).trans (by simp)

theorem RoundTrip.ldAcq (a0 : Bool) (a1 : BitVec 3) (a2 : SDst) (a3 : SSrc) (a4 : Scope) : RoundTrip.Statement (.ldAcq a0 a1 a2 a3 a4) := by
  rintro _ ⟨⟩
  exact (show decodeRaw (encLdA 3 32 a0 a1 a2 a3 a4) = decLdA (encLdA 3 32 a0 a1 a2 a3 a4) .ldAcq
    by simp [decodeRaw, decodeM, encLdA]).trans (by simp)

theorem RoundTrip.st (a0 : BitVec 3) (a1 : SSrc) (a2 : SSrc) (a3 : BitVec 4) : RoundTrip.Statement (.st a0 a1 a2 a3) := by
  rintro _ ⟨⟩
  exact (show decodeRaw (encSt 3 33 a0 a1 a2 a3) = decSt (encSt 3 33 a0 a1 a2 a3) .st
    by simp [decodeRaw, decodeM, encSt]).trans (by simp)

theorem RoundTrip.stRel (a0 : BitVec 3) (a1 : SSrc) (a2 : SSrc) (a3 : Scope) : RoundTrip.Statement (.stRel a0 a1 a2 a3) := by
  rintro _ ⟨⟩
  exact (show decodeRaw (encStR 3 33 a0 a1 a2 a3) = decStR (encStR 3 33 a0 a1 a2 a3) .stRel
    by simp [decodeRaw, decodeM, encStR]).trans (by simp)

theorem RoundTrip.vld (a0 : Bool) (a1 : ITy) (a2 : VDst) (a3 : SSrc) (a4 : BitVec 4) : RoundTrip.Statement (.vld a0 a1 a2 a3 a4) := by
  rintro _ ⟨⟩
  exact (show decodeRaw (encVld 3 34 a0 a1 a2 a3 a4) = decVld (encVld 3 34 a0 a1 a2 a3 a4) .vld
    by simp [decodeRaw, decodeM, encVld]).trans (by simp)

theorem RoundTrip.vldAcq (a0 : Bool) (a1 : ITy) (a2 : VDst) (a3 : SSrc) (a4 : Scope) : RoundTrip.Statement (.vldAcq a0 a1 a2 a3 a4) := by
  rintro _ ⟨⟩
  exact (show decodeRaw (encVldA 3 34 a0 a1 a2 a3 a4) = decVldA (encVldA 3 34 a0 a1 a2 a3 a4) .vldAcq
    by simp [decodeRaw, decodeM, encVldA]).trans (by simp)

theorem RoundTrip.vst (a0 : ITy) (a1 : VSrc) (a2 : SSrc) (a3 : BitVec 4) : RoundTrip.Statement (.vst a0 a1 a2 a3) := by
  rintro _ ⟨⟩
  exact (show decodeRaw (encVst 3 35 a0 a1 a2 a3) = decVst (encVst 3 35 a0 a1 a2 a3) .vst
    by simp [decodeRaw, decodeM, encVst]).trans (by simp)

theorem RoundTrip.vstRel (a0 : ITy) (a1 : VSrc) (a2 : SSrc) (a3 : Scope) : RoundTrip.Statement (.vstRel a0 a1 a2 a3) := by
  rintro _ ⟨⟩
  exact (show decodeRaw (encVstR 3 35 a0 a1 a2 a3) = decVstR (encVstR 3 35 a0 a1 a2 a3) .vstRel
    by simp [decodeRaw, decodeM, encVstR]).trans (by simp)

theorem RoundTrip.vldg (a0 : Bool) (a1 : ITy) (a2 : VDst) (a3 : SSrc) (a4 : VSrc) : RoundTrip.Statement (.vldg a0 a1 a2 a3 a4) := by
  rintro _ ⟨⟩
  exact (show decodeRaw (encLdx 3 36 a0 a1 a2 a3 a4) = decLdx (encLdx 3 36 a0 a1 a2 a3 a4) .vldg
    from rfl).trans (by simp)

theorem RoundTrip.vstx (a0 : ITy) (a1 : VSrc) (a2 : SSrc) (a3 : VSrc) : RoundTrip.Statement (.vstx a0 a1 a2 a3) := by
  rintro _ ⟨⟩
  exact (show decodeRaw (encStx 3 37 a0 a1 a2 a3) = decStx (encStx 3 37 a0 a1 a2 a3) .vstx from rfl).trans (by simp)

theorem RoundTrip.ldf (a0 : Bool) (a1 : SDst) (a2 : SSrc) : RoundTrip.Statement (.ldf a0 a1 a2) := by
  rintro _ ⟨⟩
  exact (show decodeRaw (encLdf 3 38 a0 a1 a2) = decLdf (encLdf 3 38 a0 a1 a2) .ldf
    by simp [decodeRaw, decodeM, encLdf]).trans (by simp)

theorem RoundTrip.ldfAcq (a0 : Bool) (a1 : SDst) (a2 : SSrc) (a3 : Scope) : RoundTrip.Statement (.ldfAcq a0 a1 a2 a3) := by
  rintro _ ⟨⟩
  exact (show decodeRaw (encLdfA 3 38 a0 a1 a2 a3) = decLdfA (encLdfA 3 38 a0 a1 a2 a3) .ldfAcq
    by simp [decodeRaw, decodeM, encLdfA]).trans (by simp)

theorem RoundTrip.stf (a0 : SSrc) (a1 : SSrc) : RoundTrip.Statement (.stf a0 a1) := by
  rintro _ ⟨⟩
  exact (show decodeRaw (encStf 3 39 a0 a1) = decStf (encStf 3 39 a0 a1) .stf
    by simp [decodeRaw, decodeM, encStf]).trans (by simp)

theorem RoundTrip.stfRel (a0 : SSrc) (a1 : SSrc) (a2 : Scope) : RoundTrip.Statement (.stfRel a0 a1 a2) := by
  rintro _ ⟨⟩
  exact (show decodeRaw (encStfR 3 39 a0 a1 a2) = decStfR (encStfR 3 39 a0 a1 a2) .stfRel
    by simp [decodeRaw, decodeM, encStfR]).trans (by simp)

theorem RoundTrip.pref (a0 : Bool) (a1 : SSrc) (a2 : BitVec 4) : RoundTrip.Statement (.pref a0 a1 a2) := by
  rintro _ ⟨⟩
  exact (show decodeRaw (encPref 3 40 a0 a1 a2) = decPref (encPref 3 40 a0 a1 a2) .pref from rfl).trans (by simp)

theorem RoundTrip.fenceAcq (a0 : Scope) : RoundTrip.Statement (.fenceAcq a0) := by
  rintro _ ⟨⟩
  exact (show decodeRaw (encFence 3 41 16 a0) = decFence (encFence 3 41 16 a0) .fenceAcq
    by simp [decodeRaw, decodeM, encFence]).trans (by simp)

theorem RoundTrip.fenceRel (a0 : Scope) : RoundTrip.Statement (.fenceRel a0) := by
  rintro _ ⟨⟩
  exact (show decodeRaw (encFence 3 41 32 a0) = decFence (encFence 3 41 32 a0) .fenceRel
    by simp [decodeRaw, decodeM, encFence]).trans (by simp)

theorem RoundTrip.fenceAr (a0 : Scope) : RoundTrip.Statement (.fenceAr a0) := by
  rintro _ ⟨⟩
  exact (show decodeRaw (encFence 3 41 48 a0) = decFence (encFence 3 41 48 a0) .fenceAr
    by simp [decodeRaw, decodeM, encFence]).trans (by simp)

theorem RoundTrip.fencex (a0 : Scope) (a1 : BitVec 3) (a2 : BitVec 3) : RoundTrip.Statement (.fencex a0 a1 a2) := by
  rintro _ ⟨⟩
  exact (show decodeRaw (encFencex 3 42 a0 a1 a2) = decFencex (encFencex 3 42 a0 a1 a2) .fencex
    from rfl).trans (by simp)

theorem RoundTrip.cas (a0 : Bool) (a1 : Scope) (a2 : SDst) (a3 : SSrc) (a4 : Ord) (a5 : Bool) : RoundTrip.Statement (.cas a0 a1 a2 a3 a4 a5) := by
  rintro _ ⟨⟩
  exact (show decodeRaw (encAtom 3 43 0 a0 a1 a2 a3 a4 a5) = decAtom (encAtom 3 43 0 a0 a1 a2 a3 a4 a5) .cas
    by simp [decodeRaw, decodeM, encAtom]).trans (by simp)

theorem RoundTrip.atomAdd (a0 : Bool) (a1 : Scope) (a2 : SDst) (a3 : SSrc) (a4 : Ord) (a5 : Bool) : RoundTrip.Statement (.atomAdd a0 a1 a2 a3 a4 a5) := by
  rintro _ ⟨⟩
  exact (show decodeRaw (encAtom 3 44 0 a0 a1 a2 a3 a4 a5) = decAtom (encAtom 3 44 0 a0 a1 a2 a3 a4 a5) .atomAdd
    by simp [decodeRaw, decodeM, encAtom]).trans (by simp)

theorem RoundTrip.atomAnd (a0 : Bool) (a1 : Scope) (a2 : SDst) (a3 : SSrc) (a4 : Ord) (a5 : Bool) : RoundTrip.Statement (.atomAnd a0 a1 a2 a3 a4 a5) := by
  rintro _ ⟨⟩
  exact (show decodeRaw (encAtom 3 44 1 a0 a1 a2 a3 a4 a5) = decAtom (encAtom 3 44 1 a0 a1 a2 a3 a4 a5) .atomAnd
    by simp [decodeRaw, decodeM, encAtom]).trans (by simp)

theorem RoundTrip.atomOr (a0 : Bool) (a1 : Scope) (a2 : SDst) (a3 : SSrc) (a4 : Ord) (a5 : Bool) : RoundTrip.Statement (.atomOr a0 a1 a2 a3 a4 a5) := by
  rintro _ ⟨⟩
  exact (show decodeRaw (encAtom 3 44 2 a0 a1 a2 a3 a4 a5) = decAtom (encAtom 3 44 2 a0 a1 a2 a3 a4 a5) .atomOr
    by simp [decodeRaw, decodeM, encAtom]).trans (by simp)

theorem RoundTrip.atomXor (a0 : Bool) (a1 : Scope) (a2 : SDst) (a3 : SSrc) (a4 : Ord) (a5 : Bool) : RoundTrip.Statement (.atomXor a0 a1 a2 a3 a4 a5) := by
  rintro _ ⟨⟩
  exact (show decodeRaw (encAtom 3 44 3 a0 a1 a2 a3 a4 a5) = decAtom (encAtom 3 44 3 a0 a1 a2 a3 a4 a5) .atomXor
    by simp [decodeRaw, decodeM, encAtom]).trans (by simp)

theorem RoundTrip.atomMin (a0 : Bool) (a1 : Scope) (a2 : SDst) (a3 : SSrc) (a4 : Ord) (a5 : Bool) : RoundTrip.Statement (.atomMin a0 a1 a2 a3 a4 a5) := by
  rintro _ ⟨⟩
  exact (show decodeRaw (encAtom 3 44 4 a0 a1 a2 a3 a4 a5) = decAtom (encAtom 3 44 4 a0 a1 a2 a3 a4 a5) .atomMin
    by simp [decodeRaw, decodeM, encAtom]).trans (by simp)

theorem RoundTrip.atomMax (a0 : Bool) (a1 : Scope) (a2 : SDst) (a3 : SSrc) (a4 : Ord) (a5 : Bool) : RoundTrip.Statement (.atomMax a0 a1 a2 a3 a4 a5) := by
  rintro _ ⟨⟩
  exact (show decodeRaw (encAtom 3 44 5 a0 a1 a2 a3 a4 a5) = decAtom (encAtom 3 44 5 a0 a1 a2 a3 a4 a5) .atomMax
    by simp [decodeRaw, decodeM, encAtom]).trans (by simp)

theorem RoundTrip.atomMinu (a0 : Bool) (a1 : Scope) (a2 : SDst) (a3 : SSrc) (a4 : Ord) (a5 : Bool) : RoundTrip.Statement (.atomMinu a0 a1 a2 a3 a4 a5) := by
  rintro _ ⟨⟩
  exact (show decodeRaw (encAtom 3 44 6 a0 a1 a2 a3 a4 a5) = decAtom (encAtom 3 44 6 a0 a1 a2 a3 a4 a5) .atomMinu
    by simp [decodeRaw, decodeM, encAtom]).trans (by simp)

theorem RoundTrip.atomMaxu (a0 : Bool) (a1 : Scope) (a2 : SDst) (a3 : SSrc) (a4 : Ord) (a5 : Bool) : RoundTrip.Statement (.atomMaxu a0 a1 a2 a3 a4 a5) := by
  rintro _ ⟨⟩
  exact (show decodeRaw (encAtom 3 44 7 a0 a1 a2 a3 a4 a5) = decAtom (encAtom 3 44 7 a0 a1 a2 a3 a4 a5) .atomMaxu
    by simp [decodeRaw, decodeM, encAtom]).trans (by simp)

theorem RoundTrip.atomSwap (a0 : Bool) (a1 : Scope) (a2 : SDst) (a3 : SSrc) (a4 : Ord) (a5 : Bool) : RoundTrip.Statement (.atomSwap a0 a1 a2 a3 a4 a5) := by
  rintro _ ⟨⟩
  exact (show decodeRaw (encAtom 3 45 0 a0 a1 a2 a3 a4 a5) = decAtom (encAtom 3 45 0 a0 a1 a2 a3 a4 a5) .atomSwap
    by simp [decodeRaw, decodeM, encAtom]).trans (by simp)

theorem RoundTrip.copyOut (a0 : Fin 8) (a1 : Bool) (a2 : BarOp) (a3 : Bool) (a4 : SDst) : RoundTrip.Statement (.copyOut a0 a1 a2 a3 a4) := by
  rintro _ ⟨⟩
  exact (show decodeRaw (encCopy 3 48 0 a0 a1 a2 a3 a4) = decCopy (encCopy 3 48 0 a0 a1 a2 a3 a4) .copyOut
    by simp [decodeRaw, decodeM, encCopy]).trans (by simp)

theorem RoundTrip.copyIn (a0 : Fin 8) (a1 : Bool) (a2 : BarOp) (a3 : Bool) (a4 : SDst) : RoundTrip.Statement (.copyIn a0 a1 a2 a3 a4) := by
  rintro _ ⟨⟩
  exact (show decodeRaw (encCopy 3 48 1 a0 a1 a2 a3 a4) = decCopy (encCopy 3 48 1 a0 a1 a2 a3 a4) .copyIn
    by simp [decodeRaw, decodeM, encCopy]).trans (by simp)

theorem RoundTrip.copym (a0 : Fin 8) (a1 : Bool) (a2 : BarOp) (a3 : Bool) (a4 : SDst) : RoundTrip.Statement (.copym a0 a1 a2 a3 a4) := by
  rintro _ ⟨⟩
  exact (show decodeRaw (encCopym 3 49 a0 a1 a2 a3 a4) = decCopym (encCopym 3 49 a0 a1 a2 a3 a4) .copym
    from rfl).trans (by simp)

theorem RoundTrip.copys (a0 : Fin 8) (a1 : Bool) (a2 : BarOp) (a3 : SDst) : RoundTrip.Statement (.copys a0 a1 a2 a3) := by
  rintro _ ⟨⟩
  exact (show decodeRaw (encCopys 3 50 0 a0 a1 a2 a3) = decCopys (encCopys 3 50 0 a0 a1 a2 a3) .copys
    by simp [decodeRaw, decodeM, encCopys]).trans (by simp)

theorem RoundTrip.copyx (a0 : Fin 8) (a1 : Bool) (a2 : BarOp) (a3 : SDst) : RoundTrip.Statement (.copyx a0 a1 a2 a3) := by
  rintro _ ⟨⟩
  exact (show decodeRaw (encCopys 3 51 0 a0 a1 a2 a3) = decCopys (encCopys 3 51 0 a0 a1 a2 a3) .copyx
    by simp [decodeRaw, decodeM, encCopys]).trans (by simp)

theorem RoundTrip.gath (a0 : Fin 8) (a1 : Bool) (a2 : BarOp) (a3 : Bool) (a4 : SDst) : RoundTrip.Statement (.gath a0 a1 a2 a3 a4) := by
  rintro _ ⟨⟩
  exact (show decodeRaw (encCopy 3 52 0 a0 a1 a2 a3 a4) = decCopy (encCopy 3 52 0 a0 a1 a2 a3 a4) .gath
    by simp [decodeRaw, decodeM, encCopy]).trans (by simp)

theorem RoundTrip.redcAdd (a0 : Fin 8) (a1 : Bool) (a2 : BarOp) (a3 : SDst) : RoundTrip.Statement (.redcAdd a0 a1 a2 a3) := by
  rintro _ ⟨⟩
  exact (show decodeRaw (encCopys 3 53 0 a0 a1 a2 a3) = decCopys (encCopys 3 53 0 a0 a1 a2 a3) .redcAdd
    by simp [decodeRaw, decodeM, encCopys]).trans (by simp)

theorem RoundTrip.redcMax (a0 : Fin 8) (a1 : Bool) (a2 : BarOp) (a3 : SDst) : RoundTrip.Statement (.redcMax a0 a1 a2 a3) := by
  rintro _ ⟨⟩
  exact (show decodeRaw (encCopys 3 53 1 a0 a1 a2 a3) = decCopys (encCopys 3 53 1 a0 a1 a2 a3) .redcMax
    by simp [decodeRaw, decodeM, encCopys]).trans (by simp)

theorem RoundTrip.redcMin (a0 : Fin 8) (a1 : Bool) (a2 : BarOp) (a3 : SDst) : RoundTrip.Statement (.redcMin a0 a1 a2 a3) := by
  rintro _ ⟨⟩
  exact (show decodeRaw (encCopys 3 53 2 a0 a1 a2 a3) = decCopys (encCopys 3 53 2 a0 a1 a2 a3) .redcMin
    by simp [decodeRaw, decodeM, encCopys]).trans (by simp)

theorem RoundTrip.cpqSummary (a0 : Bool) (a1 : SDst) : RoundTrip.Statement (.cpqSummary a0 a1) := by
  rintro _ ⟨⟩
  exact (show decodeRaw (encR1d 3 54 a0 a1) = decR1d (encR1d 3 54 a0 a1) .cpqSummary
    by simp [decodeRaw, decodeM, encR1d]).trans (by simp)

theorem RoundTrip.cpqEntry (a0 : Bool) (a1 : SDst) (a2 : SSrc) : RoundTrip.Statement (.cpqEntry a0 a1 a2) := by
  rintro _ ⟨⟩
  exact (show decodeRaw (encR2K 3 54 a0 a1 a2) = decR2K (encR2K 3 54 a0 a1 a2) .cpqEntry
    by simp [decodeRaw, decodeM, encR2K]).trans (by simp)

theorem RoundTrip.cpcan (a0 : SSrc) (a1 : SSrc) : RoundTrip.Statement (.cpcan a0 a1) := by
  rintro _ ⟨⟩
  exact (show decodeRaw (encRab 3 55 a0 a1) = decRab (encRab 3 55 a0 a1) .cpcan from rfl).trans (by simp)

theorem RoundTrip.spawn (a0 : Option BarOp) (a1 : SSrc) : RoundTrip.Statement (.spawn a0 a1) := by
  rintro _ ⟨⟩
  exact (show decodeRaw (encSpawn 3 56 a0 a1) = decSpawn (encSpawn 3 56 a0 a1) .spawn from rfl).trans (by simp)

theorem RoundTrip.pipw (a0 : Fin 8) (a1 : PipeSrc) : RoundTrip.Statement (.pipw a0 a1) := by
  rintro _ ⟨⟩
  exact (show decodeRaw (encPipw 3 57 a0 a1) = decPipw (encPipw 3 57 a0 a1) .pipw from rfl).trans (by simp)

theorem RoundTrip.pipr (a0 : Bool) (a1 : PipeDst) (a2 : Fin 8) : RoundTrip.Statement (.pipr a0 a1 a2) := by
  rintro _ ⟨⟩
  exact (show decodeRaw (encPipr 3 58 a0 a1 a2) = decPipr (encPipr 3 58 a0 a1 a2) .pipr from rfl).trans (by simp)

theorem RoundTrip.pipq (a0 : Bool) (a1 : SDst) (a2 : Fin 8) : RoundTrip.Statement (.pipq a0 a1 a2) := by
  rintro _ ⟨⟩
  exact (show decodeRaw (encPipq 3 59 a0 a1 a2) = decPipq (encPipq 3 59 a0 a1 a2) .pipq from rfl).trans (by simp)

theorem RoundTrip.binit (a0 : BarOp) (a1 : SSrc) : RoundTrip.Statement (.binit a0 a1) := by
  rintro _ ⟨⟩
  exact (show decodeRaw (encBarx 3 64 0 a0 a1) = decBarx (encBarx 3 64 0 a0 a1) .binit
    by simp [decodeRaw, decodeM, encBarx]).trans (by simp)

theorem RoundTrip.barv (a0 : BarOp) : RoundTrip.Statement (.barv a0) := by
  rintro _ ⟨⟩
  exact (show decodeRaw (encBar 3 65 0 a0) = decBar (encBar 3 65 0 a0) .barv
    by simp [decodeRaw, decodeM, encBar]).trans (by simp)

theorem RoundTrip.barvExp (a0 : BarOp) (a1 : SSrc) : RoundTrip.Statement (.barvExp a0 a1) := by
  rintro _ ⟨⟩
  exact (show decodeRaw (encBarx 3 65 1 a0 a1) = decBarx (encBarx 3 65 1 a0 a1) .barvExp
    by simp [decodeRaw, decodeM, encBarx]).trans (by simp)

theorem RoundTrip.bexp (a0 : BarOp) (a1 : SSrc) : RoundTrip.Statement (.bexp a0 a1) := by
  rintro _ ⟨⟩
  exact (show decodeRaw (encBarx 3 66 0 a0 a1) = decBarx (encBarx 3 66 0 a0 a1) .bexp
    by simp [decodeRaw, decodeM, encBarx]).trans (by simp)

theorem RoundTrip.bwait (a0 : BarOp) (a1 : SDst) : RoundTrip.Statement (.bwait a0 a1) := by
  rintro _ ⟨⟩
  exact (show decodeRaw (encBwait 3 67 0 a0 a1) = decBwait (encBwait 3 67 0 a0 a1) .bwait
    by simp [decodeRaw, decodeM, encBwait]).trans (by simp)

theorem RoundTrip.btry (a0 : Bool) (a1 : BarOp) (a2 : SDst) : RoundTrip.Statement (.btry a0 a1 a2) := by
  rintro _ ⟨⟩
  exact (show decodeRaw (encBtry 3 68 0 a0 a1 a2) = decBtry (encBtry 3 68 0 a0 a1 a2) .btry
    by simp [decodeRaw, decodeM, encBtry]).trans (by simp)

theorem RoundTrip.ckpt : RoundTrip.Statement .ckpt := by
  rintro _ ⟨⟩
  exact (show decodeRaw (encZ 0 63) = decZ (encZ 0 63) .ckpt from rfl).trans (by simp)

theorem RoundTrip.stepend : RoundTrip.Statement .stepend := by
  rintro _ ⟨⟩
  exact (show decodeRaw (encZ 0 65) = decZ (encZ 0 65) .stepend from rfl).trans (by simp)

theorem RoundTrip.nop : RoundTrip.Statement .nop := by
  rintro _ ⟨⟩
  exact (show decodeRaw (encZ 0 66) = decZ (encZ 0 66) .nop from rfl).trans (by simp)

theorem RoundTrip.eret : RoundTrip.Statement .eret := by
  rintro _ ⟨⟩
  exact (show decodeRaw (encZ 0 85) = decZ (encZ 0 85) .eret from rfl).trans (by simp)

theorem RoundTrip.iflush : RoundTrip.Statement .iflush := by
  rintro _ ⟨⟩
  exact (show decodeRaw (encZ 0 86) = decZ (encZ 0 86) .iflush from rfl).trans (by simp)

theorem RoundTrip.yield : RoundTrip.Statement .yield := by
  rintro _ ⟨⟩
  exact (show decodeRaw (encZ 0 104) = decZ (encZ 0 104) .yield from rfl).trans (by simp)

theorem RoundTrip.statfl : RoundTrip.Statement .statfl := by
  rintro _ ⟨⟩
  exact (show decodeRaw (encZ 3 60) = decZ (encZ 3 60) .statfl from rfl).trans (by simp)

theorem RoundTrip.resultLanding (a0 : Nat) : RoundTrip.Statement (.resultLanding a0) := fun _ h => nomatch h

theorem RoundTrip.variableResultLanding (a0 : Nat) (a1 : Nat) : RoundTrip.Statement (.variableResultLanding a0 a1) := fun _ h => nomatch h

theorem RoundTrip.commitBufferDrain (a0 : Nat) : RoundTrip.Statement (.commitBufferDrain a0) := fun _ h => nomatch h

theorem RoundTrip.writeAcknowledge (a0 : Nat) (a1 : Nat) : RoundTrip.Statement (.writeAcknowledge a0 a1) := fun _ h => nomatch h

theorem RoundTrip.wrfailReport (a0 : Nat) (a1 : Nat) (a2 : Bool) : RoundTrip.Statement (.wrfailReport a0 a1 a2) := fun _ h => nomatch h

theorem RoundTrip.stepRetire (a0 : Nat) : RoundTrip.Statement (.stepRetire a0) := fun _ h => nomatch h

theorem RoundTrip.syscallEntry (a0 : Nat) : RoundTrip.Statement (.syscallEntry a0) := fun _ h => nomatch h

theorem RoundTrip.eretReturn (a0 : Nat) : RoundTrip.Statement (.eretReturn a0) := fun _ h => nomatch h

theorem RoundTrip.sleepWake (a0 : Nat) : RoundTrip.Statement (.sleepWake a0) := fun _ h => nomatch h

theorem RoundTrip.asyncTrapDelivery (a0 : Nat) : RoundTrip.Statement (.asyncTrapDelivery a0) := fun _ h => nomatch h

theorem RoundTrip.preemption (a0 : Nat) : RoundTrip.Statement (.preemption a0) := fun _ h => nomatch h

theorem RoundTrip.trapHandlerAbandon (a0 : Nat) : RoundTrip.Statement (.trapHandlerAbandon a0) := fun _ h => nomatch h

theorem RoundTrip.stepDispatch (a0 : Nat) : RoundTrip.Statement (.stepDispatch a0) := fun _ h => nomatch h

theorem RoundTrip.proofingAreaBuild (a0 : Nat) (a1 : Nat) (a2 : Nat) : RoundTrip.Statement (.proofingAreaBuild a0 a1 a2) := fun _ h => nomatch h

theorem RoundTrip.proofingLoafRenew (a0 : Nat) (a1 : Nat) : RoundTrip.Statement (.proofingLoafRenew a0 a1) := fun _ h => nomatch h

theorem RoundTrip.stepKill (a0 : Nat) (a1 : Nat) : RoundTrip.Statement (.stepKill a0 a1) := fun _ h => nomatch h

theorem RoundTrip.contextDestroy (a0 : Nat) : RoundTrip.Statement (.contextDestroy a0) := fun _ h => nomatch h

theorem RoundTrip.walkerGenerate (a0 : Nat) : RoundTrip.Statement (.walkerGenerate a0) := fun _ h => nomatch h

theorem RoundTrip.completionWordWrite (a0 : Nat) : RoundTrip.Statement (.completionWordWrite a0) := fun _ h => nomatch h

theorem RoundTrip.notifyWrite (a0 : Nat) (a1 : Nat) (a2 : BitVec 32) : RoundTrip.Statement (.notifyWrite a0 a1 a2) := fun _ h => nomatch h

theorem RoundTrip.packetProcess (a0 : Nat) (a1 : Nat) : RoundTrip.Statement (.packetProcess a0 a1) := fun _ h => nomatch h

theorem RoundTrip.packetAdmit (a0 : Nat) (a1 : Nat) : RoundTrip.Statement (.packetAdmit a0 a1) := fun _ h => nomatch h

theorem RoundTrip.markerComplete (a0 : Nat) (a1 : Nat) : RoundTrip.Statement (.markerComplete a0 a1) := fun _ h => nomatch h

theorem RoundTrip.fabricMessageReceive (a0 : Nat) (a1 : Nat) : RoundTrip.Statement (.fabricMessageReceive a0 a1) := fun _ h => nomatch h

theorem RoundTrip.fabricAcknowledge (a0 : Nat) (a1 : Nat) : RoundTrip.Statement (.fabricAcknowledge a0 a1) := fun _ h => nomatch h

theorem RoundTrip.replayResend (a0 : Nat) : RoundTrip.Statement (.replayResend a0) := fun _ h => nomatch h

theorem RoundTrip.forwardingEntryExpire (a0 : Nat) (a1 : Nat) : RoundTrip.Statement (.forwardingEntryExpire a0 a1) := fun _ h => nomatch h

theorem RoundTrip.ldfRequestResolve (a0 : Nat) (a1 : Nat) : RoundTrip.Statement (.ldfRequestResolve a0 a1) := fun _ h => nomatch h

theorem RoundTrip.cacheSectorFill (a0 : Nat) (a1 : Bool) : RoundTrip.Statement (.cacheSectorFill a0 a1) := fun _ h => nomatch h

theorem RoundTrip.tlbMissWalk (a0 : Nat) (a1 : Word) : RoundTrip.Statement (.tlbMissWalk a0 a1) := fun _ h => nomatch h

theorem RoundTrip.atsTranslationCompletion (a0 : Nat) (a1 : Word) (a2 : Nat) (a3 : Nat) (a4 : BitVec 3) (a5 : Bool) : RoundTrip.Statement (.atsTranslationCompletion a0 a1 a2 a3 a4 a5) := fun _ h => nomatch h

theorem RoundTrip.hostAtsInvalidate (a0 : Nat) (a1 : Word) (a2 : Nat) : RoundTrip.Statement (.hostAtsInvalidate a0 a1 a2) := fun _ h => nomatch h

theorem RoundTrip.xltInvalidateRange (a0 : Nat) (a1 : Nat) (a2 : Nat) : RoundTrip.Statement (.xltInvalidateRange a0 a1 a2) := fun _ h => nomatch h

theorem RoundTrip.xltInvalidateContext (a0 : Nat) (a1 : Nat) : RoundTrip.Statement (.xltInvalidateContext a0 a1) := fun _ h => nomatch h

theorem RoundTrip.xltReloadDescriptor (a0 : Nat) (a1 : Nat) : RoundTrip.Statement (.xltReloadDescriptor a0 a1) := fun _ h => nomatch h

theorem RoundTrip.xltCmdReservedKind (a0 : Nat) : RoundTrip.Statement (.xltCmdReservedKind a0) := fun _ h => nomatch h

theorem RoundTrip.xltCmdComplete (a0 : Nat) : RoundTrip.Statement (.xltCmdComplete a0) := fun _ h => nomatch h

theorem RoundTrip.copyStart (a0 : Nat) : RoundTrip.Statement (.copyStart a0) := fun _ h => nomatch h

theorem RoundTrip.copyElementTransfer (a0 : Nat) (a1 : Nat) : RoundTrip.Statement (.copyElementTransfer a0 a1) := fun _ h => nomatch h

theorem RoundTrip.copyComplete (a0 : Nat) (a1 : Nat) : RoundTrip.Statement (.copyComplete a0 a1) := fun _ h => nomatch h

theorem RoundTrip.matrixCmdStart (a0 : Nat) : RoundTrip.Statement (.matrixCmdStart a0) := fun _ h => nomatch h

theorem RoundTrip.matrixCmdComplete (a0 : Nat) : RoundTrip.Statement (.matrixCmdComplete a0) := fun _ h => nomatch h

theorem RoundTrip.accrdBusyLand (a0 : Nat) : RoundTrip.Statement (.accrdBusyLand a0) := fun _ h => nomatch h

theorem RoundTrip.statDrain (a0 : Nat) : RoundTrip.Statement (.statDrain a0) := fun _ h => nomatch h

theorem RoundTrip.linkReductionUpdate (a0 : Nat) (a1 : Nat) : RoundTrip.Statement (.linkReductionUpdate a0 a1) := fun _ h => nomatch h

theorem RoundTrip.barrierUpdateApply (a0 : Nat) (a1 : Nat) (a2 : Nat) (a3 : BarUpdate) : RoundTrip.Statement (.barrierUpdateApply a0 a1 a2 a3) := fun _ h => nomatch h

theorem RoundTrip.loafExpire (a0 : Nat) (a1 : Nat) : RoundTrip.Statement (.loafExpire a0 a1) := fun _ h => nomatch h

theorem RoundTrip.bankGuardGrant (a0 : Nat) : RoundTrip.Statement (.bankGuardGrant a0) := fun _ h => nomatch h

theorem RoundTrip.logicalCoreAbsent (a0 : Nat) (a1 : Nat) : RoundTrip.Statement (.logicalCoreAbsent a0 a1) := fun _ h => nomatch h

theorem RoundTrip.mergeOnResume (a0 : Nat) (a1 : Nat) (a2 : Nat) : RoundTrip.Statement (.mergeOnResume a0 a1 a2) := fun _ h => nomatch h

theorem RoundTrip.contextSuspend (a0 : Nat) : RoundTrip.Statement (.contextSuspend a0) := fun _ h => nomatch h

theorem RoundTrip.contextFreezeReflection (a0 : Nat) : RoundTrip.Statement (.contextFreezeReflection a0) := fun _ h => nomatch h

theorem RoundTrip.contextResume (a0 : Nat) : RoundTrip.Statement (.contextResume a0) := fun _ h => nomatch h

theorem RoundTrip.migrationRequest (a0 : Nat) (a1 : Nat) (a2 : Option Nat) : RoundTrip.Statement (.migrationRequest a0 a1 a2) := fun _ h => nomatch h

theorem RoundTrip.rotation (a0 : Nat) : RoundTrip.Statement (.rotation a0) := fun _ h => nomatch h

theorem RoundTrip.budgetIntervalBoundary (a0 : List Nat) (a1 : List EnergyShare) : RoundTrip.Statement (.budgetIntervalBoundary a0 a1) := fun _ h => nomatch h

theorem RoundTrip.boostLeaseExpire (a0 : Nat) : RoundTrip.Statement (.boostLeaseExpire a0) := fun _ h => nomatch h

theorem RoundTrip.sensorSample (a0 : List Reading) (a1 : List Reading) (a2 : Option (BitVec 16)) : RoundTrip.Statement (.sensorSample a0 a1 a2) := fun _ h => nomatch h

theorem RoundTrip.clusterGate (a0 : Nat) : RoundTrip.Statement (.clusterGate a0) := fun _ h => nomatch h

theorem RoundTrip.vitLoad (a0 : Nat) : RoundTrip.Statement (.vitLoad a0) := fun _ h => nomatch h

theorem RoundTrip.islMatrixWrite (a0 : Word) : RoundTrip.Statement (.islMatrixWrite a0) := fun _ h => nomatch h

theorem RoundTrip.govLimitWrite (a0 : Word) : RoundTrip.Statement (.govLimitWrite a0) := fun _ h => nomatch h

theorem RoundTrip.fabBackoffWrite (a0 : Word) : RoundTrip.Statement (.fabBackoffWrite a0) := fun _ h => nomatch h

theorem RoundTrip.bridgeTrainGo (a0 : BitVec 2) : RoundTrip.Statement (.bridgeTrainGo a0) := fun _ h => nomatch h

theorem RoundTrip.mailboxRequestPost (a0 : Nat) (a1 : BitVec 4) : RoundTrip.Statement (.mailboxRequestPost a0 a1) := fun _ h => nomatch h

theorem RoundTrip.mailboxReplyConsume (a0 : Nat) (a1 : BitVec 4) : RoundTrip.Statement (.mailboxReplyConsume a0 a1) := fun _ h => nomatch h

theorem RoundTrip.attestationReport (a0 : Nat) (a1 : BitVec 256) : RoundTrip.Statement (.attestationReport a0 a1) := fun _ h => nomatch h

theorem RoundTrip.deviceRegisterWrite (a0 : Nat) (a1 : Bool) (a2 : Word) : RoundTrip.Statement (.deviceRegisterWrite a0 a1 a2) := fun _ h => nomatch h

theorem RoundTrip.bridgeMarginReport (a0 : List Nat) : RoundTrip.Statement (.bridgeMarginReport a0) := fun _ h => nomatch h

theorem RoundTrip.bridgeRetrainDone : RoundTrip.Statement .bridgeRetrainDone := fun _ h => nomatch h

theorem RoundTrip.flitRetry (a0 : Bool) (a1 : Bool) : RoundTrip.Statement (.flitRetry a0 a1) := fun _ h => nomatch h

theorem RoundTrip.patrolScrub (a0 : Nat) : RoundTrip.Statement (.patrolScrub a0) := fun _ h => nomatch h

theorem RoundTrip.coolantControlUpdate (a0 : Nat) (a1 : List Nat) : RoundTrip.Statement (.coolantControlUpdate a0 a1) := fun _ h => nomatch h

theorem RoundTrip.coolingFault (a0 : CoolFault) (a1 : Bool) : RoundTrip.Statement (.coolingFault a0 a1) := fun _ h => nomatch h

theorem RoundTrip.mgmtSmbusWrite (a0 : Word) : RoundTrip.Statement (.mgmtSmbusWrite a0) := fun _ h => nomatch h

theorem RoundTrip.gracefulPowerDown : RoundTrip.Statement .gracefulPowerDown := fun _ h => nomatch h

theorem RoundTrip.bringUp (a0 : Bool) (a1 : Option Board) : RoundTrip.Statement (.bringUp a0 a1) := fun _ h => nomatch h

theorem RoundTrip.hostWrite (a0 : Nat) (a1 : List Byte) : RoundTrip.Statement (.hostWrite a0 a1) := fun _ h => nomatch h

theorem RoundTrip.hostRead (a0 : Nat) (a1 : Nat) : RoundTrip.Statement (.hostRead a0 a1) := fun _ h => nomatch h

theorem RoundTrip.hostAtomicop (a0 : Nat) (a1 : Bool) (a2 : HostAtomic) : RoundTrip.Statement (.hostAtomicop a0 a1 a2) := fun _ h => nomatch h

theorem RoundTrip.fgbLoad (a0 : Nat) (a1 : List Byte) (a2 : List Placing) (a3 : List Nat) : RoundTrip.Statement (.fgbLoad a0 a1 a2 a3) := fun _ h => nomatch h

theorem RoundTrip.contextCreate (a0 : Nat) (a1 : Nat) : RoundTrip.Statement (.contextCreate a0 a1) := fun _ h => nomatch h

theorem RoundTrip.priPageResponse (a0 : Nat) : RoundTrip.Statement (.priPageResponse a0) := fun _ h => nomatch h

theorem RoundTrip.graphInstanceUnload (a0 : Nat) (a1 : Nat) : RoundTrip.Statement (.graphInstanceUnload a0 a1) := fun _ h => nomatch h

theorem RoundTrip.pairQuarantineClear (a0 : Nat) : RoundTrip.Statement (.pairQuarantineClear a0) := fun _ h => nomatch h

end Sys2Proof.Laws
end

