-- ==== Sys2Proof/Laws/State.lean ====
section
/-! SUPPORT. What each update of the state leaves: one lemma for each field and update. -/

namespace Sys2Proof.Machine

/-! ## upd -/

@[simp] theorem State.upd_core (s : State) (f : Core → Core) : (s.upd f).core = f s.core := rfl
@[simp] theorem State.upd_others (s : State) (f : Core → Core) : (s.upd f).others = s.others := rfl
@[simp] theorem State.upd_tick (s : State) (f : Core → Core) : (s.upd f).tick = s.tick := rfl
@[simp] theorem State.upd_mem (s : State) (f : Core → Core) : (s.upd f).mem = s.mem := rfl
@[simp] theorem State.upd_ctlb (s : State) (f : Core → Core) : (s.upd f).ctlb = s.ctlb := rfl
@[simp] theorem State.upd_atc (s : State) (f : Core → Core) : (s.upd f).atc = s.atc := rfl
@[simp] theorem State.upd_hostMap (s : State) (f : Core → Core) : (s.upd f).hostMap = s.hostMap := rfl
@[simp] theorem State.upd_pri (s : State) (f : Core → Core) : (s.upd f).pri = s.pri := rfl
@[simp] theorem State.upd_vit (s : State) (f : Core → Core) : (s.upd f).vit = s.vit := rfl
@[simp] theorem State.upd_vitNext (s : State) (f : Core → Core) : (s.upd f).vitNext = s.vitNext := rfl
@[simp] theorem State.upd_xlt (s : State) (f : Core → Core) : (s.upd f).xlt = s.xlt := rfl
@[simp] theorem State.upd_ten (s : State) (f : Core → Core) : (s.upd f).ten = s.ten := rfl
@[simp] theorem State.upd_gov (s : State) (f : Core → Core) : (s.upd f).gov = s.gov := rfl
@[simp] theorem State.upd_govNext (s : State) (f : Core → Core) : (s.upd f).govNext = s.govNext := rfl
@[simp] theorem State.upd_accts (s : State) (f : Core → Core) : (s.upd f).accts = s.accts := rfl
@[simp] theorem State.upd_islands (s : State) (f : Core → Core) : (s.upd f).islands = s.islands := rfl
@[simp] theorem State.upd_clusters (s : State) (f : Core → Core) : (s.upd f).clusters = s.clusters := rfl
@[simp] theorem State.upd_sliceSensor (s : State) (f : Core → Core) : (s.upd f).sliceSensor = s.sliceSensor := rfl
@[simp] theorem State.upd_coolant (s : State) (f : Core → Core) : (s.upd f).coolant = s.coolant := rfl
@[simp] theorem State.upd_limH (s : State) (f : Core → Core) : (s.upd f).limH = s.limH := rfl
@[simp] theorem State.upd_limS (s : State) (f : Core → Core) : (s.upd f).limS = s.limS := rfl
@[simp] theorem State.upd_ctxs (s : State) (f : Core → Core) : (s.upd f).ctxs = s.ctxs := rfl
@[simp] theorem State.upd_naming (s : State) (f : Core → Core) : (s.upd f).naming = s.naming := rfl
@[simp] theorem State.upd_lines (s : State) (f : Core → Core) : (s.upd f).lines = s.lines := rfl
@[simp] theorem State.upd_kept (s : State) (f : Core → Core) : (s.upd f).kept = s.kept := rfl
@[simp] theorem State.upd_tasks (s : State) (f : Core → Core) : (s.upd f).tasks = s.tasks := rfl
@[simp] theorem State.upd_steps (s : State) (f : Core → Core) : (s.upd f).steps = s.steps := rfl
@[simp] theorem State.upd_pqueues (s : State) (f : Core → Core) : (s.upd f).pqueues = s.pqueues := rfl
@[simp] theorem State.upd_graphs (s : State) (f : Core → Core) : (s.upd f).graphs = s.graphs := rfl
@[simp] theorem State.upd_nextTask (s : State) (f : Core → Core) : (s.upd f).nextTask = s.nextTask := rfl
@[simp] theorem State.upd_msi (s : State) (f : Core → Core) : (s.upd f).msi = s.msi := rfl
@[simp] theorem State.upd_mbox (s : State) (f : Core → Core) : (s.upd f).mbox = s.mbox := rfl
@[simp] theorem State.upd_bridge (s : State) (f : Core → Core) : (s.upd f).bridge = s.bridge := rfl
@[simp] theorem State.upd_msix (s : State) (f : Core → Core) : (s.upd f).msix = s.msix := rfl
@[simp] theorem State.upd_bring (s : State) (f : Core → Core) : (s.upd f).bring = s.bring := rfl
@[simp] theorem State.upd_bringFailed (s : State) (f : Core → Core) : (s.upd f).bringFailed = s.bringFailed := rfl
@[simp] theorem State.upd_rollback (s : State) (f : Core → Core) : (s.upd f).rollback = s.rollback := rfl
@[simp] theorem State.upd_board (s : State) (f : Core → Core) : (s.upd f).board = s.board := rfl
@[simp] theorem State.upd_power (s : State) (f : Core → Core) : (s.upd f).power = s.power := rfl
@[simp] theorem State.upd_interval (s : State) (f : Core → Core) : (s.upd f).interval = s.interval := rfl
@[simp] theorem State.upd_hostData (s : State) (f : Core → Core) : (s.upd f).hostData = s.hostData := rfl
@[simp] theorem State.upd_windows (s : State) (f : Core → Core) : (s.upd f).windows = s.windows := rfl
@[simp] theorem State.upd_flash (s : State) (f : Core → Core) : (s.upd f).flash = s.flash := rfl
@[simp] theorem State.upd_fuses (s : State) (f : Core → Core) : (s.upd f).fuses = s.fuses := rfl
@[simp] theorem State.upd_slot (s : State) (f : Core → Core) : (s.upd f).slot = s.slot := rfl
@[simp] theorem State.upd_mgmt (s : State) (f : Core → Core) : (s.upd f).mgmt = s.mgmt := rfl
@[simp] theorem State.upd_heats (s : State) (f : Core → Core) : (s.upd f).heats = s.heats := rfl
@[simp] theorem State.upd_saves (s : State) (f : Core → Core) : (s.upd f).saves = s.saves := rfl
@[simp] theorem State.upd_created (s : State) (f : Core → Core) : (s.upd f).created = s.created := rfl
@[simp] theorem State.upd_stays (s : State) (f : Core → Core) : (s.upd f).stays = s.stays := rfl
@[simp] theorem State.upd_passDue (s : State) (f : Core → Core) : (s.upd f).passDue = s.passDue := rfl
@[simp] theorem State.upd_schedule (s : State) (f : Core → Core) : (s.upd f).schedule = s.schedule := rfl
@[simp] theorem State.upd_free (s : State) (f : Core → Core) : (s.upd f).free = s.free := rfl

/-! ## updMem -/

@[simp] theorem State.updMem_core (s : State) (f : Memory → Memory) : (s.updMem f).core = s.core := rfl
@[simp] theorem State.updMem_others (s : State) (f : Memory → Memory) : (s.updMem f).others = s.others := rfl
@[simp] theorem State.updMem_tick (s : State) (f : Memory → Memory) : (s.updMem f).tick = s.tick := rfl
@[simp] theorem State.updMem_mem (s : State) (f : Memory → Memory) : (s.updMem f).mem = f s.mem := rfl
@[simp] theorem State.updMem_ctlb (s : State) (f : Memory → Memory) : (s.updMem f).ctlb = s.ctlb := rfl
@[simp] theorem State.updMem_atc (s : State) (f : Memory → Memory) : (s.updMem f).atc = s.atc := rfl
@[simp] theorem State.updMem_hostMap (s : State) (f : Memory → Memory) : (s.updMem f).hostMap = s.hostMap := rfl
@[simp] theorem State.updMem_pri (s : State) (f : Memory → Memory) : (s.updMem f).pri = s.pri := rfl
@[simp] theorem State.updMem_vit (s : State) (f : Memory → Memory) : (s.updMem f).vit = s.vit := rfl
@[simp] theorem State.updMem_vitNext (s : State) (f : Memory → Memory) : (s.updMem f).vitNext = s.vitNext := rfl
@[simp] theorem State.updMem_xlt (s : State) (f : Memory → Memory) : (s.updMem f).xlt = s.xlt := rfl
@[simp] theorem State.updMem_ten (s : State) (f : Memory → Memory) : (s.updMem f).ten = s.ten := rfl
@[simp] theorem State.updMem_gov (s : State) (f : Memory → Memory) : (s.updMem f).gov = s.gov := rfl
@[simp] theorem State.updMem_govNext (s : State) (f : Memory → Memory) : (s.updMem f).govNext = s.govNext := rfl
@[simp] theorem State.updMem_accts (s : State) (f : Memory → Memory) : (s.updMem f).accts = s.accts := rfl
@[simp] theorem State.updMem_islands (s : State) (f : Memory → Memory) : (s.updMem f).islands = s.islands := rfl
@[simp] theorem State.updMem_clusters (s : State) (f : Memory → Memory) : (s.updMem f).clusters = s.clusters := rfl
@[simp] theorem State.updMem_sliceSensor (s : State) (f : Memory → Memory) : (s.updMem f).sliceSensor = s.sliceSensor := rfl
@[simp] theorem State.updMem_coolant (s : State) (f : Memory → Memory) : (s.updMem f).coolant = s.coolant := rfl
@[simp] theorem State.updMem_limH (s : State) (f : Memory → Memory) : (s.updMem f).limH = s.limH := rfl
@[simp] theorem State.updMem_limS (s : State) (f : Memory → Memory) : (s.updMem f).limS = s.limS := rfl
@[simp] theorem State.updMem_ctxs (s : State) (f : Memory → Memory) : (s.updMem f).ctxs = s.ctxs := rfl
@[simp] theorem State.updMem_naming (s : State) (f : Memory → Memory) : (s.updMem f).naming = s.naming := rfl
@[simp] theorem State.updMem_lines (s : State) (f : Memory → Memory) : (s.updMem f).lines = s.lines := rfl
@[simp] theorem State.updMem_kept (s : State) (f : Memory → Memory) : (s.updMem f).kept = s.kept := rfl
@[simp] theorem State.updMem_tasks (s : State) (f : Memory → Memory) : (s.updMem f).tasks = s.tasks := rfl
@[simp] theorem State.updMem_steps (s : State) (f : Memory → Memory) : (s.updMem f).steps = s.steps := rfl
@[simp] theorem State.updMem_pqueues (s : State) (f : Memory → Memory) : (s.updMem f).pqueues = s.pqueues := rfl
@[simp] theorem State.updMem_graphs (s : State) (f : Memory → Memory) : (s.updMem f).graphs = s.graphs := rfl
@[simp] theorem State.updMem_nextTask (s : State) (f : Memory → Memory) : (s.updMem f).nextTask = s.nextTask := rfl
@[simp] theorem State.updMem_msi (s : State) (f : Memory → Memory) : (s.updMem f).msi = s.msi := rfl
@[simp] theorem State.updMem_mbox (s : State) (f : Memory → Memory) : (s.updMem f).mbox = s.mbox := rfl
@[simp] theorem State.updMem_bridge (s : State) (f : Memory → Memory) : (s.updMem f).bridge = s.bridge := rfl
@[simp] theorem State.updMem_msix (s : State) (f : Memory → Memory) : (s.updMem f).msix = s.msix := rfl
@[simp] theorem State.updMem_bring (s : State) (f : Memory → Memory) : (s.updMem f).bring = s.bring := rfl
@[simp] theorem State.updMem_bringFailed (s : State) (f : Memory → Memory) : (s.updMem f).bringFailed = s.bringFailed := rfl
@[simp] theorem State.updMem_rollback (s : State) (f : Memory → Memory) : (s.updMem f).rollback = s.rollback := rfl
@[simp] theorem State.updMem_board (s : State) (f : Memory → Memory) : (s.updMem f).board = s.board := rfl
@[simp] theorem State.updMem_power (s : State) (f : Memory → Memory) : (s.updMem f).power = s.power := rfl
@[simp] theorem State.updMem_interval (s : State) (f : Memory → Memory) : (s.updMem f).interval = s.interval := rfl
@[simp] theorem State.updMem_hostData (s : State) (f : Memory → Memory) : (s.updMem f).hostData = s.hostData := rfl
@[simp] theorem State.updMem_windows (s : State) (f : Memory → Memory) : (s.updMem f).windows = s.windows := rfl
@[simp] theorem State.updMem_flash (s : State) (f : Memory → Memory) : (s.updMem f).flash = s.flash := rfl
@[simp] theorem State.updMem_fuses (s : State) (f : Memory → Memory) : (s.updMem f).fuses = s.fuses := rfl
@[simp] theorem State.updMem_slot (s : State) (f : Memory → Memory) : (s.updMem f).slot = s.slot := rfl
@[simp] theorem State.updMem_mgmt (s : State) (f : Memory → Memory) : (s.updMem f).mgmt = s.mgmt := rfl
@[simp] theorem State.updMem_heats (s : State) (f : Memory → Memory) : (s.updMem f).heats = s.heats := rfl
@[simp] theorem State.updMem_saves (s : State) (f : Memory → Memory) : (s.updMem f).saves = s.saves := rfl
@[simp] theorem State.updMem_created (s : State) (f : Memory → Memory) : (s.updMem f).created = s.created := rfl
@[simp] theorem State.updMem_stays (s : State) (f : Memory → Memory) : (s.updMem f).stays = s.stays := rfl
@[simp] theorem State.updMem_passDue (s : State) (f : Memory → Memory) : (s.updMem f).passDue = s.passDue := rfl
@[simp] theorem State.updMem_schedule (s : State) (f : Memory → Memory) : (s.updMem f).schedule = s.schedule := rfl
@[simp] theorem State.updMem_free (s : State) (f : Memory → Memory) : (s.updMem f).free = s.free := rfl

/-! ## onStep -/

@[simp] theorem State.onStep_core (s : State) (k w : Nat) (f : Step → Step) : (s.onStep k w f).core = s.core := rfl
@[simp] theorem State.onStep_others (s : State) (k w : Nat) (f : Step → Step) : (s.onStep k w f).others = s.others := rfl
@[simp] theorem State.onStep_tick (s : State) (k w : Nat) (f : Step → Step) : (s.onStep k w f).tick = s.tick := rfl
@[simp] theorem State.onStep_mem (s : State) (k w : Nat) (f : Step → Step) : (s.onStep k w f).mem = s.mem := rfl
@[simp] theorem State.onStep_ctlb (s : State) (k w : Nat) (f : Step → Step) : (s.onStep k w f).ctlb = s.ctlb := rfl
@[simp] theorem State.onStep_atc (s : State) (k w : Nat) (f : Step → Step) : (s.onStep k w f).atc = s.atc := rfl
@[simp] theorem State.onStep_hostMap (s : State) (k w : Nat) (f : Step → Step) : (s.onStep k w f).hostMap = s.hostMap := rfl
@[simp] theorem State.onStep_pri (s : State) (k w : Nat) (f : Step → Step) : (s.onStep k w f).pri = s.pri := rfl
@[simp] theorem State.onStep_vit (s : State) (k w : Nat) (f : Step → Step) : (s.onStep k w f).vit = s.vit := rfl
@[simp] theorem State.onStep_vitNext (s : State) (k w : Nat) (f : Step → Step) : (s.onStep k w f).vitNext = s.vitNext := rfl
@[simp] theorem State.onStep_xlt (s : State) (k w : Nat) (f : Step → Step) : (s.onStep k w f).xlt = s.xlt := rfl
@[simp] theorem State.onStep_ten (s : State) (k w : Nat) (f : Step → Step) : (s.onStep k w f).ten = s.ten := rfl
@[simp] theorem State.onStep_gov (s : State) (k w : Nat) (f : Step → Step) : (s.onStep k w f).gov = s.gov := rfl
@[simp] theorem State.onStep_govNext (s : State) (k w : Nat) (f : Step → Step) : (s.onStep k w f).govNext = s.govNext := rfl
@[simp] theorem State.onStep_accts (s : State) (k w : Nat) (f : Step → Step) : (s.onStep k w f).accts = s.accts := rfl
@[simp] theorem State.onStep_islands (s : State) (k w : Nat) (f : Step → Step) : (s.onStep k w f).islands = s.islands := rfl
@[simp] theorem State.onStep_clusters (s : State) (k w : Nat) (f : Step → Step) : (s.onStep k w f).clusters = s.clusters := rfl
@[simp] theorem State.onStep_sliceSensor (s : State) (k w : Nat) (f : Step → Step) : (s.onStep k w f).sliceSensor = s.sliceSensor := rfl
@[simp] theorem State.onStep_coolant (s : State) (k w : Nat) (f : Step → Step) : (s.onStep k w f).coolant = s.coolant := rfl
@[simp] theorem State.onStep_limH (s : State) (k w : Nat) (f : Step → Step) : (s.onStep k w f).limH = s.limH := rfl
@[simp] theorem State.onStep_limS (s : State) (k w : Nat) (f : Step → Step) : (s.onStep k w f).limS = s.limS := rfl
@[simp] theorem State.onStep_ctxs (s : State) (k w : Nat) (f : Step → Step) : (s.onStep k w f).ctxs = s.ctxs := rfl
@[simp] theorem State.onStep_naming (s : State) (k w : Nat) (f : Step → Step) : (s.onStep k w f).naming = s.naming := rfl
@[simp] theorem State.onStep_lines (s : State) (k w : Nat) (f : Step → Step) : (s.onStep k w f).lines = s.lines := rfl
@[simp] theorem State.onStep_kept (s : State) (k w : Nat) (f : Step → Step) : (s.onStep k w f).kept = s.kept := rfl
@[simp] theorem State.onStep_tasks (s : State) (k w : Nat) (f : Step → Step) : (s.onStep k w f).tasks = s.tasks := rfl
@[simp] theorem State.onStep_steps (s : State) (k w : Nat) (f : Step → Step) : (s.onStep k w f).steps = s.steps.map fun t => if t.task == k && t.wid == w then f t else t := rfl
@[simp] theorem State.onStep_pqueues (s : State) (k w : Nat) (f : Step → Step) : (s.onStep k w f).pqueues = s.pqueues := rfl
@[simp] theorem State.onStep_graphs (s : State) (k w : Nat) (f : Step → Step) : (s.onStep k w f).graphs = s.graphs := rfl
@[simp] theorem State.onStep_nextTask (s : State) (k w : Nat) (f : Step → Step) : (s.onStep k w f).nextTask = s.nextTask := rfl
@[simp] theorem State.onStep_msi (s : State) (k w : Nat) (f : Step → Step) : (s.onStep k w f).msi = s.msi := rfl
@[simp] theorem State.onStep_mbox (s : State) (k w : Nat) (f : Step → Step) : (s.onStep k w f).mbox = s.mbox := rfl
@[simp] theorem State.onStep_bridge (s : State) (k w : Nat) (f : Step → Step) : (s.onStep k w f).bridge = s.bridge := rfl
@[simp] theorem State.onStep_msix (s : State) (k w : Nat) (f : Step → Step) : (s.onStep k w f).msix = s.msix := rfl
@[simp] theorem State.onStep_bring (s : State) (k w : Nat) (f : Step → Step) : (s.onStep k w f).bring = s.bring := rfl
@[simp] theorem State.onStep_bringFailed (s : State) (k w : Nat) (f : Step → Step) : (s.onStep k w f).bringFailed = s.bringFailed := rfl
@[simp] theorem State.onStep_rollback (s : State) (k w : Nat) (f : Step → Step) : (s.onStep k w f).rollback = s.rollback := rfl
@[simp] theorem State.onStep_board (s : State) (k w : Nat) (f : Step → Step) : (s.onStep k w f).board = s.board := rfl
@[simp] theorem State.onStep_power (s : State) (k w : Nat) (f : Step → Step) : (s.onStep k w f).power = s.power := rfl
@[simp] theorem State.onStep_interval (s : State) (k w : Nat) (f : Step → Step) : (s.onStep k w f).interval = s.interval := rfl
@[simp] theorem State.onStep_hostData (s : State) (k w : Nat) (f : Step → Step) : (s.onStep k w f).hostData = s.hostData := rfl
@[simp] theorem State.onStep_windows (s : State) (k w : Nat) (f : Step → Step) : (s.onStep k w f).windows = s.windows := rfl
@[simp] theorem State.onStep_flash (s : State) (k w : Nat) (f : Step → Step) : (s.onStep k w f).flash = s.flash := rfl
@[simp] theorem State.onStep_fuses (s : State) (k w : Nat) (f : Step → Step) : (s.onStep k w f).fuses = s.fuses := rfl
@[simp] theorem State.onStep_slot (s : State) (k w : Nat) (f : Step → Step) : (s.onStep k w f).slot = s.slot := rfl
@[simp] theorem State.onStep_mgmt (s : State) (k w : Nat) (f : Step → Step) : (s.onStep k w f).mgmt = s.mgmt := rfl
@[simp] theorem State.onStep_heats (s : State) (k w : Nat) (f : Step → Step) : (s.onStep k w f).heats = s.heats := rfl
@[simp] theorem State.onStep_saves (s : State) (k w : Nat) (f : Step → Step) : (s.onStep k w f).saves = s.saves := rfl
@[simp] theorem State.onStep_created (s : State) (k w : Nat) (f : Step → Step) : (s.onStep k w f).created = s.created := rfl
@[simp] theorem State.onStep_stays (s : State) (k w : Nat) (f : Step → Step) : (s.onStep k w f).stays = s.stays := rfl
@[simp] theorem State.onStep_passDue (s : State) (k w : Nat) (f : Step → Step) : (s.onStep k w f).passDue = s.passDue := rfl
@[simp] theorem State.onStep_schedule (s : State) (k w : Nat) (f : Step → Step) : (s.onStep k w f).schedule = s.schedule := rfl
@[simp] theorem State.onStep_free (s : State) (k w : Nat) (f : Step → Step) : (s.onStep k w f).free = s.free := rfl

/-! ## onTask -/

@[simp] theorem State.onTask_core (s : State) (k : Nat) (f : Task → Task) : (s.onTask k f).core = s.core := rfl
@[simp] theorem State.onTask_others (s : State) (k : Nat) (f : Task → Task) : (s.onTask k f).others = s.others := rfl
@[simp] theorem State.onTask_tick (s : State) (k : Nat) (f : Task → Task) : (s.onTask k f).tick = s.tick := rfl
@[simp] theorem State.onTask_mem (s : State) (k : Nat) (f : Task → Task) : (s.onTask k f).mem = s.mem := rfl
@[simp] theorem State.onTask_ctlb (s : State) (k : Nat) (f : Task → Task) : (s.onTask k f).ctlb = s.ctlb := rfl
@[simp] theorem State.onTask_atc (s : State) (k : Nat) (f : Task → Task) : (s.onTask k f).atc = s.atc := rfl
@[simp] theorem State.onTask_hostMap (s : State) (k : Nat) (f : Task → Task) : (s.onTask k f).hostMap = s.hostMap := rfl
@[simp] theorem State.onTask_pri (s : State) (k : Nat) (f : Task → Task) : (s.onTask k f).pri = s.pri := rfl
@[simp] theorem State.onTask_vit (s : State) (k : Nat) (f : Task → Task) : (s.onTask k f).vit = s.vit := rfl
@[simp] theorem State.onTask_vitNext (s : State) (k : Nat) (f : Task → Task) : (s.onTask k f).vitNext = s.vitNext := rfl
@[simp] theorem State.onTask_xlt (s : State) (k : Nat) (f : Task → Task) : (s.onTask k f).xlt = s.xlt := rfl
@[simp] theorem State.onTask_ten (s : State) (k : Nat) (f : Task → Task) : (s.onTask k f).ten = s.ten := rfl
@[simp] theorem State.onTask_gov (s : State) (k : Nat) (f : Task → Task) : (s.onTask k f).gov = s.gov := rfl
@[simp] theorem State.onTask_govNext (s : State) (k : Nat) (f : Task → Task) : (s.onTask k f).govNext = s.govNext := rfl
@[simp] theorem State.onTask_accts (s : State) (k : Nat) (f : Task → Task) : (s.onTask k f).accts = s.accts := rfl
@[simp] theorem State.onTask_islands (s : State) (k : Nat) (f : Task → Task) : (s.onTask k f).islands = s.islands := rfl
@[simp] theorem State.onTask_clusters (s : State) (k : Nat) (f : Task → Task) : (s.onTask k f).clusters = s.clusters := rfl
@[simp] theorem State.onTask_sliceSensor (s : State) (k : Nat) (f : Task → Task) : (s.onTask k f).sliceSensor = s.sliceSensor := rfl
@[simp] theorem State.onTask_coolant (s : State) (k : Nat) (f : Task → Task) : (s.onTask k f).coolant = s.coolant := rfl
@[simp] theorem State.onTask_limH (s : State) (k : Nat) (f : Task → Task) : (s.onTask k f).limH = s.limH := rfl
@[simp] theorem State.onTask_limS (s : State) (k : Nat) (f : Task → Task) : (s.onTask k f).limS = s.limS := rfl
@[simp] theorem State.onTask_ctxs (s : State) (k : Nat) (f : Task → Task) : (s.onTask k f).ctxs = s.ctxs := rfl
@[simp] theorem State.onTask_naming (s : State) (k : Nat) (f : Task → Task) : (s.onTask k f).naming = s.naming := rfl
@[simp] theorem State.onTask_lines (s : State) (k : Nat) (f : Task → Task) : (s.onTask k f).lines = s.lines := rfl
@[simp] theorem State.onTask_kept (s : State) (k : Nat) (f : Task → Task) : (s.onTask k f).kept = s.kept := rfl
@[simp] theorem State.onTask_tasks (s : State) (k : Nat) (f : Task → Task) : (s.onTask k f).tasks = s.tasks.map fun t => if t.id == k then f t else t := rfl
@[simp] theorem State.onTask_steps (s : State) (k : Nat) (f : Task → Task) : (s.onTask k f).steps = s.steps := rfl
@[simp] theorem State.onTask_pqueues (s : State) (k : Nat) (f : Task → Task) : (s.onTask k f).pqueues = s.pqueues := rfl
@[simp] theorem State.onTask_graphs (s : State) (k : Nat) (f : Task → Task) : (s.onTask k f).graphs = s.graphs := rfl
@[simp] theorem State.onTask_nextTask (s : State) (k : Nat) (f : Task → Task) : (s.onTask k f).nextTask = s.nextTask := rfl
@[simp] theorem State.onTask_msi (s : State) (k : Nat) (f : Task → Task) : (s.onTask k f).msi = s.msi := rfl
@[simp] theorem State.onTask_mbox (s : State) (k : Nat) (f : Task → Task) : (s.onTask k f).mbox = s.mbox := rfl
@[simp] theorem State.onTask_bridge (s : State) (k : Nat) (f : Task → Task) : (s.onTask k f).bridge = s.bridge := rfl
@[simp] theorem State.onTask_msix (s : State) (k : Nat) (f : Task → Task) : (s.onTask k f).msix = s.msix := rfl
@[simp] theorem State.onTask_bring (s : State) (k : Nat) (f : Task → Task) : (s.onTask k f).bring = s.bring := rfl
@[simp] theorem State.onTask_bringFailed (s : State) (k : Nat) (f : Task → Task) : (s.onTask k f).bringFailed = s.bringFailed := rfl
@[simp] theorem State.onTask_rollback (s : State) (k : Nat) (f : Task → Task) : (s.onTask k f).rollback = s.rollback := rfl
@[simp] theorem State.onTask_board (s : State) (k : Nat) (f : Task → Task) : (s.onTask k f).board = s.board := rfl
@[simp] theorem State.onTask_power (s : State) (k : Nat) (f : Task → Task) : (s.onTask k f).power = s.power := rfl
@[simp] theorem State.onTask_interval (s : State) (k : Nat) (f : Task → Task) : (s.onTask k f).interval = s.interval := rfl
@[simp] theorem State.onTask_hostData (s : State) (k : Nat) (f : Task → Task) : (s.onTask k f).hostData = s.hostData := rfl
@[simp] theorem State.onTask_windows (s : State) (k : Nat) (f : Task → Task) : (s.onTask k f).windows = s.windows := rfl
@[simp] theorem State.onTask_flash (s : State) (k : Nat) (f : Task → Task) : (s.onTask k f).flash = s.flash := rfl
@[simp] theorem State.onTask_fuses (s : State) (k : Nat) (f : Task → Task) : (s.onTask k f).fuses = s.fuses := rfl
@[simp] theorem State.onTask_slot (s : State) (k : Nat) (f : Task → Task) : (s.onTask k f).slot = s.slot := rfl
@[simp] theorem State.onTask_mgmt (s : State) (k : Nat) (f : Task → Task) : (s.onTask k f).mgmt = s.mgmt := rfl
@[simp] theorem State.onTask_heats (s : State) (k : Nat) (f : Task → Task) : (s.onTask k f).heats = s.heats := rfl
@[simp] theorem State.onTask_saves (s : State) (k : Nat) (f : Task → Task) : (s.onTask k f).saves = s.saves := rfl
@[simp] theorem State.onTask_created (s : State) (k : Nat) (f : Task → Task) : (s.onTask k f).created = s.created := rfl
@[simp] theorem State.onTask_stays (s : State) (k : Nat) (f : Task → Task) : (s.onTask k f).stays = s.stays := rfl
@[simp] theorem State.onTask_passDue (s : State) (k : Nat) (f : Task → Task) : (s.onTask k f).passDue = s.passDue := rfl
@[simp] theorem State.onTask_schedule (s : State) (k : Nat) (f : Task → Task) : (s.onTask k f).schedule = s.schedule := rfl
@[simp] theorem State.onTask_free (s : State) (k : Nat) (f : Task → Task) : (s.onTask k f).free = s.free := rfl

/-! ## onIsland -/

@[simp] theorem State.onIsland_core (s : State) (i : Nat) (f : Island → Island) : (s.onIsland i f).core = s.core := rfl
@[simp] theorem State.onIsland_others (s : State) (i : Nat) (f : Island → Island) : (s.onIsland i f).others = s.others := rfl
@[simp] theorem State.onIsland_tick (s : State) (i : Nat) (f : Island → Island) : (s.onIsland i f).tick = s.tick := rfl
@[simp] theorem State.onIsland_mem (s : State) (i : Nat) (f : Island → Island) : (s.onIsland i f).mem = s.mem := rfl
@[simp] theorem State.onIsland_ctlb (s : State) (i : Nat) (f : Island → Island) : (s.onIsland i f).ctlb = s.ctlb := rfl
@[simp] theorem State.onIsland_atc (s : State) (i : Nat) (f : Island → Island) : (s.onIsland i f).atc = s.atc := rfl
@[simp] theorem State.onIsland_hostMap (s : State) (i : Nat) (f : Island → Island) : (s.onIsland i f).hostMap = s.hostMap := rfl
@[simp] theorem State.onIsland_pri (s : State) (i : Nat) (f : Island → Island) : (s.onIsland i f).pri = s.pri := rfl
@[simp] theorem State.onIsland_vit (s : State) (i : Nat) (f : Island → Island) : (s.onIsland i f).vit = s.vit := rfl
@[simp] theorem State.onIsland_vitNext (s : State) (i : Nat) (f : Island → Island) : (s.onIsland i f).vitNext = s.vitNext := rfl
@[simp] theorem State.onIsland_xlt (s : State) (i : Nat) (f : Island → Island) : (s.onIsland i f).xlt = s.xlt := rfl
@[simp] theorem State.onIsland_ten (s : State) (i : Nat) (f : Island → Island) : (s.onIsland i f).ten = s.ten := rfl
@[simp] theorem State.onIsland_gov (s : State) (i : Nat) (f : Island → Island) : (s.onIsland i f).gov = s.gov := rfl
@[simp] theorem State.onIsland_govNext (s : State) (i : Nat) (f : Island → Island) : (s.onIsland i f).govNext = s.govNext := rfl
@[simp] theorem State.onIsland_accts (s : State) (i : Nat) (f : Island → Island) : (s.onIsland i f).accts = s.accts := rfl
@[simp] theorem State.onIsland_islands (s : State) (i : Nat) (f : Island → Island) : (s.onIsland i f).islands = vmod s.islands i f := rfl
@[simp] theorem State.onIsland_clusters (s : State) (i : Nat) (f : Island → Island) : (s.onIsland i f).clusters = s.clusters := rfl
@[simp] theorem State.onIsland_sliceSensor (s : State) (i : Nat) (f : Island → Island) : (s.onIsland i f).sliceSensor = s.sliceSensor := rfl
@[simp] theorem State.onIsland_coolant (s : State) (i : Nat) (f : Island → Island) : (s.onIsland i f).coolant = s.coolant := rfl
@[simp] theorem State.onIsland_limH (s : State) (i : Nat) (f : Island → Island) : (s.onIsland i f).limH = s.limH := rfl
@[simp] theorem State.onIsland_limS (s : State) (i : Nat) (f : Island → Island) : (s.onIsland i f).limS = s.limS := rfl
@[simp] theorem State.onIsland_ctxs (s : State) (i : Nat) (f : Island → Island) : (s.onIsland i f).ctxs = s.ctxs := rfl
@[simp] theorem State.onIsland_naming (s : State) (i : Nat) (f : Island → Island) : (s.onIsland i f).naming = s.naming := rfl
@[simp] theorem State.onIsland_lines (s : State) (i : Nat) (f : Island → Island) : (s.onIsland i f).lines = s.lines := rfl
@[simp] theorem State.onIsland_kept (s : State) (i : Nat) (f : Island → Island) : (s.onIsland i f).kept = s.kept := rfl
@[simp] theorem State.onIsland_tasks (s : State) (i : Nat) (f : Island → Island) : (s.onIsland i f).tasks = s.tasks := rfl
@[simp] theorem State.onIsland_steps (s : State) (i : Nat) (f : Island → Island) : (s.onIsland i f).steps = s.steps := rfl
@[simp] theorem State.onIsland_pqueues (s : State) (i : Nat) (f : Island → Island) : (s.onIsland i f).pqueues = s.pqueues := rfl
@[simp] theorem State.onIsland_graphs (s : State) (i : Nat) (f : Island → Island) : (s.onIsland i f).graphs = s.graphs := rfl
@[simp] theorem State.onIsland_nextTask (s : State) (i : Nat) (f : Island → Island) : (s.onIsland i f).nextTask = s.nextTask := rfl
@[simp] theorem State.onIsland_msi (s : State) (i : Nat) (f : Island → Island) : (s.onIsland i f).msi = s.msi := rfl
@[simp] theorem State.onIsland_mbox (s : State) (i : Nat) (f : Island → Island) : (s.onIsland i f).mbox = s.mbox := rfl
@[simp] theorem State.onIsland_bridge (s : State) (i : Nat) (f : Island → Island) : (s.onIsland i f).bridge = s.bridge := rfl
@[simp] theorem State.onIsland_msix (s : State) (i : Nat) (f : Island → Island) : (s.onIsland i f).msix = s.msix := rfl
@[simp] theorem State.onIsland_bring (s : State) (i : Nat) (f : Island → Island) : (s.onIsland i f).bring = s.bring := rfl
@[simp] theorem State.onIsland_bringFailed (s : State) (i : Nat) (f : Island → Island) : (s.onIsland i f).bringFailed = s.bringFailed := rfl
@[simp] theorem State.onIsland_rollback (s : State) (i : Nat) (f : Island → Island) : (s.onIsland i f).rollback = s.rollback := rfl
@[simp] theorem State.onIsland_board (s : State) (i : Nat) (f : Island → Island) : (s.onIsland i f).board = s.board := rfl
@[simp] theorem State.onIsland_power (s : State) (i : Nat) (f : Island → Island) : (s.onIsland i f).power = s.power := rfl
@[simp] theorem State.onIsland_interval (s : State) (i : Nat) (f : Island → Island) : (s.onIsland i f).interval = s.interval := rfl
@[simp] theorem State.onIsland_hostData (s : State) (i : Nat) (f : Island → Island) : (s.onIsland i f).hostData = s.hostData := rfl
@[simp] theorem State.onIsland_windows (s : State) (i : Nat) (f : Island → Island) : (s.onIsland i f).windows = s.windows := rfl
@[simp] theorem State.onIsland_flash (s : State) (i : Nat) (f : Island → Island) : (s.onIsland i f).flash = s.flash := rfl
@[simp] theorem State.onIsland_fuses (s : State) (i : Nat) (f : Island → Island) : (s.onIsland i f).fuses = s.fuses := rfl
@[simp] theorem State.onIsland_slot (s : State) (i : Nat) (f : Island → Island) : (s.onIsland i f).slot = s.slot := rfl
@[simp] theorem State.onIsland_mgmt (s : State) (i : Nat) (f : Island → Island) : (s.onIsland i f).mgmt = s.mgmt := rfl
@[simp] theorem State.onIsland_heats (s : State) (i : Nat) (f : Island → Island) : (s.onIsland i f).heats = s.heats := rfl
@[simp] theorem State.onIsland_saves (s : State) (i : Nat) (f : Island → Island) : (s.onIsland i f).saves = s.saves := rfl
@[simp] theorem State.onIsland_created (s : State) (i : Nat) (f : Island → Island) : (s.onIsland i f).created = s.created := rfl
@[simp] theorem State.onIsland_stays (s : State) (i : Nat) (f : Island → Island) : (s.onIsland i f).stays = s.stays := rfl
@[simp] theorem State.onIsland_passDue (s : State) (i : Nat) (f : Island → Island) : (s.onIsland i f).passDue = s.passDue := rfl
@[simp] theorem State.onIsland_schedule (s : State) (i : Nat) (f : Island → Island) : (s.onIsland i f).schedule = s.schedule := rfl
@[simp] theorem State.onIsland_free (s : State) (i : Nat) (f : Island → Island) : (s.onIsland i f).free = s.free := rfl

/-! ## onCluster -/

@[simp] theorem State.onCluster_core (s : State) (k : Nat) (f : Cluster → Cluster) : (s.onCluster k f).core = s.core := rfl
@[simp] theorem State.onCluster_others (s : State) (k : Nat) (f : Cluster → Cluster) : (s.onCluster k f).others = s.others := rfl
@[simp] theorem State.onCluster_tick (s : State) (k : Nat) (f : Cluster → Cluster) : (s.onCluster k f).tick = s.tick := rfl
@[simp] theorem State.onCluster_mem (s : State) (k : Nat) (f : Cluster → Cluster) : (s.onCluster k f).mem = s.mem := rfl
@[simp] theorem State.onCluster_ctlb (s : State) (k : Nat) (f : Cluster → Cluster) : (s.onCluster k f).ctlb = s.ctlb := rfl
@[simp] theorem State.onCluster_atc (s : State) (k : Nat) (f : Cluster → Cluster) : (s.onCluster k f).atc = s.atc := rfl
@[simp] theorem State.onCluster_hostMap (s : State) (k : Nat) (f : Cluster → Cluster) : (s.onCluster k f).hostMap = s.hostMap := rfl
@[simp] theorem State.onCluster_pri (s : State) (k : Nat) (f : Cluster → Cluster) : (s.onCluster k f).pri = s.pri := rfl
@[simp] theorem State.onCluster_vit (s : State) (k : Nat) (f : Cluster → Cluster) : (s.onCluster k f).vit = s.vit := rfl
@[simp] theorem State.onCluster_vitNext (s : State) (k : Nat) (f : Cluster → Cluster) : (s.onCluster k f).vitNext = s.vitNext := rfl
@[simp] theorem State.onCluster_xlt (s : State) (k : Nat) (f : Cluster → Cluster) : (s.onCluster k f).xlt = s.xlt := rfl
@[simp] theorem State.onCluster_ten (s : State) (k : Nat) (f : Cluster → Cluster) : (s.onCluster k f).ten = s.ten := rfl
@[simp] theorem State.onCluster_gov (s : State) (k : Nat) (f : Cluster → Cluster) : (s.onCluster k f).gov = s.gov := rfl
@[simp] theorem State.onCluster_govNext (s : State) (k : Nat) (f : Cluster → Cluster) : (s.onCluster k f).govNext = s.govNext := rfl
@[simp] theorem State.onCluster_accts (s : State) (k : Nat) (f : Cluster → Cluster) : (s.onCluster k f).accts = s.accts := rfl
@[simp] theorem State.onCluster_islands (s : State) (k : Nat) (f : Cluster → Cluster) : (s.onCluster k f).islands = s.islands := rfl
@[simp] theorem State.onCluster_clusters (s : State) (k : Nat) (f : Cluster → Cluster) : (s.onCluster k f).clusters = vmod s.clusters k f := rfl
@[simp] theorem State.onCluster_sliceSensor (s : State) (k : Nat) (f : Cluster → Cluster) : (s.onCluster k f).sliceSensor = s.sliceSensor := rfl
@[simp] theorem State.onCluster_coolant (s : State) (k : Nat) (f : Cluster → Cluster) : (s.onCluster k f).coolant = s.coolant := rfl
@[simp] theorem State.onCluster_limH (s : State) (k : Nat) (f : Cluster → Cluster) : (s.onCluster k f).limH = s.limH := rfl
@[simp] theorem State.onCluster_limS (s : State) (k : Nat) (f : Cluster → Cluster) : (s.onCluster k f).limS = s.limS := rfl
@[simp] theorem State.onCluster_ctxs (s : State) (k : Nat) (f : Cluster → Cluster) : (s.onCluster k f).ctxs = s.ctxs := rfl
@[simp] theorem State.onCluster_naming (s : State) (k : Nat) (f : Cluster → Cluster) : (s.onCluster k f).naming = s.naming := rfl
@[simp] theorem State.onCluster_lines (s : State) (k : Nat) (f : Cluster → Cluster) : (s.onCluster k f).lines = s.lines := rfl
@[simp] theorem State.onCluster_kept (s : State) (k : Nat) (f : Cluster → Cluster) : (s.onCluster k f).kept = s.kept := rfl
@[simp] theorem State.onCluster_tasks (s : State) (k : Nat) (f : Cluster → Cluster) : (s.onCluster k f).tasks = s.tasks := rfl
@[simp] theorem State.onCluster_steps (s : State) (k : Nat) (f : Cluster → Cluster) : (s.onCluster k f).steps = s.steps := rfl
@[simp] theorem State.onCluster_pqueues (s : State) (k : Nat) (f : Cluster → Cluster) : (s.onCluster k f).pqueues = s.pqueues := rfl
@[simp] theorem State.onCluster_graphs (s : State) (k : Nat) (f : Cluster → Cluster) : (s.onCluster k f).graphs = s.graphs := rfl
@[simp] theorem State.onCluster_nextTask (s : State) (k : Nat) (f : Cluster → Cluster) : (s.onCluster k f).nextTask = s.nextTask := rfl
@[simp] theorem State.onCluster_msi (s : State) (k : Nat) (f : Cluster → Cluster) : (s.onCluster k f).msi = s.msi := rfl
@[simp] theorem State.onCluster_mbox (s : State) (k : Nat) (f : Cluster → Cluster) : (s.onCluster k f).mbox = s.mbox := rfl
@[simp] theorem State.onCluster_bridge (s : State) (k : Nat) (f : Cluster → Cluster) : (s.onCluster k f).bridge = s.bridge := rfl
@[simp] theorem State.onCluster_msix (s : State) (k : Nat) (f : Cluster → Cluster) : (s.onCluster k f).msix = s.msix := rfl
@[simp] theorem State.onCluster_bring (s : State) (k : Nat) (f : Cluster → Cluster) : (s.onCluster k f).bring = s.bring := rfl
@[simp] theorem State.onCluster_bringFailed (s : State) (k : Nat) (f : Cluster → Cluster) : (s.onCluster k f).bringFailed = s.bringFailed := rfl
@[simp] theorem State.onCluster_rollback (s : State) (k : Nat) (f : Cluster → Cluster) : (s.onCluster k f).rollback = s.rollback := rfl
@[simp] theorem State.onCluster_board (s : State) (k : Nat) (f : Cluster → Cluster) : (s.onCluster k f).board = s.board := rfl
@[simp] theorem State.onCluster_power (s : State) (k : Nat) (f : Cluster → Cluster) : (s.onCluster k f).power = s.power := rfl
@[simp] theorem State.onCluster_interval (s : State) (k : Nat) (f : Cluster → Cluster) : (s.onCluster k f).interval = s.interval := rfl
@[simp] theorem State.onCluster_hostData (s : State) (k : Nat) (f : Cluster → Cluster) : (s.onCluster k f).hostData = s.hostData := rfl
@[simp] theorem State.onCluster_windows (s : State) (k : Nat) (f : Cluster → Cluster) : (s.onCluster k f).windows = s.windows := rfl
@[simp] theorem State.onCluster_flash (s : State) (k : Nat) (f : Cluster → Cluster) : (s.onCluster k f).flash = s.flash := rfl
@[simp] theorem State.onCluster_fuses (s : State) (k : Nat) (f : Cluster → Cluster) : (s.onCluster k f).fuses = s.fuses := rfl
@[simp] theorem State.onCluster_slot (s : State) (k : Nat) (f : Cluster → Cluster) : (s.onCluster k f).slot = s.slot := rfl
@[simp] theorem State.onCluster_mgmt (s : State) (k : Nat) (f : Cluster → Cluster) : (s.onCluster k f).mgmt = s.mgmt := rfl
@[simp] theorem State.onCluster_heats (s : State) (k : Nat) (f : Cluster → Cluster) : (s.onCluster k f).heats = s.heats := rfl
@[simp] theorem State.onCluster_saves (s : State) (k : Nat) (f : Cluster → Cluster) : (s.onCluster k f).saves = s.saves := rfl
@[simp] theorem State.onCluster_created (s : State) (k : Nat) (f : Cluster → Cluster) : (s.onCluster k f).created = s.created := rfl
@[simp] theorem State.onCluster_stays (s : State) (k : Nat) (f : Cluster → Cluster) : (s.onCluster k f).stays = s.stays := rfl
@[simp] theorem State.onCluster_passDue (s : State) (k : Nat) (f : Cluster → Cluster) : (s.onCluster k f).passDue = s.passDue := rfl
@[simp] theorem State.onCluster_schedule (s : State) (k : Nat) (f : Cluster → Cluster) : (s.onCluster k f).schedule = s.schedule := rfl
@[simp] theorem State.onCluster_free (s : State) (k : Nat) (f : Cluster → Cluster) : (s.onCluster k f).free = s.free := rfl

/-! ## A result added to the core -/

@[simp] theorem Core.result_pcore (c : Core) (lat : Nat) (dst : Dst) (latch : Option (Nat × VWord)) (fl : Flags) :
    (c.result lat dst latch fl).pcore = c.pcore := rfl
@[simp] theorem Core.result_arch (c : Core) (lat : Nat) (dst : Dst) (latch : Option (Nat × VWord)) (fl : Flags) :
    (c.result lat dst latch fl).arch = c.arch := rfl
@[simp] theorem Core.result_ck (c : Core) (lat : Nat) (dst : Dst) (latch : Option (Nat × VWord)) (fl : Flags) :
    (c.result lat dst latch fl).ck = c.ck := rfl
@[simp] theorem Core.result_ckAddr (c : Core) (lat : Nat) (dst : Dst) (latch : Option (Nat × VWord)) (fl : Flags) :
    (c.result lat dst latch fl).ckAddr = c.ckAddr := rfl
@[simp] theorem Core.result_pc (c : Core) (lat : Nat) (dst : Dst) (latch : Option (Nat × VWord)) (fl : Flags) :
    (c.result lat dst latch fl).pc = c.pc := rfl
@[simp] theorem Core.result_level (c : Core) (lat : Nat) (dst : Dst) (latch : Option (Nat × VWord)) (fl : Flags) :
    (c.result lat dst latch fl).level = c.level := rfl
@[simp] theorem Core.result_phase (c : Core) (lat : Nat) (dst : Dst) (latch : Option (Nat × VWord)) (fl : Flags) :
    (c.result lat dst latch fl).phase = c.phase := rfl
@[simp] theorem Core.result_delay (c : Core) (lat : Nat) (dst : Dst) (latch : Option (Nat × VWord)) (fl : Flags) :
    (c.result lat dst latch fl).delay = c.delay := rfl
@[simp] theorem Core.result_lat (c : Core) (lat : Nat) (dst : Dst) (latch : Option (Nat × VWord)) (fl : Flags) :
    (c.result lat dst latch fl).lat = c.lat := rfl
@[simp] theorem Core.result_fspace (c : Core) (lat : Nat) (dst : Dst) (latch : Option (Nat × VWord)) (fl : Flags) :
    (c.result lat dst latch fl).fspace = c.fspace := rfl
@[simp] theorem Core.result_beat (c : Core) (lat : Nat) (dst : Dst) (latch : Option (Nat × VWord)) (fl : Flags) :
    (c.result lat dst latch fl).beat = c.beat := rfl
@[simp] theorem Core.result_flight (c : Core) (lat : Nat) (dst : Dst) (latch : Option (Nat × VWord)) (fl : Flags) :
    (c.result lat dst latch fl).flight = c.flight ++ [(Flight.mk (c.beat + lat) dst latch fl true c.beat c.iss.pos)] := rfl
@[simp] theorem Core.result_pend (c : Core) (lat : Nat) (dst : Dst) (latch : Option (Nat × VWord)) (fl : Flags) :
    (c.result lat dst latch fl).pend = c.pend := rfl
@[simp] theorem Core.result_ckId (c : Core) (lat : Nat) (dst : Dst) (latch : Option (Nat × VWord)) (fl : Flags) :
    (c.result lat dst latch fl).ckId = c.ckId := rfl
@[simp] theorem Core.result_ckKernel (c : Core) (lat : Nat) (dst : Dst) (latch : Option (Nat × VWord)) (fl : Flags) :
    (c.result lat dst latch fl).ckKernel = c.ckKernel := rfl
@[simp] theorem Core.result_ckNext (c : Core) (lat : Nat) (dst : Dst) (latch : Option (Nat × VWord)) (fl : Flags) :
    (c.result lat dst latch fl).ckNext = c.ckNext := rfl
@[simp] theorem Core.result_frzCk (c : Core) (lat : Nat) (dst : Dst) (latch : Option (Nat × VWord)) (fl : Flags) :
    (c.result lat dst latch fl).frzCk = c.frzCk := rfl
@[simp] theorem Core.result_sleep (c : Core) (lat : Nat) (dst : Dst) (latch : Option (Nat × VWord)) (fl : Flags) :
    (c.result lat dst latch fl).sleep = c.sleep := rfl
@[simp] theorem Core.result_segBundles (c : Core) (lat : Nat) (dst : Dst) (latch : Option (Nat × VWord)) (fl : Flags) :
    (c.result lat dst latch fl).segBundles = c.segBundles := rfl
@[simp] theorem Core.result_cbuf (c : Core) (lat : Nat) (dst : Dst) (latch : Option (Nat × VWord)) (fl : Flags) :
    (c.result lat dst latch fl).cbuf = c.cbuf := rfl
@[simp] theorem Core.result_drain (c : Core) (lat : Nat) (dst : Dst) (latch : Option (Nat × VWord)) (fl : Flags) :
    (c.result lat dst latch fl).drain = c.drain := rfl
@[simp] theorem Core.result_csr (c : Core) (lat : Nat) (dst : Dst) (latch : Option (Nat × VWord)) (fl : Flags) :
    (c.result lat dst latch fl).csr = c.csr := rfl
@[simp] theorem Core.result_csrVi (c : Core) (lat : Nat) (dst : Dst) (latch : Option (Nat × VWord)) (fl : Flags) :
    (c.result lat dst latch fl).csrVi = c.csrVi := rfl
@[simp] theorem Core.result_csrBank (c : Core) (lat : Nat) (dst : Dst) (latch : Option (Nat × VWord)) (fl : Flags) :
    (c.result lat dst latch fl).csrBank = c.csrBank := rfl
@[simp] theorem Core.result_paired (c : Core) (lat : Nat) (dst : Dst) (latch : Option (Nat × VWord)) (fl : Flags) :
    (c.result lat dst latch fl).paired = c.paired := rfl
@[simp] theorem Core.result_quarantined (c : Core) (lat : Nat) (dst : Dst) (latch : Option (Nat × VWord)) (fl : Flags) :
    (c.result lat dst latch fl).quarantined = c.quarantined := rfl
@[simp] theorem Core.result_mismatches (c : Core) (lat : Nat) (dst : Dst) (latch : Option (Nat × VWord)) (fl : Flags) :
    (c.result lat dst latch fl).mismatches = c.mismatches := rfl
@[simp] theorem Core.result_sig (c : Core) (lat : Nat) (dst : Dst) (latch : Option (Nat × VWord)) (fl : Flags) :
    (c.result lat dst latch fl).sig = c.sig := rfl
@[simp] theorem Core.result_upsets (c : Core) (lat : Nat) (dst : Dst) (latch : Option (Nat × VWord)) (fl : Flags) :
    (c.result lat dst latch fl).upsets = c.upsets := rfl
@[simp] theorem Core.result_iss (c : Core) (lat : Nat) (dst : Dst) (latch : Option (Nat × VWord)) (fl : Flags) :
    (c.result lat dst latch fl).iss = c.iss := rfl
@[simp] theorem Core.result_sp (c : Core) (lat : Nat) (dst : Dst) (latch : Option (Nat × VWord)) (fl : Flags) :
    (c.result lat dst latch fl).sp = c.sp := rfl
@[simp] theorem Core.result_mx (c : Core) (lat : Nat) (dst : Dst) (latch : Option (Nat × VWord)) (fl : Flags) :
    (c.result lat dst latch fl).mx = c.mx := rfl
@[simp] theorem Core.result_eng (c : Core) (lat : Nat) (dst : Dst) (latch : Option (Nat × VWord)) (fl : Flags) :
    (c.result lat dst latch fl).eng = c.eng := rfl
@[simp] theorem Core.result_port (c : Core) (lat : Nat) (dst : Dst) (latch : Option (Nat × VWord)) (fl : Flags) :
    (c.result lat dst latch fl).port = c.port := rfl
@[simp] theorem Core.result_bars (c : Core) (lat : Nat) (dst : Dst) (latch : Option (Nat × VWord)) (fl : Flags) :
    (c.result lat dst latch fl).bars = c.bars := rfl
@[simp] theorem Core.result_sensor (c : Core) (lat : Nat) (dst : Dst) (latch : Option (Nat × VWord)) (fl : Flags) :
    (c.result lat dst latch fl).sensor = c.sensor := rfl
@[simp] theorem Core.result_ltime (c : Core) (lat : Nat) (dst : Dst) (latch : Option (Nat × VWord)) (fl : Flags) :
    (c.result lat dst latch fl).ltime = c.ltime := rfl
@[simp] theorem Core.result_seat (c : Core) (lat : Nat) (dst : Dst) (latch : Option (Nat × VWord)) (fl : Flags) :
    (c.result lat dst latch fl).seat = c.seat := rfl
@[simp] theorem Core.result_yielded (c : Core) (lat : Nat) (dst : Dst) (latch : Option (Nat × VWord)) (fl : Flags) :
    (c.result lat dst latch fl).yielded = c.yielded := rfl
@[simp] theorem Core.result_cleanRerun (c : Core) (lat : Nat) (dst : Dst) (latch : Option (Nat × VWord)) (fl : Flags) :
    (c.result lat dst latch fl).cleanRerun = c.cleanRerun := rfl
@[simp] theorem Core.result_asyncDue (c : Core) (lat : Nat) (dst : Dst) (latch : Option (Nat × VWord)) (fl : Flags) :
    (c.result lat dst latch fl).asyncDue = c.asyncDue := rfl
@[simp] theorem Core.result_dueBy (c : Core) (lat : Nat) (dst : Dst) (latch : Option (Nat × VWord)) (fl : Flags) :
    (c.result lat dst latch fl).dueBy = c.dueBy := rfl
@[simp] theorem Core.result_preempt (c : Core) (lat : Nat) (dst : Dst) (latch : Option (Nat × VWord)) (fl : Flags) :
    (c.result lat dst latch fl).preempt = c.preempt := rfl

/-! ## Registers written -/

@[simp] theorem Arch.setX_zero (a : Arch) (v : Word) : a.setX 0 v = a := rfl

theorem Arch.setX_x (a : Arch) (d e : Fin 56) (v : Word) (h : d ≠ 0) :
    (a.setX d v).x[e] = if d = e then v else a.x[e] := by
  simp only [Arch.setX, if_neg h]
  by_cases hd : d = e
  · subst hd; simp
  · have hne : d.val ≠ e.val := fun hv => hd (Fin.ext hv)
    simp [hd, Vector.getElem_set, hne]

@[simp] theorem Arch.setX_p (a : Arch) (d : Fin 56) (v : Word) : (a.setX d v).p = a.p := by
  unfold Arch.setX; split <;> rfl
@[simp] theorem Arch.setX_v (a : Arch) (d : Fin 56) (v : Word) : (a.setX d v).v = a.v := by
  unfold Arch.setX; split <;> rfl
@[simp] theorem Arch.setX_w (a : Arch) (d : Fin 56) (v : Word) : (a.setX d v).w = a.w := by
  unfold Arch.setX; split <;> rfl
@[simp] theorem Arch.setX_d (a : Arch) (d : Fin 56) (v : Word) : (a.setX d v).d = a.d := by
  unfold Arch.setX; split <;> rfl
@[simp] theorem Arch.setX_sd (a : Arch) (d : Fin 56) (v : Word) : (a.setX d v).sd = a.sd := by
  unfold Arch.setX; split <;> rfl
@[simp] theorem Arch.setX_fpctl (a : Arch) (d : Fin 56) (v : Word) : (a.setX d v).fpctl = a.fpctl := by
  unfold Arch.setX; split <;> rfl
@[simp] theorem Arch.setX_fpflags (a : Arch) (d : Fin 56) (v : Word) : (a.setX d v).fpflags = a.fpflags := by
  unfold Arch.setX; split <;> rfl
@[simp] theorem Arch.setX_loops (a : Arch) (d : Fin 56) (v : Word) : (a.setX d v).loops = a.loops := by
  unfold Arch.setX; split <;> rfl
@[simp] theorem Arch.setX_modq (a : Arch) (d : Fin 56) (v : Word) : (a.setX d v).modq = a.modq := by
  unfold Arch.setX; split <;> rfl
@[simp] theorem Arch.setX_wid (a : Arch) (d : Fin 56) (v : Word) : (a.setX d v).wid = a.wid := by
  unfold Arch.setX; split <;> rfl
@[simp] theorem Arch.setX_depth (a : Arch) (d : Fin 56) (v : Word) : (a.setX d v).depth = a.depth := by
  unfold Arch.setX; split <;> rfl
@[simp] theorem Arch.setX_widths (a : Arch) (d : Fin 56) (v : Word) : (a.setX d v).widths = a.widths := by
  unfold Arch.setX; split <;> rfl
@[simp] theorem Arch.setX_rd (a : Arch) (d : Fin 56) (v : Word) : (a.setX d v).rd = a.rd := by
  unfold Arch.setX; split <;> rfl
@[simp] theorem Arch.setX_ckptmax (a : Arch) (d : Fin 56) (v : Word) : (a.setX d v).ckptmax = a.ckptmax := by
  unfold Arch.setX; split <;> rfl
@[simp] theorem Arch.setP_x (a : Arch) (d : Fin 16) (v : PWord) : (a.setP d v).x = a.x := rfl
@[simp] theorem Arch.setP_v (a : Arch) (d : Fin 16) (v : PWord) : (a.setP d v).v = a.v := rfl
@[simp] theorem Arch.setP_w (a : Arch) (d : Fin 16) (v : PWord) : (a.setP d v).w = a.w := rfl
@[simp] theorem Arch.setP_d (a : Arch) (d : Fin 16) (v : PWord) : (a.setP d v).d = a.d := rfl
@[simp] theorem Arch.setP_sd (a : Arch) (d : Fin 16) (v : PWord) : (a.setP d v).sd = a.sd := rfl
@[simp] theorem Arch.setP_fpctl (a : Arch) (d : Fin 16) (v : PWord) : (a.setP d v).fpctl = a.fpctl := rfl
@[simp] theorem Arch.setP_fpflags (a : Arch) (d : Fin 16) (v : PWord) : (a.setP d v).fpflags = a.fpflags := rfl
@[simp] theorem Arch.setP_loops (a : Arch) (d : Fin 16) (v : PWord) : (a.setP d v).loops = a.loops := rfl
@[simp] theorem Arch.setP_modq (a : Arch) (d : Fin 16) (v : PWord) : (a.setP d v).modq = a.modq := rfl
@[simp] theorem Arch.setP_wid (a : Arch) (d : Fin 16) (v : PWord) : (a.setP d v).wid = a.wid := rfl
@[simp] theorem Arch.setP_depth (a : Arch) (d : Fin 16) (v : PWord) : (a.setP d v).depth = a.depth := rfl
@[simp] theorem Arch.setP_widths (a : Arch) (d : Fin 16) (v : PWord) : (a.setP d v).widths = a.widths := rfl
@[simp] theorem Arch.setP_rd (a : Arch) (d : Fin 16) (v : PWord) : (a.setP d v).rd = a.rd := rfl
@[simp] theorem Arch.setP_ckptmax (a : Arch) (d : Fin 16) (v : PWord) : (a.setP d v).ckptmax = a.ckptmax := rfl
@[simp] theorem Arch.setV_x (a : Arch) (d : VDst) (v : VWord) : (a.setV d v).x = a.x := by
  cases d <;> rfl
@[simp] theorem Arch.setV_p (a : Arch) (d : VDst) (v : VWord) : (a.setV d v).p = a.p := by
  cases d <;> rfl
@[simp] theorem Arch.setV_d (a : Arch) (d : VDst) (v : VWord) : (a.setV d v).d = a.d := by
  cases d <;> rfl
@[simp] theorem Arch.setV_sd (a : Arch) (d : VDst) (v : VWord) : (a.setV d v).sd = a.sd := by
  cases d <;> rfl
@[simp] theorem Arch.setV_fpctl (a : Arch) (d : VDst) (v : VWord) : (a.setV d v).fpctl = a.fpctl := by
  cases d <;> rfl
@[simp] theorem Arch.setV_fpflags (a : Arch) (d : VDst) (v : VWord) : (a.setV d v).fpflags = a.fpflags := by
  cases d <;> rfl
@[simp] theorem Arch.setV_loops (a : Arch) (d : VDst) (v : VWord) : (a.setV d v).loops = a.loops := by
  cases d <;> rfl
@[simp] theorem Arch.setV_modq (a : Arch) (d : VDst) (v : VWord) : (a.setV d v).modq = a.modq := by
  cases d <;> rfl
@[simp] theorem Arch.setV_wid (a : Arch) (d : VDst) (v : VWord) : (a.setV d v).wid = a.wid := by
  cases d <;> rfl
@[simp] theorem Arch.setV_depth (a : Arch) (d : VDst) (v : VWord) : (a.setV d v).depth = a.depth := by
  cases d <;> rfl
@[simp] theorem Arch.setV_widths (a : Arch) (d : VDst) (v : VWord) : (a.setV d v).widths = a.widths := by
  cases d <;> rfl
@[simp] theorem Arch.setV_rd (a : Arch) (d : VDst) (v : VWord) : (a.setV d v).rd = a.rd := by
  cases d <;> rfl
@[simp] theorem Arch.setV_ckptmax (a : Arch) (d : VDst) (v : VWord) : (a.setV d v).ckptmax = a.ckptmax := by
  cases d <;> rfl

end Sys2Proof.Machine
end

