-- ==== Sys2Proof/Laws/Vector.lean ====
section
/-! SUPPORT. Elements of vector registers and lanes of predicates: what a register made of elements holds in each lane
(05 R114, R119). -/

namespace Sys2Proof.Machine

@[simp] theorem digits_length (w n v : Nat) : (digits w n v).length = n := by
  induction n generalizing v with
  | zero => rfl
  | succ n ih => simp [digits, ih]

theorem digits_getElem (w n v i : Nat) (h : i < (digits w n v).length) :
    (digits w n v)[i] = v / 2 ^ (w * i) % 2 ^ w := by
  induction n generalizing v i with
  | zero => simp [digits] at h
  | succ n ih =>
    cases i with
    | zero => simp [digits]
    | succ i =>
      simp only [digits, List.getElem_cons_succ]
      rw [ih, Nat.div_div_eq_div_mul, ← Nat.pow_add, Nat.mul_succ, Nat.add_comm]

theorem undigits_lt (w : Nat) (l : List Nat) : undigits w l < 2 ^ (w * l.length) := by
  induction l with
  | nil => simp [undigits]
  | cons d ds ih =>
    have hd : d % 2 ^ w < 2 ^ w := Nat.mod_lt _ (Nat.two_pow_pos w)
    simp only [undigits, List.length_cons, Nat.mul_succ, Nat.pow_add]
    calc d % 2 ^ w + 2 ^ w * undigits w ds < 2 ^ w + 2 ^ w * undigits w ds := by omega
      _ = 2 ^ w * (undigits w ds + 1) := by ring
      _ ≤ 2 ^ w * 2 ^ (w * ds.length) := Nat.mul_le_mul_left _ ih
      _ = 2 ^ (w * ds.length) * 2 ^ w := Nat.mul_comm _ _

theorem undigits_digit (w : Nat) (l : List Nat) (i : Nat) (h : i < l.length) :
    undigits w l / 2 ^ (w * i) % 2 ^ w = l[i] % 2 ^ w := by
  induction l generalizing i with
  | nil => simp at h
  | cons d ds ih =>
    have hd : d % 2 ^ w < 2 ^ w := Nat.mod_lt _ (Nat.two_pow_pos w)
    cases i with
    | zero => simp [undigits]
    | succ i =>
      have e : (d % 2 ^ w + 2 ^ w * undigits w ds) / 2 ^ w = undigits w ds := by
        rw [Nat.add_mul_div_left _ _ (Nat.two_pow_pos w), Nat.div_eq_of_lt hd, Nat.zero_add]
      simp only [undigits, List.getElem_cons_succ]
      rw [Nat.mul_succ, Nat.add_comm (w * i) w, Nat.pow_add, ← Nat.div_div_eq_div_mul, e]
      exact ih i (by simpa using h)

/-- Each element of a register made of elements. -/
theorem elem_ofElems (w : Nat) (l : List Nat) (i : Nat) (h : i < l.length) (hl : w * l.length ≤ 4096) :
    elem w (ofElems w l) i = l[i] % 2 ^ w := by
  have : undigits w l < 2 ^ 4096 :=
    Nat.lt_of_lt_of_le (undigits_lt w l) (Nat.pow_le_pow_right Nat.two_pos hl)
  rw [elem, ofElems, BitVec.toNat_ofNat, Nat.mod_eq_of_lt this, undigits_digit w l i h]

/-- An element that a register was not given reads 0. -/
theorem elem_ofElems_of_le (w : Nat) (l : List Nat) (i : Nat) (h : l.length ≤ i) (hl : w * l.length ≤ 4096) :
    elem w (ofElems w l) i = 0 := by
  have : undigits w l < 2 ^ 4096 :=
    Nat.lt_of_lt_of_le (undigits_lt w l) (Nat.pow_le_pow_right Nat.two_pos hl)
  have g : undigits w l < 2 ^ (w * i) :=
    Nat.lt_of_lt_of_le (undigits_lt w l) (Nat.pow_le_pow_right (by decide) (Nat.mul_le_mul_left w h))
  rw [elem, ofElems, BitVec.toNat_ofNat, Nat.mod_eq_of_lt this, Nat.div_eq_of_lt g]
  simp

@[simp] theorem elems_length (w : Nat) (v : VWord) : (elems w v).length = 4096 / w := digits_length _ _ _

theorem elems_getElem (w : Nat) (v : VWord) (i : Nat) (h : i < (elems w v).length) : (elems w v)[i] = elem w v i :=
  digits_getElem w _ _ i h

theorem elem_lt (w : Nat) (v : VWord) (i : Nat) : elem w v i < 2 ^ w := Nat.mod_lt _ (Nat.two_pow_pos w)

/-- Lane i of a register, as a bit vector, is its element i. -/
theorem elem_extract (w : Nat) (v : VWord) (i : Nat) : (v.extractLsb' (w * i) w).toNat = elem w v i := by
  simp [elem, BitVec.extractLsb', Nat.shiftRight_eq_div_pow]

/-- The bits of a register that was made of lanes. -/
theorem ofPbits_getLsbD (bs : List Bool) (i : Nat) (hl : bs.length ≤ 1024) :
    (ofPbits bs).getLsbD i = bs.getD i false := by
  have hu : undigits 1 (bs.map fun b => if b then 1 else 0) < 2 ^ 1024 :=
    Nat.lt_of_lt_of_le (undigits_lt 1 _) (Nat.pow_le_pow_right Nat.two_pos (by simpa using hl))
  by_cases h : i < bs.length
  · have g : i < 1024 := by omega
    have d := undigits_digit 1 (bs.map fun b => if b then 1 else 0) i (by simpa using h)
    simp only [Nat.one_mul, List.getElem_map, Nat.pow_one] at d
    rw [ofPbits, BitVec.getLsbD_ofNat, Nat.testBit_eq_decide_div_mod_eq, d]
    cases hb : bs[i] <;> simp [g, hb, h]
  · have g : undigits 1 (bs.map fun b => if b then 1 else 0) < 2 ^ i :=
      Nat.lt_of_lt_of_le (undigits_lt 1 _) (Nat.pow_le_pow_right (by decide) (by simpa using h))
    rw [ofPbits, BitVec.getLsbD_ofNat, Nat.testBit_lt_two_pow g]
    simp [show bs.length ≤ i by omega]

end Sys2Proof.Machine
end

