-- ==== Sys2Proof/Tests/Slice0.lean ====
section
/-! SUPPORT. The model's own tests: ill-formed terms that WellFormed refuses, words of the spec's own worked encodings,
single instructions against results worked out from the spec, and for every statement that has hypotheses a state and
operands that meet them, clause by clause. -/

open Sys2Proof Sys2Proof.Machine Sys2Proof.Claims

namespace Sys2Proof.Tests

/-! ## States -/

/-- A member of the one step of task 0 of context 0. -/
def seat0 : Seat := (Seat.mk 0 0 0 0 0 0 4 3)

/-- Reset with a change of core 0. -/
def onCore (f : Core → Core) : State := { State.reset with core := f (Core.reset 0) }

/-- Core 0 with two scalar registers. -/
def withX (a b : Word) : State := onCore fun c => { c with arch := (c.arch.setX 1 a).setX 2 b }

/-- Core 0 with a kernel and a change. -/
def running (f : Core → Core) : State := onCore fun c => f { c with seat := some seat0, phase := .run }

/-- A predicate and two vector registers. -/
def withV (p : PWord) (a b : VWord) : State := onCore fun c =>
  { c with arch := ((c.arch.setP 1 p).setV (.v 1) a).setV (.v 2) b }

/-- A one-slot bundle ready to issue at 0. -/
def atZero : State := State.reset.placeWord 0

/-! ## Ill-formed terms -/

/-- 04 R95, R97, R100, R102, R104; 07 R155: the checks of scalar slots, each on the last value that it takes and the first
that it refuses. -/
theorem test_wf_scalar :
    Instr.wf (.widf false 1 7) = true ∧ Instr.wf (.widf false 1 8) = false ∧
    Instr.wf (.shli false 1 (.x 1) 63) = true ∧ Instr.wf (.shli false 1 (.x 1) 64) = false ∧
    Instr.wf (.shri false 1 (.x 1) (-1)) = false ∧ Instr.wf (.srai false 1 (.x 1) 255) = false ∧
    Instr.wf (.br 15 false 0) = true ∧ Instr.wf (.br 15 true 0) = false ∧ Instr.wf (.call false 15 true 0) = false ∧
    Instr.wf (.brkl true 15) = false ∧ Instr.wf (.loop (.x 1) 0) = false ∧ Instr.wf (.loopm (.x 1) 0) = false ∧
    Instr.wf (.loop (.x 1) 1) = true ∧ Instr.wf (.csrr false 1 0x071) = true ∧ Instr.wf (.csrr false 1 0x072) = false ∧
    Instr.wf (.csrw (.x 1) 0x002) = false ∧ Instr.wf (.csrs (.x 1) 0x012) = false ∧
    Instr.wf (.csrc (.x 1) 0xFFF) = false := by decide

/-- 05 R115, R122, R124, R126 to R130, R134 to R136: the checks of vector slots. -/
theorem test_wf_vector :
    Instr.wf (.vmulw false .i16 (.v 0) (.v 1) (.v 2)) = true ∧ Instr.wf (.vmulw false .i32 (.v 0) (.v 1) (.v 2)) = false ∧
    Instr.wf (.vmulw false .i16 (.v 1) (.v 1) (.v 2)) = false ∧ Instr.wf (.vdot false .i8 (.v 0) (.v 1) (.v 2)) = true ∧
    Instr.wf (.vdot false .i16 (.v 0) (.v 1) (.v 2)) = false ∧ Instr.wf (.vdotSat false .n32 (.v 0) (.v 1) (.v 2)) = false ∧
    Instr.wf (.fadd false .bf16 (.v 0) (.v 1) (.v 2)) = true ∧ Instr.wf (.fadd false .e4m3 (.v 0) (.v 1) (.v 2)) = false ∧
    Instr.wf (.frint false .e5m2 (.v 0) (.v 1)) = false ∧
    Instr.wf (.vcvt false (.i .i8) (.v 0) (.v 4) (.f .f32)) = true ∧
    Instr.wf (.vcvt false (.i .i8) (.v 0) (.v 2) (.f .f32)) = false ∧
    Instr.wf (.vcvtw false (.f .f32) (.v 2) (.v 1) (.i .i16)) = true ∧
    Instr.wf (.vcvtw false (.f .f32) (.v 3) (.v 1) (.i .i16)) = false ∧
    Instr.wf (.vpack false .i16 (.v 0) (.v 1) (.v 2)) = true ∧ Instr.wf (.vpack false .i32 (.v 0) (.v 1) (.v 2)) = false ∧
    Instr.wf (.vqnt false .i8 (.v 0) (.v 4) (.v 2)) = true ∧ Instr.wf (.vqnt false .i8 (.v 0) (.v 6) (.v 2)) = false ∧
    Instr.wf (.vzip false .i8 (.w 1) (.v 1) (.v 2)) = false ∧ Instr.wf (.vunzip false .i8 (.v 47) (.v 1) (.v 2)) = false ∧
    Instr.wf (.vrsumInt false .i4 (.v 0) (.v 1) 0) = false ∧ Instr.wf (.vrsumInt false .i8 (.v 0) (.v 1) 0) = true ∧
    Instr.wf (.vcmpxInt false .i32 (.v 0) (.v 1) false false 6) = true ∧
    Instr.wf (.vcmpxInt false .i32 (.v 0) (.v 1) false false 7) = false ∧
    Instr.wf (.vscanFloat false .e4m3 (.v 0) (.v 1) 0) = false ∧
    Instr.wf (.vcmpxFloat false .f16 (.v 0) (.v 1) false false 8) = false ∧
    Instr.wf (.pset false 0 1024) = true ∧ Instr.wf (.pset false 0 1025) = false ∧
    Instr.wf (.exp2 false .bf16 (.v 0) (.v 1)) = true ∧ Instr.wf (.exp2 false .f16 (.v 0) (.v 1)) = false := by decide

/-- 03 R67, R75; 09 R212; 10 R238; 11 R264; 13 R294; 16 R374: the checks of memory and engine slots. -/
theorem test_wf_memory :
    Instr.wf (.ldss false 6 1 (.x 1) 0) = true ∧ Instr.wf (.ldss false 7 1 (.x 1) 0) = false ∧
    Instr.wf (.stss 7 (.x 1) (.x 1) 0) = false ∧ Instr.wf (.ldsg false .i4 (.v 0) (.x 1) (.v 1)) = false ∧
    Instr.wf (.stsx .n4 (.v 0) (.x 1) (.v 1)) = false ∧ Instr.wf (.mwait 0 (.x 1)) = false ∧
    Instr.wf (.mwait 1 (.x 1)) = true ∧ Instr.wf (.ld false 7 1 (.x 1) 0) = false ∧
    Instr.wf (.ldAcq false 7 1 (.x 1) .chip) = false ∧ Instr.wf (.st 7 (.x 1) (.x 1) 0) = false ∧
    Instr.wf (.stRel 7 (.x 1) (.x 1) .chip) = false ∧ Instr.wf (.vldg false .i4 (.v 0) (.x 1) (.v 1)) = false ∧
    Instr.wf (.vstx .i4 (.v 0) (.x 1) (.v 1)) = false ∧ Instr.wf (.fencex .chip 0 4) = true ∧
    Instr.wf (.fencex .chip 0 5) = false ∧ Instr.wf (.fencex .chip 5 0) = false ∧ Instr.wf (.fencex .chip 3 3) = false ∧
    Instr.wf (.cas false .chip 2 (.x 1) .plain true) = true ∧ Instr.wf (.cas false .chip 3 (.x 1) .plain true) = false ∧
    Instr.wf (.copyOut 0 false (.idx 0) false 3) = false ∧ Instr.wf (.copyIn 0 false (.idx 0) false 2) = true ∧
    Instr.wf (.copym 0 false (.idx 0) false 2) = false ∧ Instr.wf (.copym 0 false (.idx 0) false 4) = true ∧
    Instr.wf (.copys 0 false (.idx 0) 1) = false ∧ Instr.wf (.copyx 0 false (.idx 0) 1) = false ∧
    Instr.wf (.gath 0 false (.idx 0) false 6) = false ∧ Instr.wf (.redcAdd 0 false (.idx 0) 1) = false ∧
    Instr.wf (.redcMax 0 false (.idx 0) 1) = false ∧ Instr.wf (.redcMin 0 false (.idx 0) 1) = false ∧
    Instr.wf (.bwait (.idx 0) 0) = false ∧ Instr.wf (.bwait (.idx 0) 1) = true := by decide

/-! ## Words of the spec -/

/-- 04 R96, R98; 07 R160, R163; 16 R368, R385, R387; 06 R150: worked encodings of S-class slots. -/
theorem test_decode_scalar :
    decodeSlot 0x84049240#32 = .ok (.addi false 9 (.x 9) 64) ∧ decodeSlot 0x8600391A#32 = .ok (.li false 3 0x91A) ∧
    decodeSlot 0x86303DEF#32 = .ok (.lih false 3 0x4DEF) ∧ decodeSlot 0x86482105#32 = .ok (.cmpLt false 2 (.x 4) (.x 5)) ∧
    decodeSlot 0x858C183F#32 = .ok (.cmpiLen false 1 (.x 32) 255) ∧ decodeSlot 0x87030007#32 = .ok (.br 1 true 7) ∧
    decodeSlot 0x8704FFFC#32 = .ok (.br 2 false (-4)) ∧ decodeSlot 0x87A04001#32 = .ok (.loopm (.x 4) 1) ∧
    decodeSlot 0x88000300#32 = .ok (.sleep (.x 12)) ∧ decodeSlot 0x8A005001#32 = .ok (.csrr false 5 0x001) ∧
    decodeSlot 0x8A607001#32 = .ok (.csrc (.x 7) 0x001) ∧ decodeSlot 0x8A800001#32 = .ok (.sys 1) ∧
    decodeSlot 0x88811340#32 = .ok (.shf 17 (.x 13) 0) ∧ decodeSlot 0x88A12206#32 = .ok (.shfiAdd 6 18 0) ∧
    decodeSlot 0x8C005000#32 = .ok (.ctc false 5) ∧ decodeSlot 0x8C205100#32 = .ok (.budq false 5 (.x 4)) ∧
    decodeSlot 0x8C60D380#32 = .ok (.jrd false 13 (.x 14)) ∧ decodeSlot 0x8C805100#32 = .ok (.thq false 5 (.x 4)) ∧
    decodeSlot 0x8D000000#32 = .ok .yield := by decide

/-- 05 R132, R133, R136: worked encodings of V- and F-class slots. -/
theorem test_decode_vector :
    decodeSlot 0xA98C5193#32 = .ok (.vscanExInt false .i32 (.v 5) (.v 6) 3) ∧
    decodeSlot 0xAB717281#32 = .ok (.vargmaxFloat false .f32 (.v 23) (.v 10) 1) ∧
    decodeSlot 0xC0109240#32 = .ok (.exp2 false .f32 (.v 9) (.v 9)) := by decide

/-- 09 R210, R211, R213, R214; 10 R228, R232, R233, R237; 11 R253, R255, R257, R258, R260, R264: worked encodings of the
memory and matrix slots. -/
theorem test_decode_memory :
    decodeSlot 0xE00C61C2#32 = .ok (.lds false .i32 (.v 6) (.x 7) 2) ∧
    decodeSlot 0xE04C51C2#32 = .ok (.ldss false 3 5 (.x 7) 2) ∧ decodeSlot 0xE0C00105#32 = .ok (.spalloc (.x 4) (.x 5)) ∧
    decodeSlot 0xE1208100#32 = .ok (.splife false 8 (.x 4)) ∧ decodeSlot 0xE2240009#32 = .ok (.mma 1 false none (.x 9)) ∧
    decodeSlot 0xE2240349#32 = .ok (.mma 1 false (some (.idx 3)) (.x 9)) ∧
    decodeSlot 0xE20A074A#32 = .ok (.wld 2 true (some (.idx 7)) (.x 10)) ∧
    decodeSlot 0xE2C000C0#32 = .ok (.mgrp (.x 3)) ∧ decodeSlot 0xE2405100#32 = .ok (.accrd false (.v 5) (.x 4)) ∧
    decodeSlot 0xE40C51C2#32 = .ok (.ld false 3 5 (.x 7) 2) ∧
    decodeSlot 0xE42C51E4#32 = .ok (.stRel 3 (.x 5) (.x 7) .cluster) ∧
    decodeSlot 0xE4C06200#32 = .ok (.ldf false 6 (.x 8)) ∧ decodeSlot 0xE4C09216#32 = .ok (.ldfAcq false 9 (.x 8) .chip) ∧
    decodeSlot 0xE4E13722#32 = .ok (.stfRel (.x 19) (.x 28) .gang) ∧
    decodeSlot 0xE58CA308#32 = .ok (.atomAdd false .chip 10 (.x 12) .plain true) ∧
    decodeSlot 0xE585E458#32 = .ok (.atomAdd false .gang 30 (.x 17) .acq true) ∧
    decodeSlot 0xE585F68A#32 = .ok (.atomOr false .gang 31 (.x 26) .plain true) ∧
    decodeSlot 0xE54C1000#32 = .ok (.fencex .chip 0 1) := by decide

/-- 13 R294, R309, R310; 14 R331 to R334, R339; 16 R373, R374: worked encodings of the engine, queue and barrier slots. -/
theorem test_decode_engine :
    decodeSlot 0xE604020A#32 = .ok (.copyOut 1 false (.idx 2) false 10) ∧
    decodeSlot 0xE60402CA#32 = .ok (.copyIn 1 false (.idx 2) true 10) ∧
    decodeSlot 0xE612010C#32 = .ok (.copyOut 4 true (.idx 1) false 12) ∧
    decodeSlot 0xE628074C#32 = .ok (.copym 2 false (.idx 7) true 12) ∧
    decodeSlot 0xE6A00554#32 = .ok (.redcMax 0 false (.idx 5) 20) ∧
    decodeSlot 0xE6C06101#32 = .ok (.cpqEntry false 6 (.x 4)) ∧ decodeSlot 0xE6E00105#32 = .ok (.cpcan (.x 4) (.x 5)) ∧
    decodeSlot 0xE72421C0#32 = .ok (.pipw 2 (.v (.v 7))) ∧ decodeSlot 0xE7405001#32 = .ok (.pipr false (.x 5) 1) ∧
    decodeSlot 0xE7606001#32 = .ok (.pipq false 6 1) ∧ decodeSlot 0xE700000A#32 = .ok (.spawn none (.x 10)) ∧
    decodeSlot 0xE700044A#32 = .ok (.spawn (some (.idx 4)) (.x 10)) ∧
    decodeSlot 0xE7800000#32 = .ok .statfl ∧ decodeSlot 0xE8000504#32 = .ok (.binit (.idx 5) (.x 4)) ∧
    decodeSlot 0xE8800507#32 = .ok (.btry false (.idx 5) 7) ∧ 
    decodeSlot 0xE5900528#32 = .ok (.atomAdd false .peer 0 (.x 20) .rel true) ∧
    decodeSlot 0xE8200546#32 = .ok (.barvExp (.idx 5) (.x 6)) ∧ decodeSlot 0xE8210900#32 = .ok (.barv (.name (.x 9))) ∧
    decodeSlot 0xE8400506#32 = .ok (.bexp (.idx 5) (.x 6)) ∧ decodeSlot 0xE8600507#32 = .ok (.bwait (.idx 5) 7) := by
  decide

/-- 03 R60: an ill-formed word is refused by name. -/
theorem test_decode_refuses :
    decodeSlot 0x84840040#32 = .error .illFormed ∧ decodeSlot 0x7FE00000#32 = .error .unassigned ∧
    decodeSlot 0x80580000#32 = .error .unused ∧ decodeSlot 0x98400000#32 = .error .nBit := by
  decide

/-- The word that the host's two questions are asked of: step runs it as the first instruction after reset. -/
theorem test_fetch_word :
    decodeTableWord 32 0x00001042 = some (.add false 1 (.x 1) (.x 2)) ∧ decodeTableWord 40 0 = none := by decide


/-! ## What meets the hypotheses of the statements: values -/

/-- ScalarArithmetic: a zero divisor, the overflow, and a plain division. -/
theorem witness_ScalarArithmetic :
    (withX 7 0).core.sx (.x 2) = 0 ∧
    ((withX (BitVec.intMin 64) (-1)).core.sx (.x 1) = BitVec.intMin 64 ∧
      (withX (BitVec.intMin 64) (-1)).core.sx (.x 2) = -1) ∧
    ((withX (BitVec.intMin 64) 1).core.sx (.x 2) ≠ 0 ∧
      ¬ ((withX (BitVec.intMin 64) 1).core.sx (.x 1) = BitVec.intMin 64 ∧
        (withX (BitVec.intMin 64) 1).core.sx (.x 2) = -1)) := by decide

/-- ScalarArithmetic, immediates: the last counts inside and the first outside. -/
theorem witness_ScalarArithmetic_immediates :
    (0 ≤ (0#9).toInt ∧ (0#9).toInt ≤ 63) ∧ (0 ≤ (63#9).toInt ∧ (63#9).toInt ≤ 63) ∧ 63 < (64#9).toInt ∧
    (BitVec.ofInt 9 (-1)).toInt < 0 := by decide

/-- ScalarBitFields: the fields below the depth and past it, the identity, the depth, the first refused number; a
value of no ones and one with a one, for the counts. -/
theorem witness_ScalarBitFields :
    (onCore fun c => { c with arch := { c.arch with depth := 2 } }).core.arch.depth = 2 ∧
    ((1#6).toNat < 6 ∧ (1#6).toNat < 2) ∧ ((2#6).toNat < 6 ∧ 2 ≤ (2#6).toNat) ∧ ((5#6).toNat < 6 ∧ 2 ≤ (5#6).toNat) ∧
    8 ≤ (8#6).toNat ∧ 8 ≤ (63#6).toNat := by decide

/-- VectorWideElements: the widths that run and those that trap, and the last aligned and the first misaligned pair. -/
theorem witness_VectorWideElements :
    (ITy.i16.width ≠ 32 ∧ (VDst.v 46).aligned 2 = true) ∧ (ITy.i4.width ≠ 32 ∧ (VDst.w 0).aligned 2 = true) ∧
    ITy.n32.width = 32 ∧ (VDst.v 47).aligned 2 = false ∧ (VDst.w 1).aligned 2 = false ∧ ITy.i8.width < 16 ∧
    16 ≤ ITy.n16.width := by decide

/-- VectorMovement: pairs, an index inside and one past the last element, a shift each way. -/
theorem witness_VectorMovement :
    (VDst.v 46).aligned 2 = true ∧ (VDst.v 47).aligned 2 = false ∧
    (lane 32 ((withV 5 127 128).core.vx (.v 1)) 0).toNat < 4096 / 32 ∧
    ¬ (lane 32 ((withV 5 127 128).core.vx (.v 2)) 0).toNat < 4096 / 32 ∧
    (0 : Int) ≤ 127 + (lane 32 ((withV 5 0 0).core.vx (.v 1)) 0).toInt ∧
    (withV 5 0 0).core.arch.p[1].getLsbD 0 = true := by decide +kernel

/-- VectorPredicates: the greatest count of PSET, and the first refused. -/
theorem witness_VectorPredicates : (1024#12).toNat ≤ 1024 ∧ (0#12).toNat ≤ 1024 ∧ 1024 < (1025#12).toNat := by decide

/-- FloatArithmetic: a type that computes and one that traps; a NaN of each kind for the compares, and none. -/
theorem witness_FloatArithmetic :
    FTy.bf16.arith = true ∧ FTy.f16.arith = true ∧ FTy.f32.arith = true ∧ FTy.e4m3.arith = false ∧
    FTy.e5m2.arith = false ∧ FVal.read FTy.f32.fmt false 0x7FA00000 = .nan true ∧
    (FVal.read FTy.f32.fmt false 0x7FC00000).isNan = true ∧ (FVal.read FTy.f32.fmt false 0x7F800000).isNan = false := by
  decide

/-- FloatRoundsExactValues: the least and the greatest finite encodings of two formats. -/
theorem witness_FloatRoundsExactValues :
    FVal.dec FTy.f32.fmt 1 = .fin false 1 (-149) ∧ FVal.dec FTy.f32.fmt 0xFF7FFFFF = .fin true 0xFFFFFF 104 ∧
    FVal.dec FTy.e4m3.fmt 0x7E = .fin false 14 5 ∧
    FVal.read FTy.f32.fmt false 0x3F800000 = .fin false (2 ^ 23) (-23) ∧
    FVal.read FTy.f32.fmt false 0xC0000000 = .fin true (2 ^ 23) (-22) ∧
    (FTy.f32.fmt.addF (FCtl.mk 0 false) 0x3F800000 0xC0000000) = (0xBF800000, 0) ∧
    at2 false (2 ^ 23) (-23) (-23) + at2 true (2 ^ 23) (-22) (-23) = at2 true 1 0 (-23) := by decide

/-- FloatRoundsOnce: a value between two encodings and one past the greatest, in the modes that go each way. -/
theorem witness_FloatRoundsOnce :
    (FTy.bf16.fmt.round 0 false false 257 0).2.getLsbD 2 = false ∧ (FTy.bf16.fmt.round 0 false false 257 0).2.getLsbD 4 = true ∧
    FVal.dec FTy.bf16.fmt (FTy.bf16.fmt.round 0 false false 257 0).1 = .fin false 128 1 ∧
    FVal.dec FTy.bf16.fmt (FTy.bf16.fmt.round 2 false false 257 0).1 = .fin false 129 1 ∧
    (FTy.bf16.fmt.round 0 false true 1 128) = (0xFF80, fOF ||| fNX) ∧
    (FTy.bf16.fmt.round 1 false true 1 128) = (0xFF7F, fOF ||| fNX) ∧
    (FTy.e4m3.fmt.round 0 false false 1 9) = (0x7E, fOF ||| fNX) := by decide

/-- FloatSpecialValues: NaNs, infinities, zeros and a negative number, as operands and as function inputs. -/
theorem witness_FloatSpecialValues :
    let f := FTy.f32.fmt
    FVal.read f false 0x7FA00000 = .nan true ∧ FVal.read f false 0x7FC00000 = .nan false ∧
    FVal.read f false 0x7F800000 = .inf false ∧ FVal.read f false 0xFF800000 = .inf true ∧
    (∃ e, FVal.read f false 0x80000000 = .fin true 0 e) ∧ (∃ e, FVal.read f false 0 = .fin false 0 e) ∧
    (∃ m e, FVal.read f false 0xBF800000 = .fin true m e ∧ m ≠ 0) ∧ FTy.bf16.special = true ∧
    ((1 : Nat) ≤ 127 ∧ 127 ≤ 253 ∧ 127 % 2 = 1) := by
  and_intros <;> first | decide | exact ⟨_, rfl⟩ | exact ⟨_, _, rfl, by decide⟩

/-- FloatSpecialValues: a NaN beside a number, zeros of both signs, operands that ftz flushes and keeps; in a fused form an
infinite product and an addend of either sign, a product of zero and infinity, a zero product, a zero addend. -/
theorem witness_FloatSpecialValues_fused :
    let f := FTy.f16.fmt
    let z := FVal.read f true
    FTy.f16.arith = true ∧ (z 0x7E00).isNan = true ∧ (z 0x3C00).isNan = false ∧ flushed f true 0x8001 = 0x8000 ∧
    flushed f false 0x8001 = 0x8001 ∧ f.key 0x8000 ≤ f.key 0 ∧ ¬ f.key 0 ≤ f.key 0x8000 ∧ flushed f true 0x8400 = 0x8400 ∧
    (∃ e, z 0x8001 = .fin true 0 e) ∧ (∃ e, z 0x3C00 = .fin false 1024 e) ∧ z 0xFC00 = .inf true ∧ z 0x7C00 = .inf false ∧
    (FVal.inf true ≠ .inf (xor false !true)) ∧ FVal.inf false = .inf (xor false !true) ∧ (0 : Nat) < 4 := by
  and_intros <;> first | decide | exact ⟨_, rfl⟩

/-- VectorConversions: the widest relations, one too wide, and groups at and off their alignment. -/
theorem witness_VectorConversions :
    vcvtOk (.i .i4) (.f .f32) (.v 8) = true ∧ vcvtOk (.i .i4) (.f .f32) (.v 4) = false ∧
    vcvtOk (.f .f32) (.i .i16) (.v 0) = false ∧ vcvtwOk (.f .f32) (.f .e4m3) (.v 8) = true ∧
    vcvtwOk (.f .f32) (.i .i4) (.v 8) = false ∧ vcvtwOk (.f .f32) (.f .e4m3) (.v 6) = false ∧
    (VSrc.v 8).group (32 / ITy.i4.width) = true ∧ (VSrc.v 4).group (32 / ITy.i4.width) = false := by decide

/-- VectorConversions: sources of each kind, a product that is finite, one that is infinite, and one that is none. -/
theorem witness_VectorConversions_elements :
    let f := FTy.f32.fmt
    FVal.read f false 0x7FA00000 = .nan true ∧ FVal.read f false 0xFF800000 = .inf true ∧
    FVal.read f false 0x3FC00000 = .fin false (3 * 2 ^ 22) (-23) ∧ roundsTo 0 false (3 * 2 ^ 22) (-23) 2 ∧
    roundsTo 3 true (3 * 2 ^ 22) (-23) (-2) ∧ ¬ exactly false (3 * 2 ^ 22) (-23) 2 ∧
    (FVal.mul (.inf false) (.fin false 0 0)).1.isNan = true ∧ (FVal.mul (.inf false) (.fin true 1 0)).1 = .inf true ∧
    (FVal.mul (.fin false 3 0) (.fin true 1 (-1))).1 = .fin true 3 (-1) := by
  simp only [roundsTo]; and_intros <;> decide

/-- SpecialFunctions: ready after three beats, refused after two, and refused for f16. -/
theorem witness_SpecialFunctions :
    (FTy.bf16.special = true ∧ 3 ≤ (onCore fun c => { c with fspace := 3 }).core.fspace) ∧
    ¬ (FTy.bf16.special = true ∧ 3 ≤ (onCore fun c => { c with fspace := 2 }).core.fspace) ∧
    ¬ (FTy.f16.special = true ∧ 3 ≤ (onCore fun c => { c with fspace := 3 }).core.fspace) := by decide

/-- IntegerReductions: nothing selected; element 1 the greatest and the least of those selected; the last step of
VCMPX and the first past the register; 4-bit types. -/
theorem witness_IntegerReductions :
    (∀ i < 128, (withV 0 0 0).core.arch.p[1].getLsbD i = false) ∧
    ((1 : Nat) < 128 ∧ (withV 2 (5 * 2 ^ 32) 0).core.arch.p[1].getLsbD 1 = true ∧
      (∀ l < 128, (withV 2 (5 * 2 ^ 32) 0).core.arch.p[1].getLsbD l = true →
        num .i32 (lane 32 ((withV 2 (5 * 2 ^ 32) 0).core.vx (.v 1)) l) =
          num .i32 (lane 32 ((withV 2 (5 * 2 ^ 32) 0).core.vx (.v 1)) 1)) ∧
      ∀ l < 1, (withV 2 (5 * 2 ^ 32) 0).core.arch.p[1].getLsbD l = true →
        num .i32 (lane 32 ((withV 2 (5 * 2 ^ 32) 0).core.vx (.v 1)) l) <
          num .i32 (lane 32 ((withV 2 (5 * 2 ^ 32) 0).core.vx (.v 1)) 1)) ∧
    (8 ≤ ITy.i32.width ∧ 2 * 2 ^ (6#4).toNat ≤ 4096 / ITy.i32.width) ∧
    ¬ (8 ≤ ITy.i32.width ∧ 2 * 2 ^ (7#4).toNat ≤ 4096 / ITy.i32.width) ∧ ITy.n4.width < 8 := by decide +kernel

/-- FloatReductions: nothing selected; element 1 selected, a number or a NaN; steps and types. -/
theorem witness_FloatReductions :
    (∀ i < 128, (withV 0 0 0).core.arch.p[1].getLsbD i = false) ∧
    (withV 2 (0x3F800000 * 2 ^ 32) 0).core.arch.p[1].getLsbD 1 = true ∧
    (∀ l < 128, (withV 2 (0x3F800000 * 2 ^ 32) 0).core.arch.p[1].getLsbD l = true → l = 1) ∧
    FVal.read FTy.f32.fmt false (lane 32 ((withV 2 (0x3F800000 * 2 ^ 32) 0).core.vx (.v 1)) 1).toNat =
      .fin false (2 ^ 23) (-23) ∧
    FVal.ord true (.fin false (2 ^ 23) (-23)) (.fin false (2 ^ 23) (-23)) = 0 ∧
    (FVal.read FTy.f32.fmt false (lane 32 ((withV 2 (0x7FC00000 * 2 ^ 32) 0).core.vx (.v 1)) 1).toNat).isNan = true ∧
    (FTy.bf16.arith = true ∧ 2 * 2 ^ (7#4).toNat ≤ 4096 / FTy.bf16.width) ∧
    ¬ (FTy.bf16.arith = true ∧ 2 * 2 ^ (8#4).toNat ≤ 4096 / FTy.bf16.width) ∧ FTy.e5m2.arith = false := by decide +kernel

/-! ## What meets the hypotheses of the statements: control -/

/-- A one-slot bundle NOP at 4 and the core at 0, with X1. -/
def bodyAt (x1 : Word) : State :=
  let s := (onCore fun c => { c with pc := 4 }).placeWord 0x08400000
  { s with core := { s.core with pc := 0, arch := s.core.arch.setX 1 x1, iss := { s.core.iss with nextPc := 4 } } }

/-- A loop entry. -/
def entry (stop count : Word) : LoopEntry := (LoopEntry.mk 8 stop count)

/-- A core at the end of a modulo body, in a pass. -/
def modAt (pass : Nat) : Core := (onCore fun c => { c with pc := 8, arch := { c.arch with
  modq := { c.arch.modq with active := true, start := 4, stop := 8, n := 3, stages := 2, pass := pass } } }).core

/-- A core at the end of an inner loop. -/
def loopAt (count : Word) : Core :=
  (onCore fun c => { c with pc := 8, arch := { c.arch with loops := [entry 4 9, entry 8 count] } }).core

/-- A full segment. -/
def fullSeg : State := onCore fun c => { c with level := .u, cbuf := List.replicate 64 (Entry.mk .statfl .u 0 0 0 (Owner.mk 0 0) 0) }

/-- Core 0 with context 0 in force. -/
def hostedCtx : State := { (running id) with ctxs := [(0, plainCtx)] }

/-- BranchAndLoopSlots, branches: the refused code, branches that hold and that do not, a delay bundle that reads, targets on and off a
word. -/
theorem witness_BranchAndLoopSlots_branches :
    ((15 : PReg) = 15 ∧ true = true) ∧
    (((15 : PReg) = 15 ∨ State.reset.core.arch.p[15].getLsbD 0 = true) ↔ false = false) ∧
    ¬ (((1 : PReg) = 15 ∨ State.reset.core.arch.p[1].getLsbD 0 = true) ↔ false = false) ∧
    (((1 : PReg) = 15 ∨ State.reset.core.arch.p[1].getLsbD 0 = true) ↔ true = false) ∧
    (afterBundle (bodyAt 0) (bodyAt 0).core.iss.nextPc.toNat).1 = .ok 8 ∧
    ((withX 8 6).core.sx (.x 1)).toNat % 4 = 0 ∧ ((withX 8 6).core.sx (.x 2)).toNat % 4 ≠ 0 := by decide +kernel

/-- BranchAndLoopSlots, loops: an empty body, a full and an empty stack, a body that reads, one and no pass, a body of another end,
and BRKL that holds and that does not. -/
theorem witness_BranchAndLoopSlots_loops :
    ((bodyAt 0).core.sx (.x 1) = 0 ∧ (afterBundle (bodyAt 0) 4).1 = .ok 8) ∧
    ((bodyAt 3).core.sx (.x 1) ≠ 0 ∧ (bodyAt 3).core.arch.loops.length < 6) ∧
    6 ≤ (onCore fun c => { c with arch := { c.arch with loops := List.replicate 6 (entry 4 1) } }).core.arch.loops.length ∧
    ((readBody (bodyAt 3) 4 (some 4) 17).1.map fun b => (b.stop, b.ok 1)) = .ok (4, true) ∧
    ((readBody (bodyAt 3) 4 (some 6) 17).1.map fun b => b.stop) = .ok 8 ∧
    ((bodyAt 3).core.sx (.x 1)).extractLsb' 0 32 ≠ 0 ∧ ((bodyAt 0).core.sx (.x 1)).extractLsb' 0 32 = 0 ∧
    State.reset.core.arch.loops = [] ∧ (1 : BitVec 15) ≠ 0 := by decide +kernel

/-- SequencerAdvance: each place that the sequencer can go to. -/
theorem witness_SequencerAdvance :
    (onCore fun c => { c with delay := .after (some 8) }).core.delay = .after (some 8) ∧
    State.reset.core.delay = .none ∧ State.reset.core.iss.jump = none ∧ State.reset.core.iss.branch = none ∧
    ((modAt 2).arch.modq.start ≤ (modAt 2).pc ∧ (modAt 2).pc = (modAt 2).arch.modq.stop ∧
      (modAt 2).arch.modq.pass + 1 < (modAt 2).arch.modq.n + (modAt 2).arch.modq.stages - 1) ∧
    (modAt 3).arch.modq.n + (modAt 3).arch.modq.stages - 1 ≤ (modAt 3).arch.modq.pass + 1 ∧
    (modAt 2).arch.modq.active = true ∧ State.reset.core.arch.modq.active = false ∧ State.reset.core.arch.loops = [] ∧
    ({ modAt 2 with pc := 4 } : Core).pc ≠ (modAt 2).arch.modq.stop ∧
    ((loopAt 2).arch.loops = [entry 4 9] ++ [entry 8 2] ∧ (entry 8 2).stop = (loopAt 2).pc ∧ (entry 8 2).count ≠ 1) ∧
    (entry 8 0).count ≠ 1 ∧ (loopAt 1).arch.loops = [entry 4 9] ++ [entry 8 1] ∧ (entry 8 1).count = 1 ∧
    (∀ f ∈ [entry 4 9].getLast?, f.stop ≠ (loopAt 1).pc) := by
  decide +kernel

/-- MarkSlots: a tick to come and one that has come, both levels, a register that is pending and none. -/
theorem witness_MarkSlots :
    (∃ q ∈ (running fun c => { c with pend := [(Pend.mk (.x 1) (.barrier 3 0) 7 0 0 true 0 0 false)] }).core.pend, q.dst ≠ .none) ∧
    (∀ q ∈ State.reset.core.pend, q.dst = .none) ∧ State.reset.checkpoint.core.awaitsOld = false ∧
    (withX 5 0).tick < ((withX 5 0).core.sx (.x 1)).toNat ∧ ((withX 5 0).core.sx (.x 2)).toNat ≤ (withX 5 0).tick ∧
    (onCore fun c => { c with level := .u }).core.level = .u ∧
    (onCore fun c => { c with level := .s }).core.level ≠ .u := by decide +kernel

/-- ShadowRecords: the first and the last box origin, the fields beside them, two different fields. -/
theorem witness_ShadowRecords :
    (16 ≤ (16 : Fin 25).val ∧ (16 : Fin 25).val ≤ 20) ∧ (16 ≤ (20 : Fin 25).val ∧ (20 : Fin 25).val ≤ 20) ∧
    ¬ (16 ≤ (15 : Fin 25).val ∧ (15 : Fin 25).val ≤ 20) ∧ ¬ (16 ≤ (21 : Fin 25).val ∧ (21 : Fin 25).val ≤ 20) ∧
    (3 : Fin 25) ≠ 4 := by decide

/-- A record of rank 2, 32 × 16 elements of format 8, with fields changed. -/
def layout (fs : List (Fin 25 × Nat)) : Rec :=
  fs.foldl (fun r f => recSet r f.1 f.2) ([(1, 130), (2, 32), (3, 16), (7, 128), (11, 32), (12, 16)].foldl
    (fun (r : Rec) (f : Fin 25 × Nat) => recSet r f.1 f.2) 0)

/-- ShadowRecords: 06 R149, a record that fails no check and one for each code, the code its lowest. -/
theorem witness_ShadowRecords_checks :
    recCheck 2 (layout []) = 0 ∧ recCheck 2 (layout [(1, 128)]) = 1 ∧ recCheck 2 (layout [(1, 134)]) = 1 ∧
    recCheck 2 (layout [(1, 226)]) = 2 ∧ recCheck 2 (layout [(1, 386)]) = 3 ∧ recCheck 2 (layout [(3, 0)]) = 4 ∧
    recCheck 2 (layout [(12, 257)]) = 5 ∧ recCheck 2 (layout [(0, 1)]) = 6 ∧ recCheck 2 (layout [(7, 127)]) = 7 ∧
    recCheck 2 (layout [(7, 2 ^ 40)]) = 7 ∧ recCheck 2 (layout [(1, 178), (2, 33)]) = 8 ∧
    recCheck 2 (layout [(1, 2178)]) = 9 ∧ recCheck 2 (layout [(0, 2 ^ 57)]) = 10 ∧
    recCheck 2 (layout [(1, 138), (24, 4)]) = 11 ∧ recCheck 2 (layout [(1, 138), (24, 3)]) = 0 ∧
    recCheck 2 (layout [(1, 4226)]) = 12 := by and_intros <;> decide +kernel

/-- ControlRegisters: each class, a mask that is zero and one that is not, room and none, the numbers that U reads as
zero. -/
theorem witness_ControlRegisters :
    csrClass 0x010 = .none ∧ csrClass 0x000 = .k ∧ csrClass 0x020 = .t ∧ csrClass 0x025 = .c ∧
    csrMask 0x020 .u = 0 ∧ csrMask 0x000 .u ≠ 0 ∧ State.reset.core.cbuf.length < 64 ∧
    State.reset.core.iss.stopped = false ∧
    ¬ fullSeg.core.cbuf.length < 64 ∧ (0 : Fin 64).val = State.reset.core.vi ∧ Level.s ≠ .u ∧
    (Tab.get hostedCtx.ctxs hostedCtx.core.self.1).isSome = true := by decide +kernel

/-- ControlRegisters: 07 R157, a write from the highest threshold down: t_save too high, t_throttle above what t_save kept,
t_migrate taken. -/
theorem test_limits :
    (State.reset.csrCommit .h 0x061 0x000006C006300500).limH = 0x06E0069006300500 ∧
    (State.reset.csrCommit .h 0x061 0x0000062006300620).limH = 0x06E00620064005F0 := by decide +kernel

/-- QueryAndPairSlots: each answer of PAIRSET and each item of BUDQ; a step to read joules of. -/
theorem witness_QueryAndPairSlots :
    (onCore fun c => { c with level := .s }).core.level ≠ .u ∧
    (0x20000 : Word) &&& ~~~(0x103FF : Word) ≠ 0 ∧ (0x103FF : Word) &&& ~~~(0x103FF : Word) = 0 ∧
    (0x003FF : Word).getLsbD 16 = false ∧ Tab.get State.reset.ctxs 0 = none ∧
    (Tab.get atZero.ctxs 0).map (·.vi) = some 0 ∧ ((atZero.core.seat.map (·.vi)).getD 0) = 0 ∧
    ((15 : Word).extractLsb' 0 4).toNat = 15 ∧ 64 < ((65 : Word).extractLsb' 0 7).toNat ∧
    ((64 : Word).extractLsb' 0 7).toNat ≤ 64 ∧ (64 : Word).getLsbD 16 = false := by decide +kernel

/-- QueryAndPairSlots: an interface whose cluster has its pairs and none in force; a release of permits; each counter of
JRD, each source of THQ. -/
theorem witness_QueryAndPairSlots_answers :
    (0x10000 : Word).getLsbD 16 = true ∧ (0x10000 : Word) &&& ~~~(0x103FF : Word) = 0 ∧ State.reset.viOf 0 = none ∧
    (State.reset.getCore 0).quarantined = false ∧ (State.reset.getCore 3).quarantined = false ∧
    ((0x10000 : Word).extractLsb' 0 7).toNat = 0 ∧ ((0x10001 : Word).extractLsb' 0 7).toNat ≠ 0 ∧
    (0 : Word).extractLsb' 0 2 = 0 ∧ (1 : Word).extractLsb' 0 2 = 1 ∧ (2 : Word).extractLsb' 0 2 = 2 ∧
    (7 : Word).extractLsb' 0 2 = 3 ∧ (running id).core.seat = some seat0 ∧
    (State.reset.clusterSensors 0).all (fun o => o == 0) = true ∧ 0 ∈ State.reset.clusterSensors 0 := by
  and_intros <;> decide +kernel

/-! ## What meets the hypotheses of the statements: memory and engines -/

/-- A step of 4 loaves, loaf 0 held and live, loaf 1 held and past its life, two registers. -/
def spState (x1 x2 : Word) : State :=
  { (running fun c => { c with
      level := .u
      arch := (c.arch.setX 1 x1).setX 2 x2
      sp := { c.sp with map := [(0, 0), (1, 1)], holder := [(0, .step), (1, .step)]
                        loaf := [(0, (Loaf.mk 100 100)), (1, (Loaf.mk 5 5))] } }) with tick := 50 }

/-- A step whose first two pages and the fourth are translated one to one, every right granted at every scope. -/
def mapped (x1 : Word) : State :=
  let page := fun (a : Nat) => (Tlb.mk 0 a 4096 a 0x00070000000000FF 0)
  let s := atZero
  { s with core := { s.core with
    arch := s.core.arch.setX 1 x1
    port := { s.core.port with tlb := [page 0, page 4096, page 12288] } } }

/-- A record of rank 2: 32 × 16 elements of a format, in a space. -/
def tile (elem : Nat) (sp : Bool) : Rec :=
  recSet (recSet (recSet (recSet (recSet (recSet 0 1 (16 * elem + (if sp then 8 else 0) + 2)) 2 32) 3 16) 7 128) 11 32) 12 16

/-- A step with records D0 and D1 and the registers of a group at X4. -/
def shaped (d0 d1 : Rec) (x4 x6 : Word) : State :=
  running fun c => { c with level := .u, arch := { (c.arch.setX 4 x4).setX 6 x6 with
    d := (c.arch.d.set 0 d0).set 1 d1 } }

/-- QueryAndPairSlots: loaves live, past their life and not held. -/
theorem witness_QueryAndPairSlots_loaves :
    (spState 0 0).core.heldLoaf 0 = some 0 ∧ (spState 0 0).core.heldLoaf 1 = some 1 ∧ (spState 0 0).core.heldLoaf 2 = none ∧
    (spState 0 0).tick ≤ ((spState 0 0).core.sp.loafAt 0).expiry ∧ ((spState 0 0).core.sp.loafAt 1).expiry < (spState 0 0).tick ∧
    (∀ e ∈ (spState 0 0).core.drain, e.kind = .statfl) := by and_intros <;> decide +kernel

/-- ScratchpadSlots: an access of a live loaf at its edge, and offsets that are misaligned, of a loaf not held, and of a
loaf past its life. -/
theorem witness_ScratchpadSlots :
    (3584 % 64 = 0 ∧ (∀ l < 4, 3584 / 4096 ≤ l → l ≤ (3584 + 512 - 1) / 4096 →
      ((spState 0 0).core.loafView (spState 0 0).tick l) = (true, true))) ∧
    (spState 0 0).core.spPoisoned 3584 512 = false ∧ (spState 0 0).core.cbuf.length < 64 ∧
    addr (spState 8192 33) (.x 1) 0 64 = 8192 ∧ ((spState 0 0).core.loafView 50 2).1 = false ∧
    addr (spState 8192 33) (.x 2) 0 64 % 64 ≠ 0 ∧ ((spState 0 0).core.loafView 50 1) = (true, false) ∧
    ITy.i8.width ≠ 4 ∧ ITy.i4.width = 4 ∧ (6 : BitVec 3) ≠ 7 := by decide +kernel

/-- ScratchpadSlots, loaf management: the whole footprint, and one loaf past it. -/
theorem witness_ScratchpadSlots_management :
    (((0x00040000 : Word).extractLsb' 0 10).toNat + ((0x00040000 : Word).extractLsb' 16 10).toNat ≤
      ((spState 0 0).core.seat.map (·.footprint)).getD 0) ∧
    (((spState 0 0).core.seat.map (·.footprint)).getD 0 <
      ((0x00040001 : Word).extractLsb' 0 10).toNat + ((0x00040001 : Word).extractLsb' 16 10).toNat) ∧
    (∀ l < 2, 0 ≤ l → l < 0 + 2 → ((spState 0 0).core.loafView 50 l).1 = true) ∧
    (∀ l < 1, 0 ≤ l → l < 0 + 1 → ((spState 0 0).core.loafView 50 l).2 = true) := by decide +kernel

/-- SegmentEntries: room for one more, and none. -/
theorem witness_SegmentEntries : (spState 0 0).core.cbuf.length < 64 ∧ ¬ fullSeg.core.cbuf.length < 64 := by
  decide +kernel

/-- GlobalLoads: pages that resolve, with and without an ordering scope, a gather, and a word with no withheld STF. -/
theorem witness_GlobalLoads :
    (resolve (mapped 64) (addr (mapped 64) (.x 1) 1 8) 8 8 .read none .scalar 0).1 = .ok [(72, 72, 8)] ∧
    (resolve (mapped 64) (addr (mapped 64) (.x 1) 0 8) 8 8 .read (some (scopeCode .chip)) .scalar 0).1 = .ok [(64, 64, 8)] ∧
    (resolve (mapped 64) (addr (mapped 64) (.x 1) 1 64) 512 64 .read none .vector 0).1 = .ok [(128, 128, 512)] ∧
    (resolve (mapped 64) (addr (mapped 64) (.x 1) 0 64) 512 64 .read (some (scopeCode .chip)) .vector 0).1 =
      .ok [(64, 64, 512)] ∧
    ((resolveLanes 1 .read 0 ((List.range 64).map (laneAddr (mapped 64) (.x 1) (.v 1))) (mapped 64)).1.map List.length) =
      .ok 64 ∧
    (resolve (mapped 64) 64 128 64 .read none .vector 0).1 = .ok [(64, 64, 128)] ∧
    (resolve (mapped 64) 64 8 8 .atomic none .future 2).1 = .ok [(64, 64, 8)] ∧ (mapped 64).futureBytes 64 = List.replicate 8 none ∧
    (resolve (mapped 64) 64 8 8 .atomic (some (scopeCode .chip)) .future 2).1 = .ok [(64, 64, 8)] ∧
    (withheld (mapped 64) (.stf 64 64 5 none)).futureBytes 64 = (toBytes 8 5).map some ∧
    (mapped 64).core.cbuf = [] ∧ (mapped 64).core.drain = [] ∧
    ((mapped 64).core.sx (.x 1)).toNat % 64 = 0 ∧ ((mapped 8).core.sx (.x 1)).toNat % 64 ≠ 0 := by
  and_intros <;> decide +kernel

/-- GlobalStores: one page, two pages, the lanes of a scatter, a future. -/
theorem witness_GlobalStores :
    (resolve (mapped 64) (addr (mapped 64) (.x 1) 1 8) 8 8 .write none .scalar 1).1 = .ok [(72, 72, 8)] ∧
    (resolve (mapped 64) (addr (mapped 64) (.x 1) 0 8) 8 8 .write (some (scopeCode .chip)) .scalar 1).1 =
      .ok [(64, 64, 8)] ∧
    (resolve (mapped 64) (addr (mapped 64) (.x 1) 0 64) 512 64 .write none .vector 1).1 = .ok [(64, 64, 512)] ∧
    (resolve (mapped 4032) (addr (mapped 4032) (.x 1) 0 64) 512 64 .write none .vector 1).1 =
      .ok [(4032, 4032, 64), (4096, 4096, 448)] ∧ 64 + 448 = 512 ∧
    (resolve (mapped 4032) (addr (mapped 4032) (.x 1) 0 64) 512 64 .write (some (scopeCode .chip)) .vector 1).1 =
      .ok [(4032, 4032, 64), (4096, 4096, 448)] ∧
    ((resolveLanes 1 .write 1 ((List.range 64).map (laneAddr (mapped 64) (.x 1) (.v 1))) (mapped 64)).1.map List.length) =
      .ok 64 ∧
    (resolve (mapped 64) 64 8 8 .atomic none .future 2).1 = .ok [(64, 64, 8)] ∧ (mapped 64).core.cbuf.length < 64 := by
  and_intros <;> decide +kernel

/-- Atomics: an even and an odd first register, a word that resolves for each size. -/
theorem witness_Atomics :
    (4 : SDst).val % 2 = 0 ∧ (5 : SDst).val % 2 = 1 ∧
    (resolve (mapped 64) 64 8 8 .atomic (some (scopeCode .chip)) (.atomic AOp.cas.hostOk) 2).1 = .ok [(64, 64, 8)] ∧
    (resolve (mapped 68) 68 4 4 .atomic (some (scopeCode .core)) (.atomic AOp.maxu.hostOk) 2).1 = .ok [(68, 68, 4)] ∧
    (resolve (mapped 66) 66 4 4 .atomic (some (scopeCode .core)) (.atomic AOp.maxu.hostOk) 2).1 =
      .error (IssueFault.mk 0x06 0 66) := by decide +kernel

/-- Fences: the paths at their bounds, room and none. -/
theorem witness_Fences :
    ((0 : BitVec 3) ≠ 4 ∧ (0 : BitVec 3).toNat ≤ 4 ∧ (4 : BitVec 3).toNat ≤ 4) ∧ 4 < (5 : BitVec 3).toNat ∧
    (spState 0 0).core.cbuf.length < 64 ∧ ¬ fullSeg.core.cbuf.length < 64 := by decide +kernel

/-- MatrixSlots: a record that each command takes, one that fails its own checks, one that fails the layout checks;
regions idle and past the last. -/
theorem witness_MatrixSlots :
    (recCheck (shaped (tile 7 true) 0 0 0).gangSize (tile 7 true) = 0 ∧ wldOk (tile 7 true) 0 = true ∧
      mmaOk (tile 7 true) 0 = true ∧ accOk (tile 7 true) 0 false = true ∧ accOk (tile 7 true) 0 true = true) ∧
    mmaOk (tile 7 false) 0 = false ∧ recCheck 1 (tile 7 false) = 0 ∧ recCheck 1 0 = 1 ∧ recCheck 1 (tile 14 true) = 2 ∧
    mgrpOk 0 = true ∧ mgrpOk 8 = false ∧ aCol 0x1700 < 24 ∧ 24 ≤ aCol 0x1800 ∧
    (spState 0 0).regionBusy (spState 0 0).core.pcore 3 = false ∧
    ((spState 0 0).core.block 0 23).map (fun v => v.toNat % 2) = .ok 0 ∧ barOpt (spState 0 0) none none := by
  and_intros <;> first | decide +kernel | exact .inl ⟨rfl, rfl⟩

/-- CopyCommands: records and operands that each command takes, and those that trap. -/
theorem witness_CopyCommands :
    barRef (shaped (tile 7 false) 0 0 0) (.idx 5) true = some (BarRef.mk false 0 5) ∧
    (recCheck 1 (tile 7 false) = 0 ∧ plainRec (tile 7 false) = true ∧ mcastOf (tile 7 false) = 0 ∧
      0 + boxBytes (tile 7 false) ≤ 3145728 ∧ 2 ≤ rankOf (tile 7 false)) ∧
    weightOk (shaped (tile 7 false) 0 0 0) (tile 7 false) 0 = true ∧
    followOk (tile 7 false) 0 (tile 7 true) 0 = true ∧ boxElems (tile 7 false) = boxElems (tile 8 true) ∧
    (elemOf (tile 8 false) = 8 ∧ recCheck 1 (tile 8 false) = 0 ∧ unitBytes (tile 8 false) = 2) ∧
    (6 : SDst).val % 2 = 0 ∧ (8 : SDst).val % 4 = 0 ∧ (6 : SDst).val % 4 ≠ 0 ∧ (7 : SDst).val % 2 = 1 ∧
    recCheck 1 (0 : Rec) ≠ 0 ∧ ¬ 3145728 + boxBytes (tile 7 false) ≤ 3145728 ∧ 3 % unitBytes (tile 8 false) ≠ 0 := by
  decide +kernel

/-- A pipe endpoint 0 of a role. -/
def piped (role : Nat) : State := running fun c => { c with
  level := .u, eng := { c.eng with pipes := c.eng.pipes.set 0 (Pipe.mk role 2 0 0 0 [] 0) } }

/-- EngineSlots: a writer's endpoint, a reader's and none; a packet on and off its alignment. -/
theorem witness_EngineSlots :
    (piped 1).core.eng.pipes[0].role = 1 ∧ (piped 2).core.eng.pipes[0].role = 2 ∧ (piped 0).core.eng.pipes[0].role = 0 ∧
    ((withX 64 32).core.sx (.x 1)).toNat % 64 = 0 ∧ ((withX 64 32).core.sx (.x 2)).toNat % 64 ≠ 0 ∧
    (piped 1).core.cbuf.length < 64 := by decide +kernel

/-- BarrierSlots: names inside and outside the context, the range of a byte expectation at its ends, a barrier that the
segment moves, phases that differ and that agree. -/
theorem witness_BarrierSlots :
    (mapped 5).lcores = 1 ∧ (((5 : Word).extractLsb' 8 10).toNat < 1) ∧ (1 ≤ ((0x105 : Word).extractLsb' 8 10).toNat) ∧
    (-(2 ^ 39) ≤ (0x7FFFFFFFFF : Word).toInt ∧ (0x7FFFFFFFFF : Word).toInt ≤ 2 ^ 39 - 1) ∧
    ¬ (-(2 ^ 39) ≤ (0x8000000000 : Word).toInt ∧ (0x8000000000 : Word).toInt ≤ 2 ^ 39 - 1) ∧
    (-(2 ^ 39) ≤ (0xFFFFFF8000000000 : Word).toInt) ∧ ¬ (-(2 ^ 39) ≤ (0xFFFFFF7FFFFFFFFF : Word).toInt) ∧
    barRef (mapped 5) (.idx 3) true = some (BarRef.mk false 0 3) ∧ barRef (mapped 0x105) (.name (.x 1)) true = none ∧
    barRef (mapped 5) (.idx 3) false = some (BarRef.mk false 0 3) ∧ (mapped 5).core.cbuf = [] ∧
    (EKind.barrier (BarRef.mk false 0 3) .arrive).movesBar 0 0 3 = true ∧
    barPhase ((mapped 5).core.bar 3) = 0 ∧ (0xFFFF : Word).extractLsb' 0 16 ≠ 0 ∧ (0x10000 : Word).extractLsb' 0 16 = 0 := by
  decide +kernel

/-! ## What meets the hypotheses of the statements: what happens to a core -/

/-- A core of a step with one pending result. -/
def waiting (d : PDst) (w : Wait) (f : Core → Core) : State :=
  running fun c => f { c with level := .u, pend := [(Pend.mk d w 7 0 0 true 0 0 false)] }

/-- A core with one committed entry of its own. -/
def draining (k : EKind) : State :=
  running fun c => { c with level := .u, drain := [(Entry.mk k .u 0 0 0 (Owner.mk 0 0) 1)] }

/-- Logical core 0 of context 0 stands on core 0: its map entry and its diversion entry say so. -/
def hosted : State :=
  { atZero with
    ctxs := [(0, { plainCtx with div := 0x1000, map := 0x2000 })]
    mem := { atZero.mem with bytes := (atZero.mem.bytes.putN 0x1000 1 1).putN 0x2000 4 0x80000000 }
    core := atZero.core.setBar 3 (3 * 2 ^ 90) }

/-- A step of one member on core 0, and its task. -/
def oneStep : State :=
  { hosted with steps := [(Step.mk 0 0 [] .resident 0 [0] [0] 0 0 0 0 0 0 0 none false [] [] 0 0 [])] }

/-- A result due in this beat. -/
def due (d : SDst) (v : Word) : Flight := (Flight.mk 0 (.x d v) none 0 true 0 0)

/-- A request of LDF with a back-off. -/
def ldfAt (retry : Nat) : State := waiting (.x 1) (.future 64 64 none false retry (List.replicate 8 none)) id

/-- ResultLandings: two results due together for one register, on a core that is awake and on one that sleeps. -/
theorem witness_ResultLandings :
    ((running fun c => { c with sleep := some (9, 0), flight := [due 1 5, due 1 6] }).switch 0).core.sleep = some (9, 0) ∧
    (((running fun c => { c with flight := [due 1 5, due 1 6] }).switch 0).core.flight = [due 1 5, due 1 6]) ∧
    (due 1 5).due ≤ ((running fun c => c).switch 0).core.beat ∧ (due 1 5).dst = .x 1 5 ∧ (due 1 6).dst = .x 1 6 ∧
    (∀ f ∈ [due 1 5, due 1 6], f.isCsr = false) ∧ (1 : SDst) ≠ 0 := by decide +kernel

/-- PendingLandings: each thing waited for, come and not come. -/
theorem witness_PendingLandings :
    ((waiting (.x 1) (.barrier 3 0) id).switch 0).core.pend[0]?.map (·.dst) = some (.x 1) ∧
    barPhase (((waiting (.x 1) (.barrier 3 0) id).switch 0).core.bar 3) = 0 ∧
    (piped 2).core.eng.pipes[0].entries[0]? = none ∧
    (Pipe.mk 2 2 0 0 0 [7] 0).entries[0 - (Pipe.mk 2 2 0 0 0 [7] 0).base]? = some 7 ∧
    ((waiting (.v (.v 1)) (.accrd 0 0) id).switch 0).regionBusy 0 0 = false ∧
    (∀ m ∈ ((waiting (.x 1) (.mwait [9] none) id).switch 0).matrixWork 0, m.id ∉ [9]) ∧
    ((waiting (.x 1) (.load [(Piece.mk 64 64 (List.replicate 8 none) false)] 3 0 none true) id).switch 0).core.loadBefore 0
      [(Piece.mk 64 64 (List.replicate 8 none) false)] = false ∧
    nodeOf 64 ≠ 3 ∧
    (readPieces true [(Piece.mk 64 64 (List.replicate 8 none) false)] (waiting (.x 1) (.futureFwd 0 none) id)).1.isOk = true := by
  and_intros <;> decide +kernel

/-- PendingLandings: a higher slot of the same bundle that has written the register, an older result still in flight, a barrier
that the core itself moves, the beats that BWAIT and MWAIT last, a prefetch, a FREEZE before and after its end. -/
theorem witness_PendingLandings_order :
    (∃ f ∈ [(Flight.mk 0 (.x 1 5) none 0 true 0 3)], f.aims (.x 1) = true ∧ f.issued = 0 ∧ 0 < f.pos ∧ f.due ≤ 0) ∧
    (∃ f ∈ [(Flight.mk 9 (.x 1 5) none 0 true 0 3)], f.aims (.x 1) = true ∧ f.issued < 1 ∧ 0 < f.due) ∧
    (∀ f ∈ (waiting (.x 1) (.barrier 3 0) id).core.flight, f.aims (.x 1) = true → f.issued < 0 → f.due ≤ 0) ∧
    (draining (.barrier (BarRef.mk false 0 3) .arrive)).core.movesBar 3 = true ∧
    (waiting (.x 1) (.barrier 3 1) id).core.movesBar 3 = false ∧
    max (waiting (.x 1) (.barrier 3 1) id).core.ltime 0 < 0 + 2 * (waiting (.x 1) (.barrier 3 1) id).cycle 0 ∧
    0 + 4 * State.reset.cycle 0 ≤ max (waiting (.x 1) (.mwait [] none) fun c => { c with ltime := 99999999 }).core.ltime 0 ∧
    ((waiting .none (.pref 64 64 false) id).switch 0).core.blockedAt 0 = false ∧
    ((waiting (.x 1) (.freeze 0 4 false none) id).switch 0).core.pend[0]?.map (·.wait) = some (.freeze 0 4 false none) ∧
    ((waiting (.x 1) (.freeze 0 4 false (some 2)) id).switch 0).core.pend[0]?.map (·.wait) = some (.freeze 0 4 false (some 2)) :=
  by and_intros <;> decide +kernel

/-- PendingLandings: a shadow record with a field result of a higher slot of its bundle, a BWAIT behind a load with acquire order
and behind none. -/
theorem witness_PendingLandings_order_of_slots :
    ((waiting (.sd 2) (.futureFwd 0 none) fun c => { c with
        flight := [(Flight.mk 0 (.shf 2 1 5) none 0 true 0 3), (Flight.mk 0 (.shf 3 1 5) none 0 true 0 3)] }).core.flight.filter
      fun f => f.aims (.sd 2) && decide (f.issued = 0) && decide (0 < f.pos) && decide (f.due ≤ 0)) =
        [(Flight.mk 0 (.shf 2 1 5) none 0 true 0 3)] ∧
    (waiting (.x 1) (.barrier 3 1) id).core.loadHolds 0 = false ∧
    ({ (waiting (.x 1) (.barrier 3 1) id).core with pend := [(Pend.mk (.x 2) (.load [] 3 0 (some .gang) true) 7 0 0 true 0 0 true),
      (Pend.mk (.x 1) (.barrier 3 1) 7 0 0 true 0 0 false)] } : Core).loadHolds 1 = true := by decide +kernel

/-- FutureRequests: before and after the back-off, a full word and an empty one, a slice with room; nothing that holds the
request back, and an acquire that does. -/
theorem witness_FutureRequests :
    ((ldfAt 9).getCore 0).pend[0]?.map (·.wait) = some (.future 64 64 none false 9 (List.replicate 8 none)) ∧
    (ldfAt 9).tick < 9 ∧ 0 ≤ (ldfAt 0).tick ∧ ((ldfAt 0).getCore 0).blockedAt 0 = false ∧
    ((ldfAt 0).getCore 0).writesWord 64 = false ∧ ((ldfAt 0).getCore 0).refusedBefore 0 64 = false ∧
    ((ldfAt 0).getCore 0).windowRoom = true ∧ ((ldfAt 0).getCore 0).readBefore 0 64 = false ∧
    (∀ q ∈ (ldfAt 0).core.pend, ((ldfAt 0).getCore 0).laterFixed q = false) ∧
    (∀ q ∈ (ldfAt 0).core.pend, ({ (ldfAt 0).core with flight := [(Flight.mk 9 (.x 1 5) none 0 true 0 3)] } : Core).laterFixed
      { q with beat := 1 } = true) ∧
    NSet.has ([8] : NSet) (64 / 8) = true ∧ NSet.has State.reset.mem.full (64 / 8) = false ∧
    (fetchPoison ((ldfAt 0).payer 0) 64 8 (ldfAt 0)).1 = none ∧
    (State.reset.mem.defer.filter fun d => nodeOf d.pa == nodeOf 64 && d.slice == sliceOf 64).length < 32 ∧
    32 ≤ ((List.replicate 32 (Deferred.mk (sliceOf 64) 64 0)).filter fun d => nodeOf d.pa == nodeOf 64 && d.slice == sliceOf 64).length := by
  and_intros <;> decide +kernel

/-- DrainedEntries: nothing to drain, and one entry of each kind; stores at the last byte of memory. -/
theorem witness_DrainedEntries :
    (State.reset.switch 0).core.drain = [] ∧
    ((draining (.gStore [(Chunk.mk 0 64 [1, 2])] none)).switch 0).core.drain.length = 1 ∧ 2 ^ 38 - 2 + 2 ≤ 2 ^ 38 ∧
    (∀ x, Tab.get (draining .statfl).ctxs 0 = some x → x.logBase = 0) ∧
    poisonOf ((draining (.atom .add 64 64 8 0 1 .plain .chip (some 1) 0)).switch 0) 64 8 = none ∧
    ((draining .statfl).switch 0).core.self = (0, 0) ∧ ((draining .statfl).switch 0).core.seat ≠ none ∧
    (draining (.fenceRel .chip)).acked 0 0 .chip = true ∧ ((State.reset.switch 0).core.coversNext = false) ∧
    (running fun c => { c with port := { c.port with acks := [(Ack.mk 1 0 0 0 0 0 0 false)] } }).acked 0 0 .chip = false ∧
    (hosted.barUpdate 0 0 3 (.expect 5)).1 = .landed ∧ (oneStep.place 0 0 = .resident 0) := by
  and_intros <;> decide +kernel

/-- DrainedEntries: a copy command behind a plain store may go first, a store behind another and a command behind a release may
not; a control register of a kernel that has left. -/
theorem witness_DrainedEntries_overtaking :
    let e := fun (k : EKind) => Entry.mk k .u 0 0 0 (Owner.mk 0 0) 1
    let c := fun (l : List EKind) => { (running id).core with drain := l.map e }
    let store := EKind.spStore [(Chunk.mk 0 0 [1])]
    let cmd := EKind.matrix (MCmd.mk 0 .mgrp 0 3 none 0 .u false 0 0 (Owner.mk 0 0) [0] false [] none 0 false 0)
    (c [store, cmd]).overtaker = some 1 ∧ (c [store, store]).overtaker = none ∧ (c [cmd]).overtaker = none ∧
    (c [.gStore [] (some .chip), cmd]).overtaker = none ∧ cmd.isEngine = true ∧ store.isPassed = true ∧
    ((running id).core.self.1 = 0 ∧ (running id).core.seat ≠ none) ∧ (onCore id).core.seat = none := by decide +kernel

/-- TrapEntry: a kernel, a steward outside a trap, and one in a trap. -/
theorem witness_TrapEntry :
    (onCore fun c => { c with level := .u }).core.level = .u ∧
    ¬ (onCore fun c => { c with level := .s }).core.csr.status.getLsbD 2 = true ∧
    ((onCore fun c => { c with level := .s, csr := { c.csr with status := 4 } }).core.level ≠ .u ∧
      (onCore fun c => { c with level := .s, csr := { c.csr with status := 4 } }).core.csr.status.getLsbD 2 = true) := by
  decide +kernel

/-- CheckpointSlots: a pending register and none, a store to commit, a step that would not yield, contexts known and
unknown, each kind of FREEZE request. -/
theorem witness_CheckpointSlots :
    (∃ q ∈ (waiting (.x 1) (.barrier 3 0) id).core.pend, q.dst ≠ .none) ∧
    ¬ (∃ q ∈ (spState 0 0).core.pend, q.dst ≠ .none) ∧
    (∀ e ∈ (draining (.gStore [] none)).core.drain, e.kind.atCommit = false) ∧
    (∀ e : Fin 8, (spState 0 0).core.arch.rd[e] = (spState 0 0).core.eng.pipes[e].base) ∧
    (spState 0 0).checkpoint.wouldYield = false ∧ (spState 0 0).checkpoint.core.awaitsOld = false ∧
    ((0x30000 : Word).extractLsb' 16 2).toNat = 3 ∧ (0x40000 : Word) &&& ~~~(0x303FF : Word) ≠ 0 ∧
    ((0x203FF : Word).extractLsb' 16 2).toNat ≠ 3 ∧ (0x203FF : Word) &&& ~~~(0x303FF : Word) = 0 ∧
    Tab.get (spState 0 0).checkpoint.ctxs 0 = none ∧ (Tab.get atZero.checkpoint.ctxs 0).map (·.vi) = some atZero.core.vi ∧
    atZero.checkpoint.core.frzCk ≠ some atZero.checkpoint.core.ckId := by
  and_intros <;> decide +kernel

/-- A core whose kernel stands at the end of a slot. -/
def ending (p : Phase) : State := running fun c => { c with level := .s, phase := p, csr := { c.csr with status := 4, save := 0x8000 } }

/-- SlotEnds: each slot at its end, with and without a pending register, with an atomic of its own still draining; the
levels that ERET can and cannot go to. -/
theorem witness_SlotEnds :
    ((waiting (.x 1) (.barrier 3 0) id).switch 0).core.pend ≠ [] ∧ ((ending .stepEnd).switch 0).core.pend = [] ∧
    ((ending (.sys 1 2 8)).switch 0).core.phase = .sys 1 2 8 ∧ ((ending (.eret 2 8)).switch 0).core.phase = .eret 2 8 ∧
    ((ending .stepEnd).switch 0).core.phase = .stepEnd ∧
    (∀ e ∈ (ending .stepEnd).core.cbuf ++ (ending .stepEnd).core.drain, e.kind = .statfl) ∧
    ({ ending .stepEnd with core := (ending .stepEnd).core.landAll } : State).checkpoint.core.awaitsOld = false ∧
    (draining (.atom .add 64 64 8 0 1 .plain .chip (some 1) 0)).core.awaitsOld = true ∧
    2 ≤ ((2 : Word).extractLsb' 0 2).toNat ∧ 0 < ((1 : Word).extractLsb' 0 2).toNat ∧
    (((ending .stepEnd).core.csr.status.extractLsb' 0 2).toNat < 2 ∧ (ending .stepEnd).core.csr.ret.toNat % 4 = 0) ∧
    (deriveModulo (ending .stepEnd) (archAt (ending .stepEnd).patched 0x8000 (ending .stepEnd).core.eng.pipes).modq).1.isSome = true ∧
    (ending .stepEnd).core.asyncDue = false ∧
    oneStep.core.seat.map (·.task) = some 0 ∧ (oneStep.stepOf 0 0).map (·.lcores.length) = some 1 := by
  and_intros <;> decide +kernel

/-- A core of context 0 at U with a trap record for it, awake or asleep. -/
def recorded (sleep : Option (Nat × Nat)) : State :=
  { hosted with core := { hosted.core with level := .u, sleep := sleep } }.trapRec 0 0
    (eventRec 0x23 3 0 0 0 0 64 [] 0xFFFFFFFF)

/-- A trap handler on a core that a priority-0 step has claimed. -/
def claimed : State := running fun c => { c with preempt := some (5, true), csr := { c.csr with status := 4 } }

/-- CoreInterruptions: a sleeping core and one awake, with a record due and none; a core at a boundary and one that is not;
loaves held by a step and by a proofing area. -/
theorem witness_CoreInterruptions :
    ((running fun c => { c with sleep := some (9, 0) }).switch 0).core.sleep = some (9, 0) ∧ (State.reset.switch 0).core.sleep = none ∧
    (State.reset.switch 0).pendingRec = none ∧ ((recorded none).switch 0).pendingRec.isSome = true ∧
    ((recorded none).switch 0).waits.1 = false ∧ ((recorded (some (9, 0))).switch 0).pendingRec.isSome = true ∧
    ((recorded (some (9, 0))).switch 0).core.phase = .run ∧ ((recorded (some (9, 0))).switch 0).tick < 9 ∧
    ((recorded (some (9, 0))).switch 0).waits.1 = true ∧ (State.reset.getCore 0).seat = none ∧
    (oneStep.getCore 0).atBoundary = true ∧ (oneStep.getCore 0).phase ≠ .halted ∧
    (((oneStep.rollbackAt 0).park 0).getCore 0).seat = none ∧ (oneStep.stepOf 0 0).map (·.cores) = some [0] ∧
    (oneStep.getCore 0).preempt = none ∧ (running fun c => { c with level := .s }).core.atBoundary = false ∧
    claimed.core.preempt = some (5, true) ∧ claimed.core.csr.status.getLsbD 2 = true ∧ claimed.core.mustDrain = false ∧
    claimed.core.phase = .run ∧ claimed.core.seat ≠ none ∧
    ((spState 0 0).getCore 0).heldLoaf 0 = some 0 ∧ ((spState 0 0).getCore 0).heldLoaf 3 = none ∧
    (State.reset.getCore 0).enginesBusy = false := by
  and_intros <;> decide +kernel

/-- CoreInterruptions: where an engine works, where a logical core is resident and where it is not in use. -/
theorem witness_CoreInterruptions_places :
    oneStep.place 0 0 = .resident 0 ∧ atZero.place 5 0 = .unused ∧ (oneStep.getCore 0).atBoundary = true := by
  refine ⟨?_, ?_, ?_⟩ <;> decide +kernel

/-- A message to logical core 0. -/
def note (st : MState) : Msg := (Msg.mk 0 0 0 (.barrier 3 .arrive) st 0 0 0 1 false none)

/-- A core whose window holds messages. -/
def sending (ms : List Msg) : State :=
  { hosted with core := { hosted.core with port := { hosted.core.port with window := ms } } }

/-- A message on its way to a core. -/
def noteTo (q : Nat) : Msg := { note .sent with dest := some q }

/-- BarrierCounts: a barrier that its logical core owns, arrivals that are and are not awaited, the last of a phase. -/
theorem witness_BarrierCounts :
    (Tab.get hosted.ctxs 0).isSome = true ∧
    (Tab.get hosted.ctxs 0).map (fun x => hosted.divState x 0) = some 1 ∧ (hosted.residentCore 0 0).isSome = true ∧
    (hosted.residentCore 0 0).map (fun k => barOwner (k.bar 3)) = some (0, barName 0 3) ∧
    barPend 0 = 0 ∧ (let b := barApply 0 (.init 1); barPend b = 1 ∧ barBytes b = 0 ∧ barExp b ≠ 0) ∧
    ¬ barPend (barApply 0 (.init 2)) = 1 ∧ (0 : Nat) < 2 ^ 128 ∧ barPend (barApply 0 (.init 2)) ≠ 0 := by
  and_intros <;> decide +kernel

/-- FabricMessageEvents: a message behind none and behind another; not resolved yet, under way to the core on which its
logical core runs, and to one that it has left, with a forwarding entry and without. -/
theorem witness_FabricMessageEvents :
    ((sending [note .sent]).getCore 0).port.window[0]? = some (note .sent) ∧ (note .sent).st = .sent ∧
    (∃ o ∈ [note .sent].take 1, o.ctx = 0 ∧ o.lcore = 0 ∧ o.st ≠ .accepted) ∧
    ¬ ((note .sent).st ≠ .sent ∨ ∃ o ∈ [note .sent].take 0, o.ctx = 0) ∧ (note .sent).dest = none ∧
    ((sending [note .sent]).lookName (clusterOf 0) 0 0).place 0 0 = .resident 0 ∧
    ((sending [noteTo 0]).getCore 0).seat.map (fun z => (z.ctx, z.lcore)) = some (0, 0) ∧
    ((sending [note .sent]).arrive (note .sent)).1 = .landed ∧ ((sending [noteTo 5]).getCore 5).seat = none ∧
    (sending [noteTo 5]).fwdAt 5 (noteTo 5) = none ∧
    (State.setCore hosted { (Core.reset 5) with port := { (Core.reset 5).port with fwd := [(Fwd.mk 0 0 0 64000)] } }).fwdAt 5 (noteTo 5) =
      some (Fwd.mk 0 0 0 64000) ∧
    (note .accepted).st = .accepted ∧ (note (.refused 4)).st ≠ .accepted ∧ (State.reset.getCore 0).port.fwd[0]? = none := by
  and_intros <;> decide +kernel

/-! ## What meets the hypotheses of the statements: the chip -/

/-- An interface of one cluster with its queue table at 0x3000. -/
def vi0 : Vi := { viAt [] 0 with enabled := true, mask := 1, lclusters := 1, lcores := 16, ctxCount := 4, queueTable := 0x3000 }

/-- A task of one tile step, and that step in a state. -/
def job (nextGen : Nat) : Task :=
  (Task.mk 0 0 0 0 0 0 0 none none 0 none 1 true false [(Variant.mk 0 [(Member.mk 0x8000 1 64)] [])] [] [] [1, 0, 0, 0, 0, 0]
    [1] 1 nextGen [] false 0 0 0)

/-- Its step. -/
def jobStep (st : SState) : Step := (Step.mk 0 0 [0] st 0 [] [] 0 0 0 0 0 0 0 none false [] [] 0 0 [])

/-- A chip on which the interface, the context, the task and the step are in force, with an account. -/
def farm (st : SState) (balance : Int) : State :=
  { State.reset with
    ctxs := hosted.ctxs, vit := State.reset.vit.set 0 (some vi0), tasks := [job 1], steps := [jobStep st]
    accts := [(Acct.mk 0 none balance 1000 0 0 0)] }

/-- The interface with a queue 0 whose descriptor holds bytes at offsets. -/
def queued (bs : List (Nat × Nat × Nat)) : State :=
  { farm .ready 9 with mem := { State.reset.mem with bytes := bs.foldl (fun m b => m.putN (0x3000 + b.1) b.2.1 b.2.2) [] } }

/-- Context 0 with a state and requests. -/
def asked (st : Nat) (rs : List Nat) : State :=
  { hosted with core := State.reset.core, ctxs := [(0, { plainCtx with state := st, stopping := rs })] }

/-- QueueEvents: a queue that runs and one that does not, well and badly formed, empty, one packet, too many; packets of
each answer. -/
theorem witness_QueueEvents :
    ((queued [(9, 1, 1)]).viOf 0).isSome = true ∧
    (queued [(9, 1, 1)]).pnat (0x3000 + 9) 1 = 1 ∧ (queued []).pnat (0x3000 + 9) 1 ≠ 1 ∧
    (queued [(9, 1, 1)]).queueBad 0 0x3000 = true ∧ (queued [(8, 1, 6), (9, 1, 1)]).queueBad 0 0x3000 = false ∧
    ((queued [(9, 1, 1)]).pq 0 0).current = none ∧ ((queued [(9, 1, 1)]).pq 0 0).open_ = [] ∧
    2 ^ (queued [(8, 1, 6)]).pnat (0x3000 + 8) 1 < (queued [(24, 4, 65)]).pnat (0x3000 + 24) 4 ∧
    (queued [(24, 4, 64)]).pnat (0x3000 + 24) 4 ≤ 2 ^ (queued [(8, 1, 6)]).pnat (0x3000 + 8) 1 ∧
    ((queued []).devRead 0 0 64).1 = none ∧ packetBad 0 = true ∧ packetBad 3 = false ∧ packetBad 1 = false ∧
    (Packet.mk 0 3 none).post = none ∧ ((queued []).viOf 0).isSome = true ∧ (queued []).pnat (0x3000 + 16) 8 = 0 ∧
    (queued [(16, 8, 64)]).pnat (0x3000 + 16) 8 ≠ 0 ∧
    (asked 2 []).isFrozen 0 = true ∧ (queued [(9, 1, 1)]).isFrozen 0 = false ∧
    (launchOf 0x0403 (some 0) 0 none).fences.getLsbD 2 = true ∧ (launchOf 3 (some 0) 0 none).fences.getLsbD 2 = false := by
  and_intros <;> decide +kernel

/-- TaskEvents: a task with a step to generate and one without, complete and not; a step that retires. -/
theorem witness_TaskEvents :
    ((farm .ready 9).taskOf 0).isSome = true ∧ (job 1).steps ≤ (job 1).nextGen ∧ (job 0).nextGen < (job 0).steps ∧
    ((farm .ready 9).steps.filter fun u => u.task == 0 && u.state = .blocked).length < 256 ∧
    (∃ k ∈ (farm .ready 9).siblings (job 1), k.done.length < k.steps) ∧ (job 1).retired = false ∧ (job 1).queue = none ∧
    (job 1).graph = none ∧ (job 1).post = none ∧ ({ job 1 with done := [0] } : Task).steps ≤ [0].length ∧
    NSet.has ({ job 0 with done := [0] } : Task).done 0 = true ∧ ({ job 0 with done := [0] } : Task).nextUndone 1 0 = 1 ∧
    NSet.has (job 0).done 0 = false ∧ (farm .ready 9).isFrozen 0 = false ∧
    (job 1).fences.getLsbD 1 = false ∧ ((farm .ready 9).stepOf 0 0).isSome = true := by
  and_intros <;> decide +kernel

/-- The farm with every core of its cluster occupied. -/
def crowded : State :=
  { farm .ready 1000 with
    core := { State.reset.core with seat := some seat0 }
    others := (List.range 15).map fun i => { Core.reset (i + 1) with seat := some seat0 } }

/-- DispatchEvents: nothing to consider, one step that the balance covers and that fits, one that it does not cover, a
step to kill and one that no kill concerns, a core with loaves to spare. -/
theorem witness_DispatchEvents :
    State.reset.considered 0 = [] ∧ (farm .ready 1000).considered 0 = [(job 1, jobStep .ready)] ∧
    ((farm .ready 1000).tenant (job 1)).isSome = true ∧ permitted (job 1) (jobStep .ready) = [0] ∧
    (farm .ready 1000).affords 0 0 (job 1) (jobStep .ready) 0 = true ∧
    (farm .ready 0).affords 0 0 (job 1) (jobStep .ready) 0 = false ∧
    ((farm .ready 1000).tryVariants 0 plainCtx (job 1) (jobStep .ready) [0]).1 = true ∧
    ((farm .ready 0).tryVariants 0 plainCtx (job 1) (jobStep .ready) [0]).1 = false ∧
    (farm .ready 0).lacksEnergy 0 plainCtx (job 1) (jobStep .ready) = true ∧
    (crowded.tryVariants 0 plainCtx (job 1) (jobStep .ready) [0]).1 = false ∧
    crowded.lacksEnergy 0 plainCtx (job 1) (jobStep .ready) = false ∧
    (farm .ready 1000).stepOf 0 0 = some (jobStep .ready) ∧ (jobStep .migrating).state = .migrating ∧
    (job 1).membersOf 0 = [(Member.mk 0x8000 1 64)] ∧ (job 1).preloads = [] ∧ (running id).core.sp.proof = none ∧
    (jobStep .parked).state = .parked ∧ (jobStep .ready).state ≠ .resident ∧
    1 ≤ ((farm .ready 1000).getCore 0).spareLoaves.length ∧ (running id).core.seat ≠ none ∧
    (∀ d ∈ (farm .ready 1000).allCores, d.proofs (job 1) (jobStep .ready) = false) ∧
    (farm .parked 1000).considered 0 = [(job 1, jobStep .parked)] ∧ 0 ∈ (farm .parked 1000).homes vi0 0 := by
  and_intros <;> decide +kernel

/-- DispatchEvents: the step fits on an idle core, whichever the free choice takes. -/
theorem witness_DispatchEvents_fit : ((farm .ready 1000).fit 0 (job 1) (jobStep .ready) 0).1.isSome = true := by
  decide +kernel

/-- ContextLifecycle: no such context, a descriptor that creates none, one in force. -/
theorem witness_ContextLifecycle :
    State.reset.newCtx 0 0 = none ∧ Tab.get State.reset.ctxs 0 = none ∧ (Tab.get hosted.ctxs 0).isSome = true ∧
    (headerOk [] && tableOk []) = false ∧ (∀ t ∈ (asked 0 [4]).tasks, t.ctx ≠ 0) ∧
    (Tab.get (asked 0 [4]).ctxs 0).map (·.stopping) = some [4] ∧
    ((waiting (.x 1) (.freeze 0 4 true none) id).core.pend[0]?).map (·.wait) = some (.freeze 0 4 true none) ∧
    (∃ t ∈ [{ job 1 with graph := some 3 }], t.ctx = 0 ∧ t.graph = some 3 ∧ t.retired = false) := by decide +kernel

/-- A file of one empty section. -/
def tinyFile : List Byte :=
  toBytes 4 0x01424746 ++ toBytes 2 1 ++ toBytes 2 0 ++ toBytes 4 1 ++ toBytes 4 128 ++ toBytes 8 160 ++ toBytes 8 128 ++
    toBytes 4 0 ++ toBytes 4 1 ++ List.replicate 88 0 ++ toBytes 8 2 ++ toBytes 8 160 ++ List.replicate 16 0

/-- ContextLifecycle: a load that ends with status 0. -/
theorem witness_ContextLifecycle_load :
    let s := { farm .ready 9 with vit := State.reset.vit.set 0 (some { vi0 with unsigned := true })
                                  ctxs := [(0, { plainCtx with lclCores := 1 })] }
    headerOk tinyFile = true ∧ tableOk tinyFile = true ∧ regionsOf tinyFile = [] ∧ patchesOf tinyFile = [] ∧
    (s.load 0 tinyFile [] []).1 = 0 := by decide +kernel

/-- ContextRequests: a frozen context that fits, ticks after and before the freeze, a lease that its park has frozen. -/
theorem witness_ContextRequests_resume :
    (asked 2 [6]).fitsHere plainCtx = true ∧ (2 : Nat) = 2 ∧ ¬ (asked 2 [6]).saves.any (fun e => e.1 == 0) = true ∧
    (50 ≤ 70 ∧ 70 + 9 - 50 < 2 ^ 64 ∧ shiftTick 70 9 50 = 29) ∧
    (Lease.mk 3 0 9 true 0 (Owner.mk 0 0)).frozen = true := by decide +kernel

/-- ContextRequests: each request in each state of the context. -/
theorem witness_ContextRequests :
    Tab.get State.reset.ctxs 0 = none ∧ (Tab.get (asked 0 [4]).ctxs 0).map (·.stopping) = some [4] ∧ 4 % 4 = 0 ∧ 5 % 4 = 1 ∧
    6 % 4 = 2 ∧ (((asked 0 [4]).openRequest 0 4).stopCtx 0).coresOf 0 = [] ∧
    (Tab.get (asked 1 [5]).ctxs 0).map (·.state) = some 1 ∧ (Tab.get (asked 2 [6]).ctxs 0).map (·.state) = some 2 ∧
    (asked 2 [6]).saving { plainCtx with state := 2, stopping := [6] } = false ∧
    ({ asked 2 [6] with mem := { State.reset.mem with bytes := Mem.putN [] (plainCtx.header + 72) 2 2 } } : State).fitsHere
      plainCtx = false ∧
    (asked 0 [4]).migrates 0 = false ∧ (farm .migrating 9).migrates 0 = true ∧ (asked 3 [6]).mergesLeft 0 = false ∧
    ({ asked 2 [6] with saves := [(0, true)] } : State).saves.any (fun e => e.1 == 0) = true ∧
    (asked 0 [4]).quiet 0 plainCtx = true ∧
    (asked 0 []).steps = [] ∧ (Tab.get (asked 0 []).ctxs 0).map (·.stopping) = some [] := by decide +kernel

/-- TranslatedAccesses: an address that is not canonical, one that the TLB holds with every right and with none, a
misaligned access and one that does not resolve. -/
theorem witness_TranslatedAccesses :
    canonical (2 ^ 57) = false ∧ canonical 64 = true ∧
    ((mapped 64).core.port.tlb.find? fun t => t.covers 0 64).map (·.leaf) = some 0x00070000000000FF ∧
    (0x00070000000000FF : BitVec 64).getLsbD 2 = true ∧ (0x00070000000000FF : BitVec 64).getLsbD 7 = true ∧
    ((0x00070000000000FF : BitVec 64).extractLsb' 45 2).toNat ≠ 2 ∧ ¬ (0 : BitVec 64).getLsbD 2 = true ∧
    65 % 8 ≠ 0 ∧ (resolve (mapped 64) 0x5000 8 8 .read none .scalar 0).1 = .error (IssueFault.mk 0x04 0 0x5000) ∧
    (resolve (mapped 64) 0x5000 8 8 .write none .scalar 1).1 = .error (IssueFault.mk 0x04 0 0x5000) := by
  and_intros <;> decide +kernel

/-- TranslationEvents: a core without a step, a page held and one not, sectors absent and beyond memory, requests of
the host's translations. -/
theorem witness_TranslationEvents :
    (State.reset.getCore 0).seat = none ∧ (mapped 64).core.seat.isSome = true ∧
    ((mapped 64).core.port.tlb.find? fun t => t.covers 0 64).isSome = true ∧
    ((mapped 64).core.port.tlb.find? fun t => t.covers 0 0x5000) = none ∧
    ((mapped 64).ctlb.find? fun t => t.1 == 0 && t.2.covers 0 0x5000) = none ∧ (mapped 64).core.port.tlb.length < 64 ∧
    2 ^ 38 ≤ 2 ^ 38 ∧ 2 ^ 38 - 1 < 2 ^ 38 ∧ Tab.get State.reset.mem.sys 0 = none ∧ (State.reset.mem.linesOf 0).length < 16 ∧
    (∀ e ∈ State.reset.ctxs, State.reset.stillDraining e.1 0 12 0 = false) ∧ (∀ q ∈ State.reset.pri, q.1 ≠ 0) ∧
    ({ State.reset with pri := [(3, 0, 0)] } : State).pri = [(3, 0, 0)] := by
  and_intros <;> decide +kernel

/-- The chip with a table of 5 levels at 0x10000 that maps the page 0 of context 0 to a leaf. -/
def walked : State :=
  { (mapped 64) with
    ctxs := [(0, { plainCtx with root := 0x10001 })]
    mem := { State.reset.mem with bytes := [(0x10000, 0x11001), (0x11000, 0x12001), (0x12000, 0x13001), (0x13000, 0x14001),
      (0x14028, 0x00070000000050FF)].foldl (fun m b => Mem.putN m b.1 8 b.2) [] } }

/-- TranslationEvents: a walk that ends at a leaf. -/
theorem witness_TranslationEvents_walk :
    (match walk walked { plainCtx with root := 0x10001 } 0x5000 with | .leaf _ _ => true | _ => false) = true := by
  decide +kernel

/-- TranslationCommands: no command, one of each answer, the bounds of the range. -/
theorem witness_TranslationCommands :
    State.reset.xlt[0].cmds = [] ∧ State.reset.ctxInVi 0 0 = false ∧ (farm .ready 9).ctxInVi 0 3 = true ∧
    (farm .ready 9).ctxInVi 0 4 = false ∧ (12 ≤ 12 ∧ 12 ≤ 57) ∧ ¬ (12 ≤ 11 ∧ 11 ≤ 57) ∧ ¬ (12 ≤ 58 ∧ 58 ≤ 57) ∧
    (farm .ready 9).stillDraining 0 0 12 0 = false ∧ (farm .ready 9).reloaded 0 0 = none ∧
    (draining (.gStore [(Chunk.mk 64 64 [1])] none)).stillDraining 0 1 0 0 = true := by
  and_intros <;> decide +kernel

/-- A copy command of the record `tile` in a state, at a progress. -/
def copying (st : CState) (progress : Nat) : CCmd :=
  (CCmd.mk 0 0 0 (Owner.mk 0 0) [0] .u st (.copyOut false) [tile 7 false] [0, 0] 0 progress 0 (BarRef.mk false 0 5) 0 0 false
    [] [] false none false [] [] [] [] false false 0 [])

/-- A core with one copy command and a matrix command. -/
def engines (k : CCmd) (m : MKind) : State :=
  { hosted with core := { hosted.core with
    eng := { hosted.core.eng with bte := [k] }
    mx := { hosted.core.mx with queue := [(MCmd.mk 0 m 0 3 none 0 .u false 0 0 (Owner.mk 0 0) [0] false [] none 0 false 0)], running := true } } }

/-- EngineEvents: copies waiting, running and at their end; matrix commands at the head; an empty statistics queue. -/
theorem witness_EngineEvents :
    (State.reset.getCore 0).nextCopy 0 = none ∧ ((engines (copying .waiting 0) .mgrp).getCore 0).nextCopy 0 = some (copying .waiting 0) ∧
    (((engines (copying .running 0) .mgrp).getCore 0).eng.bte.filter fun k => k.state = .running).length < 8 ∧
    (State.reset.getCore 0).cmdAt 0 = none ∧ ((engines (copying .running 0) .mgrp).getCore 0).cmdAt 0 = some (copying .running 0) ∧
    0 < boxUnits (tile 7 false) ∧ boxUnits (tile 7 false) ≤ (copying .running 512).progress ∧
    (engines (copying .running 0) .mgrp).anyMoving (copying .running 0) [0] = false ∧ (copying .running 0).scaleAt 0 = none ∧
    (copying .running 0).skip = none ∧ (copying .running 0).reads 0 = true ∧ (copying .running 0).isCopym = false ∧
    (copying .running 0).bars = [(BarRef.mk false 0 5)] ∧
    (engines (copying .running 0) .mgrp).windowFits 0 (copying .running 0).remotes = true ∧
    (copying .running 7).joined 7 = false ∧ (copying .running 0).posted = false ∧
    (engines (copying .running 512) .mgrp).storing 0 0 = false ∧
    (engines (copying .running 512) .mgrp).windowFits 0
      ((engines (copying .running 512) .mgrp).postMsgs 0 0 [(BarRef.mk false 0 5)]) = true ∧
    (engines (copying .running 0) .mgrp).windowFits 0 ((engines (copying .running 0) .mgrp).postMsgs 0 3 []) = true ∧
    (pumpScales 0 2048 (engines (copying .running 0) .accclr)).core.mx.acc.wf ∧
    ((engines (copying .running 0) .mgrp).getCore 0).mx.queue.length = 1 ∧ (State.reset.getCore 0).eng.statq = [] ∧
    (engines (copying .running 0) .mgrp).ringWord 0 0 = 0 := by
  and_intros <;> decide +kernel

/-- EngineEvents: each kind of matrix command at the head, with its scale words and without; a COPYM with a target to follow; a
REDC. -/
theorem witness_EngineEvents_kinds :
    ([MKind.mma, .wld, .accld, .accst].all fun m =>
      let s := engines (copying .running 0) m
      let r := pumpScales 0 2048 s
      ((r.getCore 0).mx.queue.map (·.kind)) == [m] && (r.getCore 0).mx.running && r.batchReady (r.getCore 0) &&
        r.windowFits 0 (r.postMsgs 0 0 [])) = true ∧
    mScales 3 = false ∧ ({ copying .running 512 with kind := .copym false } : CCmd).isCopym = true ∧
    ({ copying .running 512 with kind := .copym false } : CCmd).targets = [0] ∧
    ({ copying .running 512 with kind := .copym false } : CCmd).followed = [] ∧
    (engines (copying .running 512) .mgrp).followRoom 0 0 = true ∧
    (let s := engines { copying .running 0 with kind := .copys, recs := [recSet (tile 7 false) 1 (16 * 7 + 2 + 2 ^ 11)] } .mma
     let k := { s.core with mx := { s.core.mx with queue := s.core.mx.queue.map fun m => { m with x := 2 ^ 25 } } }
     ({ s with core := k } : State).batchReady k = false) ∧
    ({ copying .running 512 with kind := .redc 0 } : CCmd).isRedc = true := by
  and_intros <;> decide +kernel

/-- EngineEvents: a GATH that waits, whose logical core is moving, and a read that the bridge has lost. -/
theorem witness_EngineEvents_gath :
    ((engines { copying .waiting 0 with kind := .gath false } .mgrp).getCore 0).nextCopy 0 =
      some { copying .waiting 0 with kind := .gath false } ∧ (copying .waiting 0).table = [] ∧
    ({ hosted with mem := { hosted.mem with bytes := hosted.mem.bytes.putN 0x1000 1 3 } } : State).place 0 0 = .moving ∧
    ({ copying .running 0 with lost := true } : CCmd).reads 0 = true ∧ (copying .running 0).lost = false := by
  and_intros <;> decide +kernel

/-- A core of context 0 with a statistics record and a ring of 256 entries at 0x20000. -/
def ringed : State :=
  { (engines (copying .running 0) .mgrp) with core :=
    let k := (engines (copying .running 0) .mgrp).core
    { k with
      csr := { k.csr with statRing := 0x20000 }, eng := { k.eng with statq := [(Stat.mk 0 1 2 3 4 5)] }
      port := { k.port with tlb := (Tlb.mk 0 0x20000 4096 0x20000 0x00070000000000FF 0) :: k.port.tlb } } }

/-- EngineResults: a record that goes to its ring, and none; accumulators and a weight buffer in form; a record that MMA
takes, an element inside its box; a finite product, a NaN. -/
theorem witness_EngineResults :
    (ringed.getCore 0).eng.statq = [(Stat.mk 0 1 2 3 4 5)] ∧ (Tab.get ringed.ctxs 0).isSome = true ∧
    ringed.ringWord 0 0 = 0x20000 ∧ (State.reset.getCore 0).eng.statq = [] ∧
    ((engineRead ringed 0 0 (Owner.mk 0 0) ringed.core.level (0x20000 + 8) 8).1.map fun r => (ofBytes r.1, r.2)) = .ok (0, false) ∧
    (engineParts 0 0 ringed.core.level .write (pageParts 0x20040 16) ringed).1 = .ok [(0x20040, 16)] ∧
    (State.reset.getCore 0).mx.acc.wf ∧ (State.reset.getCore 0).mx.wb.wf ∧ mmaOk (tile 7 true) 0 = true ∧
    insideAt (tile 7 false) (coords (tile 7 false) 0) = true ∧ spaceSp (tile 7 false) = false ∧
    insideAt (recSet (tile 7 false) 16 64) (coords (recSet (tile 7 false) 16 64) 0) = false ∧
    (∀ p ∈ [FVal.fin false 3 0], p.isFin = true) ∧ (∃ p ∈ [FVal.fin false 3 0], p.isZero = false) ∧
    (∃ p ∈ [FVal.nan false], p.isNan = true) ∧ (FVal.inf true ∈ [FVal.inf true, .inf false]) := by
  and_intros <;> decide +kernel

/-- A board block with nothing of note. -/
def emptyBoard : Board := (Board.mk 300 0xFA50 0x06E00690064005F0 none none [] [7] 7)

/-- ChipRegisters: an entry refused and one taken, no isolated interface, the limits at their bounds, an idle mailbox, an
address that is no register. -/
theorem witness_ChipRegisters :
    State.reset.viRefused 0 { vi0 with lclusters := 2 } = true ∧ State.reset.viRefused 0 vi0 = false ∧ State.reset.loaded = [] ∧
    (300 ≤ ((300 : Word).extractLsb' 0 10).toNat ∧ ((750 : Word).extractLsb' 0 10).toNat ≤ 750) ∧
    ((299 : Word).extractLsb' 0 10).toNat < 300 ∧ 750 < ((751 : Word).extractLsb' 0 10).toNat ∧
    16 ≤ ((16 : Word).extractLsb' 0 16).toNat ∧ ((15 : Word).extractLsb' 0 16).toNat < 16 ∧
    ({ State.reset with bring := 5, board := some { emptyBoard with bridge := some 0 } } : State).bridgeAllowed = true ∧
    State.reset.bridgeAllowed = false ∧
    ({ vi0 with isolated := true } : Vi).isolated = true ∧
    4 ≤ ([1, 2, 3, 4].filter fun e => e != 0).length ∧
    State.reset.mbox[0].reqRd < 16 ∧ State.reset.mbox[0].repWr < 16 ∧ nodeOf 64 ≠ 3 := by
  and_intros <;> decide +kernel

/-- PowerEvents: no island narrowed, leases there and not, a cluster to gate and one not. -/
theorem witness_PowerEvents :
    (∀ i < 4, State.reset.narrow i = false) ∧ (State.reset.clusterAt 0).lease = none ∧
    (({ State.reset with clusters := State.reset.clusters.set 0 { State.reset.clusters[0] with
      lease := some (Lease.mk 3 0 9 false 0 (Owner.mk 0 0)) } } : State).clusterAt 0).lease = some (Lease.mk 3 0 9 false 0 (Owner.mk 0 0)) ∧
    ({ State.reset with clusters := State.reset.clusters.set 0 { State.reset.clusters[0] with
      idle := [99999, 99999, 99999, 99999] } } : State).mayGate 0 = true ∧ State.reset.mayGate 0 = false := by
  and_intros <;> decide +kernel

/-- PowerEvents: an interval of 64-bit time and the last one, an account alone on its island, a chip that has started over. -/
theorem witness_PowerEvents_interval :
    State.reset.wrapped = false ∧ (State.reset.interval + 1) * 10000 < 2 ^ 64 ∧
    2 ^ 64 ≤ (2 ^ 64 / 10000 + 1) * 10000 ∧ ({ State.reset with interval := 5 } : State).wrapped = true ∧
    (let a := Acct.mk 0 none 12 1000 0 0 0
     ([a].filter fun o => o.island == a.island) = [a] ∧ a.island < 4 ∧ a.vi = none) ∧
    (-(2 ^ 31) ≤ (4 : Int) ∧ (4 : Int) ≤ 4 * (1 : Nat) ∧ (4 : Int) < 2 ^ 31) := by and_intros <;> decide +kernel

/-- The bridge with both directions up, or retraining to where they stand. -/
def linked (retries : Nat) (retrain : Option Nat) : State :=
  { State.reset with bridge := { State.reset.bridge with
    tx := (Link.mk true 0 retries [] 0 0 retrain), rx := (Link.mk true 0 retries [] 0 0 retrain) } }

/-- A board whose coolant loop has minima and a limit, with a condition of each kind. -/
def cooled (tick : Nat) (c : Cool) : State :=
  { State.reset with
    tick := tick, coolant := c
    board := some (Board.mk 600 0xFA50 0x06E00690064005F0 none (some (Loop.mk 10 10 0x0320)) [] [] 0) }

/-- BoardEvents: each condition of the cooling system, holding and not; a loop that does not flow; a device image that verifies
in no slot. -/
theorem witness_BoardEvents_cooling :
    let c := State.reset.coolant
    State.reset.loop = none ∧ (cooled 0 c).loop.isSome = true ∧
    (cooled 1000000000 { c with slow := some 0 }).coolingHolds .pump = true ∧
    (cooled 999999999 { c with slow := some 0 }).coolingHolds .pump = false ∧
    (cooled 1000000000 { c with dry := some 0 }).coolingHolds .flow = true ∧
    (cooled 0 { c with reading := some 0x0321 }).coolingHolds .hot = true ∧
    (cooled 0 { c with reading := some 0x0320 }).coolingHolds .hot = false ∧
    (cooled 100000000 { c with heard := 0 }).coolingHolds .silent = true ∧
    (cooled 0 { c with flow := 9 }).flows = false ∧ (cooled 0 { c with flow := 10 }).flows = true ∧
    ({ State.reset with rollback := 1 } : State).bootSlot = none ∧
    ((none : Option Board).filter Board.ok) = none ∧
    Board.ok (Board.mk 300 0xFA50 0x06E00690064005F0 none none [32, BitVec.ofInt 16 (-32)] [7] 7) = true ∧
    Board.ok (Board.mk 299 0xFA50 0x06E00690064005F0 none none [] [7] 7) = false ∧
    Board.ok (Board.mk 600 0xFA50 0x06E00690064005F0 none none [] [6] 7) = false := by
  and_intros <;> decide +kernel

/-- BoardEvents: directions down, up, retraining, at the last retry; the lanes low for the last report and below it;
contexts that run and none; bring-up at a step and at its end. -/
theorem witness_BoardEvents :
    State.reset.bridge.rx.up = false ∧ ((linked 7 none).bridge.rx.up = true ∧ (linked 7 none).bridge.rx.retrain = none) ∧
    ((linked 0 (some 0)).bridge.rx.retrain = some 0 ∧ (linked 0 (some 0)).bridge.tx.retrain = some 0 ∧
      0 = (linked 0 (some 0)).bridge.rx.step) ∧
    (linked 6 none).bridge.tx.retries < 7 ∧ 7 ≤ (linked 7 none).bridge.tx.retries ∧
    (∃ n ∈ ((Link.mk true 0 0 (List.replicate 16 99) 0 0 none).report 15 40 (List.replicate 16 14)).low, 100 ≤ n) ∧
    (∀ n ∈ ((Link.mk true 0 0 (List.replicate 16 98) 0 0 none).report 15 40 (List.replicate 16 14)).low, n < 100) ∧
    (∀ e ∈ State.reset.ctxs, e.2.state ≠ 0) ∧ (∃ e ∈ hosted.ctxs, e.2.state = 0) ∧
    (State.reset.bringFailed = false ∧ State.reset.bring < 7) ∧ 7 ≤ ({ State.reset with bring := 7 } : State).bring ∧
    (∀ k : CoolFault, k ∉ State.reset.coolant.faults) := by
  and_intros <;> decide +kernel

/-- HostAccesses: the last bytes of device memory and the first past them, an aligned and a misaligned word, a queue
that runs, a mailbox with a request and one without. -/
theorem witness_HostAccesses :
    ({ State.reset with windows := [(2 ^ 38 - 8, 8)] } : State).inWindow (2 ^ 38 - 8) 8 = true ∧
    ({ State.reset with windows := [(2 ^ 38 - 8, 8)] } : State).inWindow (2 ^ 38 - 9) 8 = false ∧
    State.reset.bring < 6 ∧ (let s : State := { State.reset with bring := 6, windows := [(0, 64)] }
      6 ≤ s.bring ∧ s.inWindow 0 64 = true ∧ s.inWindow 64 8 = false ∧ poisonOf s 0 64 = none) ∧
    State.reset.mbox[0].page.wf ∧ ({ State.reset.mbox[0] with hand := some 7 } : Mbox).hand = some 7 ∧
    2 ^ 38 - 8 + 8 ≤ 2 ^ 38 ∧ 2 ^ 38 < 2 ^ 38 - 7 + 8 ∧ poisonOf State.reset (2 ^ 38 - 8) 8 = none ∧ 12 % 8 ≠ 0 ∧ 12 % 4 = 0 ∧
    (queued [(9, 1, 1)]).pnat (vi0.queueTable + 64 * 0 + 9) 1 = 1 ∧ State.reset.mbox[0].reqRd = State.reset.mbox[0].reqWr ∧
    (Mbox.mk 0 0 0 1 false [] none).reqRd ≠ (Mbox.mk 0 0 0 1 false [] none).reqWr ∧
    ((Mbox.mk 0 0 0 1 false [] none).repWr + 16 - (Mbox.mk 0 0 0 1 false [] none).repRd) % 16 ≠ 15 := by
  and_intros <;> decide +kernel

/-! ## Results worked out in the spec, and single steps -/

/-- Where the results that an answer has put in flight go. -/
def dsts (o : Host.Outcome State Fault Refusal) : List Dst :=
  match o with
  | .next t => t.core.flight.map (·.dst)
  | _ => []

/-- The pc, the level and the cause that an answer leaves on the current core. -/
def trapOf (o : Host.Outcome State Fault Refusal) : Word × Level × Word :=
  match o with
  | .next t => (t.core.pc, t.core.level, t.core.csr.cause)
  | _ => (0, .h, 0)

/-- A vector register from the low lanes' numbers. -/
def vec (w : Nat) (xs : List Nat) : VWord := BitVec.ofNat 4096 ((xs.zip (List.range xs.length)).map fun x => x.1 * 2 ^ (w * x.2)).sum

/-- The low lanes of the vector registers that an answer writes. -/
def lanesOf (w n : Nat) (o : Host.Outcome State Fault Refusal) : List (List Nat) :=
  (dsts o).flatMap fun d => match d with
    | .v ds => ds.map fun x => (List.range n).map fun i => (lane w x.2 i).toNat
    | _ => []

/-- 04 R93: ADD wraps; DIV of the most negative number by -1; a zero divisor; MULHU of the greatest numbers. -/
theorem test_scalar_results :
    dsts (exec (.add false 3 (.x 1) (.x 2)) (withX (-1) 1)) = [.x 3 0] ∧
    dsts (exec (.div false 3 (.x 1) (.x 2)) (withX 0x8000000000000000 (-1))) = [.x 3 0x8000000000000000] ∧
    dsts (exec (.rem false 3 (.x 1) (.x 2)) (withX (-7) 2)) = [.x 3 (-1)] ∧
    dsts (exec (.remu false 3 (.x 1) (.x 2)) (withX 7 0)) = [.x 3 7] ∧
    dsts (exec (.mulhu false 3 (.x 1) (.x 2)) (withX (-1) (-1))) = [.x 3 0xFFFFFFFFFFFFFFFE] ∧
    dsts (exec (.sra false 3 (.x 1) (.x 2)) (withX (-8) 65)) = [.x 3 (-4)] ∧
    dsts (exec (.add true 3 (.x 1) (.x 2)) (withX 1 1)) = [.none] := by decide +kernel

/-- 04 R96, the case of LI and LIH: the last of the four slots. -/
theorem test_lih : dsts (exec (.lih false 1 0x4DEF) (withX 0x02468ACF1357 0)) = [.x 1 0x0123456789ABCDEF] := by
  decide +kernel

/-- 05 R123, the case of VMULW. -/
theorem test_vmulw :
    lanesOf 16 1 (exec (.vmulw false .i8 (.v 6) (.v 1) (.v 2)) (withV 0 (vec 8 [0xFD, 127]) (vec 8 [100, 127]))) =
      [[0xFED4], [0x3F01]] := by decide +kernel

/-- 05 R133, the case of VSCAN. -/
theorem test_vscan :
    lanesOf 32 9 (exec (.vscanExInt false .i32 (.v 5) (.v 1) 1) (withV 0x48 (vec 32 [3, 1, 4, 1, 5, 9, 2, 6]) 0)) =
      [[0, 3, 4, 0, 1, 6, 0, 2, 8]] ∧
    lanesOf 32 9 (exec (.vscanInt false .i32 (.v 5) (.v 1) 1) (withV 0x48 (vec 32 [3, 1, 4, 1, 5, 9, 2, 6]) 0)) =
      [[3, 4, 8, 1, 6, 15, 2, 8, 8]] := by decide +kernel

/-- Three vector registers. -/
def withV3 (a b c : VWord) : State :=
  { withV 0 a b with core := { (withV 0 a b).core with arch := (withV 0 a b).core.arch.setV (.v 3) c } }

/-- 02 R54, the case of a saturating dot product: the total fits, although a running total does not. -/
theorem test_vdot_sat :
    lanesOf 32 1 (exec (.vdotSat false .i8 (.v 3) (.v 1) (.v 2))
      (withV3 (vec 8 [127, 127, 128, 129]) (vec 8 [127, 127, 127, 127]) (vec 32 [2147483000]))) = [[2147482873]] := by
  decide +kernel

/-- 01 R21; 04 R97, the case of a nest of widths 4, 6 and 8. -/
theorem test_widf :
    dsts (exec (.widf false 5 2) (onCore fun c => { c with arch := { c.arch with
      wid := 0x32215, depth := 3, widths := [4, 6, 8, 0, 0, 0] } })) = [.x 5 200] ∧
    dsts (exec (.widf false 5 3) (onCore fun c => { c with arch := { c.arch with
      wid := 0x32215, depth := 3, widths := [4, 6, 8, 0, 0, 0] } })) = [.x 5 0] := by decide +kernel

/-- 02 R34, R49, R55: sums, products and functions of small powers of two in f32. -/
theorem test_float_results :
    lanesOf 32 2 (exec (.fadd false .f32 (.v 3) (.v 1) (.v 2)) (withV 0 (vec 32 [0x3F800000, 0x7F800000])
      (vec 32 [0x3F800000, 0xFF800000]))) = [[0x40000000, 0x7FC00000]] ∧
    lanesOf 32 1 (exec (.fmul false .f32 (.v 3) (.v 1) (.v 2)) (withV 0 (vec 32 [0xC0000000]) (vec 32 [0x3F000000]))) =
      [[0xBF800000]] ∧
    lanesOf 32 1 (exec (.rcp false .f32 (.v 3) (.v 1)) (withV 0 (vec 32 [0x40000000]) 0)) = [[0x3F000000]] := by
  decide +kernel

/-- 06 R154, the case of a shadow: the address of the first element, the box bytes, the field that SHFI.add writes. -/
def shadowCase (crd1 : Nat) : Rec :=
  [(0, 0x40000000), (1, 16 * 8 + 2), (2, 300), (3, 1000), (7, 640), (11, 64), (12, 16), (16, 256), (17, crd1)].foldl
    (fun r f => recSet r (Fin.ofNat 25 f.1) f.2) 0

/-- The case itself. -/
theorem test_shadow_case :
    addrAt (shadowCase 992) (coords (shadowCase 992) 0) = 0x4009B200 ∧ boxBytes (shadowCase 992) = 2048 ∧
    ((List.range 1024).filter fun e => insideAt (shadowCase 992) (coords (shadowCase 992) e)).length = 352 ∧
    dsts (exec (.shfiAdd 16 17 0) (onCore fun c => { c with arch := { c.arch with sd := c.arch.sd.set 0 (shadowCase 976) } })) =
      [.shf 0 17 992] := by decide +kernel

/-- 08 R178: a shift count of 64 raises ILLEGAL in slot 0, which the steward sees. -/
theorem test_trap :
    trapOf (exec (.shli false 1 (.x 1) 64) (onCore fun c => { c with csr := { c.csr with vec := 0x4000 } })) =
      (0x4000, .s, 1) := by decide +kernel

/-- 03 R89; 18 R420: SHAKE256 of the empty message begins with the bytes that FIPS 202's examples give for it. -/
theorem test_shake256 : shake256 [] 8 = [0x46, 0xB9, 0xDD, 0x2B, 0x0B, 0xA8, 0x8D, 0x13] := by decide +kernel

/-- 03 R58: a step runs the word at the pc and moves on; the second step lands its result. -/
theorem test_step :
    (match step (State.reset.withFetchWord 32 0x04049240) with
      | .next t => (t.core.pc, t.core.flight.map (·.dst), t.core.beat)
      | _ => (0, [], 0)) = (4, [.x 9 64], 1) := by decide +kernel

/-- The state after withFetchWord of an ADDI, and its one slot word. -/
def ready : State := State.reset.withFetchWord 32 0x04049240

/-- StepRunsDecodedSlots: the step after withFetchWord is the turn of core 0, and nothing keeps its bundle from issuing. -/
theorem witness_StepRunsDecodedSlots :
    ready.power ≠ .off ∧ (ready.switch 0).core.runnable = true ∧ ready.schedule = [] ∧ ready.nextCore = some 0 ∧
    ready.overdue = false ∧ ready.passDue = false ∧ ready.tick % 2 = 0 ∧ ready.tick < (ready.interval + 1) * 10000 ∧ (ready.switch 0).catchUp.asleep = false ∧
    (ready.switch 0).catchUp.core.asyncDue = false ∧ (bundleAt (ready.switch 0).catchUp.slept 0).1 = .ok [0x84049240] ∧
    ready.core.fault [0x84049240] (ready.core.slots [0x84049240]) = none ∧
    ready.freezes [0x84049240] (ready.core.slots [0x84049240]) = false ∧ ready.core.segBundles < ready.core.segLimit ∧
    ready.core.startsCkpt [0x84049240] = false ∧ ready.core.awaitsOld = false ∧ ready.core.seat ≠ none ∧
    (∀ x ∈ ready.core.slots [0x84049240], x.early = false ∧ x.isFreeze = false) ∧ ready.core.occupied ≤ 64 := by
  and_intros <;> decide +kernel

/-- StepRunsDecodedSlots: a state in which a boundary is past its time and one in which none is. -/
theorem witness_StepRunsDecodedSlots_ends :
    ready.overdue = false ∧ ({ ready with tick := 11000 } : State).overdue = true ∧
    (match ({ ready with tick := 11000, passDue := true } : State).boundaryFirst with | .next _ => true | _ => false) = true := by
  and_intros <;> decide +kernel

/-- StepKeepsForm: a state in good form that steps to a next state. -/
theorem witness_StepKeepsForm :
    (∀ c ∈ ready.core :: ready.others, c.arch.x[0] = 0 ∧ c.ck.x[0] = 0 ∧ c.sp.cells.wf ∧ c.bars.wf ∧ c.cbuf.length ≤ bufferSize) ∧
    ready.mem.bytes.wf ∧ ready.mem.host.wf ∧ (match step ready with | .next _ => true | _ => false) = true := by
  and_intros <;> decide +kernel

/-- DecodeOfEncode: an instruction of each class that has a word. -/
theorem witness_DecodeOfEncode :
    (Instr.wf (.addi true 5 (.x 6) 3) = true ∧ (encode true (.addi true 5 (.x 6) 3)).isSome = true) ∧
    (Instr.wf (.copym 0 false (.idx 0) false 4) = true ∧ (encode false (.copym 0 false (.idx 0) false 4)).isSome = true) ∧
    encode false (.stepRetire 0) = none := by decide +kernel

end Sys2Proof.Tests
end

section
/-! SUPPORT. What the numeric helpers of the model say of single bits: leading, trailing and one bits, signed readings,
and fields read and replaced (00 R10; 04 R93, R94). -/

namespace Sys2Proof.Machine

/-! ## Counts of bits -/

theorem leadingZeros_le (w x : Nat) : leadingZeros w x ≤ w := by
  unfold leadingZeros
  split <;> omega

/-- Where the highest one bit of a nonzero number stands, in terms of the leading zeros. -/
theorem log2_eq_sub_leadingZeros {w : Nat} {a : BitVec w} (h : a.toNat ≠ 0) :
    a.toNat.log2 = w - 1 - leadingZeros w a.toNat ∧ leadingZeros w a.toNat < w := by
  have hw : a.toNat.log2 < w := (Nat.log2_lt h).2 a.isLt
  have hz : leadingZeros w a.toNat = w - 1 - a.toNat.log2 := by
    simp [leadingZeros, Nat.mod_eq_of_lt a.isLt, h]
  omega

/-- Every bit above the leading one bit is zero. -/
theorem getMsbD_of_lt_leadingZeros {w : Nat} (a : BitVec w) {j : Nat} (hj : j < leadingZeros w a.toNat) :
    a.getMsbD j = false := by
  by_cases h : a.toNat = 0
  · simp [BitVec.getMsbD, BitVec.getLsbD, h]
  · obtain ⟨hlog, hlt⟩ := log2_eq_sub_leadingZeros h
    have hbit : a.toNat.testBit (w - 1 - j) = false :=
      Nat.testBit_lt_two_pow ((Nat.log2_lt h).1 (by omega))
    simp [BitVec.getMsbD, BitVec.getLsbD, hbit]

theorem getMsbD_leadingZeros {w : Nat} (a : BitVec w) (h : leadingZeros w a.toNat < w) :
    a.getMsbD (leadingZeros w a.toNat) = true := by
  have h0 : a.toNat ≠ 0 := by
    intro h0
    simp [leadingZeros, h0] at h
  have hbit := Nat.testBit_log2 h0
  rw [(log2_eq_sub_leadingZeros h0).1] at hbit
  simp [BitVec.getMsbD, BitVec.getLsbD, h, hbit]

/-- The binary digits of a number are its bits, lowest first. -/
theorem digits_one (n v : Nat) : digits 1 n v = (List.range n).map fun j => (v.testBit j).toNat := by
  refine List.ext_getElem (by simp) fun i h _ => ?_
  simp [digits_getElem 1 n v i h, Nat.toNat_testBit]

/-- The trailing zeros are the place of the first one bit, or the width where there is none. -/
theorem trailingZeros_eq_findIdx (w x : Nat) :
    trailingZeros w x = (List.range w).findIdx fun j => x.testBit j := by
  have hz : ((fun d : Nat => d == 0) ∘ fun j => (x.testBit j).toNat) = fun j => !x.testBit j := by
    funext j
    cases h : x.testBit j <;> simp [h]
  have hle := List.findIdx_le_length (p := fun j => x.testBit j) (xs := List.range w)
  rw [trailingZeros, digits_one, List.takeWhile_map, hz, List.length_map, List.takeWhile_eq_take_findIdx_not]
  simpa using hle

theorem trailingZeros_le (w x : Nat) : trailingZeros w x ≤ w := by
  simpa [trailingZeros_eq_findIdx] using
    List.findIdx_le_length (p := fun j => x.testBit j) (xs := List.range w)

theorem getLsbD_of_lt_trailingZeros {w : Nat} (a : BitVec w) {j : Nat} (hj : j < trailingZeros w a.toNat) :
    a.getLsbD j = false := by
  rw [trailingZeros_eq_findIdx] at hj
  simpa [BitVec.getLsbD] using List.not_of_lt_findIdx hj

theorem getLsbD_trailingZeros {w : Nat} (a : BitVec w) (h : trailingZeros w a.toNat < w) :
    a.getLsbD (trailingZeros w a.toNat) = true := by
  rw [trailingZeros_eq_findIdx] at h ⊢
  have hbit := List.findIdx_getElem (p := fun j => a.toNat.testBit j) (xs := List.range w) (w := by simpa using h)
  simpa [BitVec.getLsbD] using hbit

theorem sum_map_toNat {α : Type} (p : α → Bool) (l : List α) : (l.map fun j => (p j).toNat).sum = l.countP p := by
  induction l with
  | nil => rfl
  | cons x xs ih => cases h : p x <;> simp [h, ih, Nat.add_comm]

theorem onesOf_toNat {v : Nat} (a : BitVec v) (w : Nat) :
    onesOf w a.toNat = (List.range w).countP fun j => a.getLsbD j := by
  simp only [onesOf, ← List.sum_eq_foldl, digits_one, sum_map_toNat, BitVec.testBit_toNat]

/-! ## Signed readings -/

theorem sval_toNat {v : Nat} (a : BitVec v) (w : Nat) : sval a.toNat w = (a.setWidth w).toInt := by
  simp [sval, BitVec.toInt_eq_toNat_cond]

theorem sextW_toNat {v : Nat} (a : BitVec v) (w : Nat) : sextW a.toNat w = (a.setWidth w).signExtend 64 := by
  rw [sextW, sval_toNat, BitVec.signExtend]

/-! ## Bit fields -/

theorem fieldOf_eq (b : Word) :
    fieldOf b = ((b.setWidth 6).toNat,
      min (min (b.extractLsb' 8 7).toNat 64) (64 - (b.setWidth 6).toNat)) := by
  simp [fieldOf, wbits, bits, Nat.shiftRight_eq_div_pow]

/-- A number with a field of n bits at lo replaced, as its upper part, the field and its lower part. -/
theorem setBits_eq (x lo n v : Nat) (hn : 0 < n) :
    setBits x (lo + n - 1) lo v = 2 ^ lo * (2 ^ n * (x / 2 ^ (lo + n)) + v % 2 ^ n) + x % 2 ^ lo := by
  have hlen : lo + n - 1 + 1 - lo = n := by omega
  have hlow := Nat.div_add_mod x (2 ^ lo)
  have hhigh := Nat.div_add_mod (x / 2 ^ lo) (2 ^ n)
  rw [Nat.div_div_eq_div_mul, ← Nat.pow_add] at hhigh
  have hx : x = x / 2 ^ lo % 2 ^ n * 2 ^ lo + (2 ^ lo * (2 ^ n * (x / 2 ^ (lo + n))) + x % 2 ^ lo) := by
    calc x = 2 ^ lo * (x / 2 ^ lo) + x % 2 ^ lo := hlow.symm
      _ = 2 ^ lo * (2 ^ n * (x / 2 ^ (lo + n)) + x / 2 ^ lo % 2 ^ n) + x % 2 ^ lo := by rw [hhigh]
      _ = _ := by ring
  rw [setBits, bits, hlen, Nat.sub_eq_of_eq_add' hx]
  ring

/-- Bits of a number below, in and above a field of n bits at lo after the field was replaced. -/
theorem testBit_setBits (x lo n v j : Nat) (hn : 0 < n) :
    (setBits x (lo + n - 1) lo v).testBit j =
      if lo ≤ j ∧ j < lo + n then v.testBit (j - lo) else x.testBit j := by
  rw [setBits_eq x lo n v hn, Nat.testBit_two_pow_mul_add _ (Nat.mod_lt _ (Nat.two_pow_pos lo)),
    Nat.testBit_two_pow_mul_add _ (Nat.mod_lt _ (Nat.two_pow_pos n))]
  rcases Nat.lt_or_ge j lo with hlow | hlow
  · simp [hlow, Nat.not_le.2 hlow]
  · rcases Nat.lt_or_ge j (lo + n) with hin | habove
    · have hj : j - lo < n := by omega
      simp [Nat.not_lt.2 hlow, hlow, hin, hj]
    · have hj : ¬ j - lo < n := by omega
      have hbit : j - lo - n + (lo + n) = j := by omega
      simp [Nat.not_lt.2 hlow, Nat.not_lt.2 habove, hj, Nat.testBit_div_two_pow, hbit]

theorem getLsbD_bitField (a b : Word) (j : Nat) (hj : j < 64) :
    (bitField a b).getLsbD j = (decide (j < (fieldOf b).2) && a.getLsbD ((fieldOf b).1 + j)) := by
  simp only [bitField, BitVec.getLsbD_ofNat, hj, decide_true, Bool.true_and, Nat.testBit_mod_two_pow,
    Nat.testBit_div_two_pow, BitVec.testBit_toNat, Nat.add_comm]

/-- One law for every width: an empty field holds no bit, so the replaced number is the old one. -/
theorem getLsbD_bitInsert (old a b : Word) (j : Nat) (hj : j < 64) :
    (bitInsert old a b).getLsbD j =
      if (fieldOf b).1 ≤ j ∧ j < (fieldOf b).1 + (fieldOf b).2 then a.getLsbD (j - (fieldOf b).1)
      else old.getLsbD j := by
  simp only [bitInsert]
  split
  case isTrue hempty =>
    rw [if_neg (by omega)]
  case isFalse hfield =>
    simp only [BitVec.getLsbD_ofNat, hj, decide_true, Bool.true_and,
      testBit_setBits _ _ _ _ _ (Nat.pos_of_ne_zero hfield), BitVec.testBit_toNat]

end Sys2Proof.Machine
end

section
/-! The scalar bit instructions and the step identity (04 R93, R94, R97). -/

open Sys2Proof.Claims

namespace Sys2Proof.Machine

/-! ## What each instruction puts in flight: exec unfolded once for each -/

section
variable (n : Bool) (d : SDst) (ra rb : SSrc) (w k : BitVec 6) (s : State)

theorem exec_clz :
    exec (.clz n d ra) s = .next (toX s 1 n d (BitVec.ofNat 64 (leadingZeros 64 (s.core.sx ra).toNat))) := rfl

theorem exec_ctz :
    exec (.ctz n d ra) s = .next (toX s 1 n d (BitVec.ofNat 64 (trailingZeros 64 (s.core.sx ra).toNat))) := rfl

theorem exec_popc :
    exec (.popc n d ra) s = .next (toX s 1 n d (BitVec.ofNat 64 (onesOf 64 (s.core.sx ra).toNat))) := rfl

theorem exec_exts : exec (.exts n d ra w) s = .next (toX s 1 n d (sextW (s.core.sx ra).toNat (w.toNat + 1))) := rfl

theorem exec_extz :
    exec (.extz n d ra w) s = .next (toX s 1 n d (BitVec.ofNat 64 ((s.core.sx ra).toNat % 2 ^ (w.toNat + 1)))) := rfl

theorem exec_bfx : exec (.bfx n d ra rb) s = .next (toX s 1 n d (bitField (s.core.sx ra) (s.core.sx rb))) := rfl

theorem exec_bfi :
    exec (.bfi n d ra rb) s = .next (toX s 1 n d (bitInsert (s.core.xr d) (s.core.sx ra) (s.core.sx rb))) := rfl

theorem exec_widf_of_lt (hk : k.toNat < 8) :
    exec (.widf n d k) s = .next (toX s 1 n d (widField s.core.arch k.toNat)) := if_pos hk

theorem exec_widf_of_ge (hk : 8 ≤ k.toNat) : exec (.widf n d k) s = .next (Claims.illegal s) :=
  if_neg (Nat.not_lt.2 hk)

end

/-! ## The fields of the step identity -/

theorem widField_six (a : Arch) : widField a 6 = a.wid := rfl

theorem widField_seven (a : Arch) : widField a 7 = BitVec.ofNat 64 a.depth := rfl

theorem widField_of_lt_depth (a : Arch) {k : Nat} (hk : k < 6) (hd : k < a.depth) :
    widField a k = BitVec.ofNat 64 (a.wid.toNat / 2 ^ (a.widths.take k).sum % 2 ^ a.widths.getD k 0) := by
  rw [widField, if_neg (by omega), if_neg (by omega), if_pos hd, List.sum_eq_foldl]

theorem widField_of_depth_le (a : Arch) {k : Nat} (hk : k < 6) (hd : a.depth ≤ k) : widField a k = 0 := by
  rw [widField, if_neg (by omega), if_neg (by omega), if_neg (Nat.not_lt.2 hd)]

/-! ## The obligation -/

/-- 04 R93, R94: the bit lemmas above at the width of a register. -/
theorem scalarBits : ScalarBits := by
  intro n d ra rb w s a b p v
  refine ⟨⟨leadingZeros 64 a.toNat, leadingZeros_le 64 _, exec_clz n d ra s,
      fun j hj => getMsbD_of_lt_leadingZeros a hj, getMsbD_leadingZeros a⟩,
    ⟨trailingZeros 64 a.toNat, trailingZeros_le 64 _, exec_ctz n d ra s,
      fun j hj => getLsbD_of_lt_trailingZeros a hj, getLsbD_trailingZeros a⟩, ?_, ?_, ?_,
    ⟨bitField a b, exec_bfx n d ra rb s, ?_⟩, ⟨bitInsert (s.core.xr d) a b, exec_bfi n d ra rb s, ?_⟩⟩
  case refine_1 => rw [exec_popc, onesOf_toNat]
  case refine_2 => rw [exec_exts, sextW_toNat]
  case refine_3 => rw [exec_extz, ← BitVec.toNat_setWidth, BitVec.ofNat_toNat]
  case refine_4 =>
    intro j hj
    rw [getLsbD_bitField a b j hj, fieldOf_eq]
  case refine_5 =>
    intro j hj
    rw [getLsbD_bitInsert _ a b j hj, fieldOf_eq]

/-- 04 R97: a number above 5 names no field of bits, so the cases split on the number before the depth. -/
theorem workIdentifierFields : WorkIdentifierFields := by
  intro n d k s widths start
  refine ⟨fun hk hd => ?_, fun hk hd => ?_, fun hk => ?_, fun hk => ?_, exec_widf_of_ge n d k s⟩
  · rw [exec_widf_of_lt n d k s (by omega), widField_of_lt_depth _ hk hd]
  · rw [exec_widf_of_lt n d k s (by omega), widField_of_depth_le _ hk hd]
  · subst hk
    rw [exec_widf_of_lt n d 6 s (by decide), show (6 : BitVec 6).toNat = 6 from rfl, widField_six]
  · subst hk
    rw [exec_widf_of_lt n d 7 s (by decide), show (7 : BitVec 6).toNat = 7 from rfl, widField_seven]

/-- Settles O3: the counts, extensions and bit fields bit by bit, and the step identity by the number of the field. -/
theorem scalarBitFields : Obligations.ScalarBitFields := ⟨scalarBits, workIdentifierFields⟩

end Sys2Proof.Machine
end

section
/-! Vector registers as lists of lanes (05 R114, R115): elements read as numbers of their type, registers made of
integers, runs of elements summed and groups of registers. -/

open Sys2Proof.Claims

namespace Sys2Proof.Machine

/-! ## Elements read -/

@[simp] theorem lane_toNat (w : Nat) (v : VWord) (i : Nat) : (lane w v i).toNat = elem w v i := elem_extract w v i

theorem elems_eq_map (w : Nat) (v : VWord) : elems w v = (List.range (4096 / w)).map (elem w v) :=
  List.ext_getElem (by simp) fun i h _ => by simp [elems_getElem w v i h]

theorem sval_elem (w : Nat) (v : VWord) (i : Nat) : sval (elem w v i) w = (lane w v i).toInt := by
  rw [← lane_toNat, sval_toNat, BitVec.setWidth_eq]

theorem val_elem (t : ITy) (v : VWord) (i : Nat) : t.val (elem t.width v i) = num t (lane t.width v i) := by
  rw [ITy.val, num, sval_elem, Nat.mod_eq_of_lt (elem_lt t.width v i), lane_toNat]

theorem ivals_eq_map (c : Core) (t : ITy) (a : VSrc) :
    c.ivals t a = (List.range (4096 / t.width)).map fun i => num t (lane t.width (c.vx a) i) := by
  simp [Core.ivals, elems_eq_map, val_elem]

/-! ## Registers made -/

theorem lane_ofElems (w : Nat) (l : List Nat) (i : Nat) (h : i < l.length) (hl : w * l.length ≤ 4096) :
    lane w (ofElems w l) i = BitVec.ofNat w l[i] :=
  BitVec.eq_of_toNat_eq (by simp [elem_ofElems w l i h hl])

theorem lanesAre_ofElems_map (w : Nat) (f : Nat → Nat) :
    lanesAre w (ofElems w ((List.range (4096 / w)).map f)) fun i => BitVec.ofNat w (f i) := by
  intro i hi
  rw [lane_ofElems w _ i (by simpa using hi) (by simpa using Nat.mul_div_le 4096 w)]
  simp

theorem lowBits_lt (w : Nat) (x : Int) : lowBits w x < 2 ^ w := by
  have hpos : (0 : Int) < 2 ^ w := by positivity
  rw [lowBits, Int.toNat_lt (Int.emod_nonneg x hpos.ne')]
  simpa using Int.emod_lt_of_pos x hpos

theorem ofNat_lowBits (w : Nat) (x : Int) : BitVec.ofNat w (lowBits w x) = BitVec.ofInt w x := by
  refine BitVec.eq_of_toNat_eq ?_
  rw [BitVec.toNat_ofNat, Nat.mod_eq_of_lt (lowBits_lt w x), BitVec.toNat_ofInt, lowBits]
  simp

theorem lanesAre_ofInts_map (w : Nat) (f : Nat → Int) :
    lanesAre w (ofInts w ((List.range (4096 / w)).map f)) fun i => BitVec.ofInt w (f i) := by
  have h := lanesAre_ofElems_map w (lowBits w ∘ f)
  simpa only [ofInts, List.map_map, Function.comp_apply, ofNat_lowBits] using h

/-! ## Runs of elements -/

theorem chunkSums_map_range (k n : Nat) (f : Nat → Int) :
    chunkSums k n ((List.range (k * n)).map f) =
      (List.range n).map fun j => ((List.range k).map fun i => f (j * k + i)).sum := by
  induction n generalizing f with
  | zero => rfl
  | succ n ih =>
    have hsplit : (List.range (k * (n + 1))).map f =
        (List.range k).map f ++ (List.range (k * n)).map fun i => f (k + i) := by
      rw [Nat.mul_succ, Nat.add_comm, List.range_add, List.map_append, List.map_map]
      rfl
    rw [chunkSums, hsplit, List.take_left' (by simp), List.drop_left' (by simp), ih, ← List.sum_eq_foldl,
      List.range_succ_eq_map]
    simp [Nat.succ_mul, Nat.add_comm, Nat.add_left_comm]

/-! ## Groups of registers -/

theorem getElem?_pick {α : Type} (k n : Nat) (l : List α) (i : Nat) :
    (pick k n l)[i]? = if i < n then l[k * i]? else none := by
  induction n generalizing l i with
  | zero => simp [pick]
  | succ n ih =>
    cases l with
    | nil => simp [pick]
    | cons x xs =>
      cases i with
      | zero => simp [pick]
      | succ i =>
        rw [pick, List.getElem?_cons_succ, ih, List.getElem?_drop, Nat.mul_succ, Nat.add_comm k]
        simp

/-- Every k-th of k × n elements from the j-th on. -/
theorem pick_drop_map_range {α : Type} {k j : Nat} (hj : j < k) (n : Nat) (f : Nat → α) :
    pick k n (((List.range (k * n)).map f).drop j) = (List.range n).map fun i => f (k * i + j) := by
  refine List.ext_getElem? fun i => ?_
  rw [getElem?_pick]
  split
  case isTrue hi =>
    have hin : j + k * i < k * n := by
      calc j + k * i < k + k * i := Nat.add_lt_add_right hj _
        _ = k * (i + 1) := by ring
        _ ≤ k * n := Nat.mul_le_mul_left k hi
    simp [hi, hin, Nat.add_comm]
  case isFalse hi => simp [hi]

@[simp] theorem VDst.nth_zero (d : VDst) : VDst.nth d 0 = d := by
  cases d <;> simp [VDst.nth]

/-- 05 R115: register j of a group of k holds the elements whose number leaves j modulo k. -/
theorem groupOf_map_range (d : VDst) (k w : Nat) (f : Nat → Nat) :
    groupOf d k w ((List.range (k * (4096 / w))).map f) =
      (List.range k).map fun j => (VDst.nth d j, ofElems w ((List.range (4096 / w)).map fun i => f (k * i + j))) :=
  List.map_congr_left fun j hj => by rw [pick_drop_map_range (List.mem_range.1 hj)]

end Sys2Proof.Machine
end

section
/-! Wide products, dot products and packing (05 R122, R123, R127; 02 R54). -/

open Sys2Proof.Claims

namespace Sys2Proof.Machine

/-! ## The exact numbers behind the lanes -/

/-- The exact product of the elements i of two sources. -/
def laneProduct (c : Core) (t : ITy) (a b : VSrc) (i : Nat) : Int :=
  num t (lane t.width (c.vx a) i) * num t (lane t.width (c.vx b) i)

/-- The exact total of the 32-bit lane j (02 R54). -/
def dotTotal (c : Core) (t : ITy) (d : VDst) (a b : VSrc) (j : Nat) : Int :=
  (lane 32 (c.vd d) j).toInt +
    ((List.range (32 / t.width)).map fun i => laneProduct c t a b (j * (32 / t.width) + i)).sum

theorem zipWith_ivals_eq_map (c : Core) (t : ITy) (a b : VSrc) :
    List.zipWith (· * ·) (c.ivals t a) (c.ivals t b) = (List.range (4096 / t.width)).map (laneProduct c t a b) := by
  simp only [ivals_eq_map, List.zipWith_map, List.zipWith_self]
  rfl

theorem dotTotals_eq_map {t : ITy} (ht : t.width < 16) (c : Core) (d : VDst) (a b : VSrc) :
    dotTotals c t d a b = (List.range (4096 / 32)).map (dotTotal c t d a b) := by
  have hm : 4096 / t.width = 32 / t.width * 128 := by
    cases t <;> simp [ITy.width] at ht ⊢
  simp only [dotTotals, zipWith_ivals_eq_map, hm, chunkSums_map_range, elems_eq_map, List.map_map, List.zipWith_map,
    sval_elem, Function.comp_apply]
  simp [dotTotal]

/-- The elements that a pair of registers holds at twice the width. -/
theorem two_mul_div_two_mul_width (t : ITy) : 2 * (4096 / (2 * t.width)) = 4096 / t.width := by
  cases t <;> rfl

/-! ## What each instruction puts in flight -/

theorem whenOk_of_true {s : State} {ok : Bool} (h : ok = true) (u : State) : s.whenOk ok u = .next u := by
  rw [State.whenOk, if_pos h]

theorem whenOk_of_false {s : State} {ok : Bool} (h : ok = false) (u : State) :
    s.whenOk ok u = .next (Claims.illegal s) := by
  rw [State.whenOk, h]
  rfl

/-- The register of a pair that holds the products of number 2 i + j (05 R123). -/
def productsFrom (c : Core) (t : ITy) (a b : VSrc) (j : Nat) : VWord :=
  ofInts (2 * t.width) ((List.range (4096 / (2 * t.width))).map fun i => laneProduct c t a b (2 * i + j))

/-- 05 R123: the registers that VMULW writes. -/
theorem groupOf_products (c : Core) (t : ITy) (d : VDst) (a b : VSrc) :
    groupOf d 2 (2 * t.width) ((List.zipWith (· * ·) (c.ivals t a) (c.ivals t b)).map (lowBits (2 * t.width))) =
      [(d, productsFrom c t a b 0), (VDst.nth d 1, productsFrom c t a b 1)] := by
  rw [zipWith_ivals_eq_map, List.map_map, ← two_mul_div_two_mul_width, groupOf_map_range]
  simp [List.range_succ, productsFrom, ofInts, Function.comp_def]

/-- The elements of twice the width of t, saturated to t (05 R127). -/
def narrowed (t : ITy) (v : VWord) : List Nat :=
  (elems (2 * t.width) v).map fun e => lowBits t.width (t.sat (sval e (2 * t.width)))

section
variable (n : Bool) (t : ITy) (d : VDst) (a b : VSrc) (s : State)

theorem exec_vmulw :
    exec (.vmulw n t d a b) s = s.whenOk (decide (t.width ≠ 32) && d.aligned 2)
      (toV2 s 2 n d (productsFrom s.core t a b 0) (productsFrom s.core t a b 1) 0) :=
  congrArg (fun ds => s.whenOk (decide (t.width ≠ 32) && d.aligned 2) (s.retV 2 n ds 0))
    (groupOf_products s.core t d a b)

theorem exec_vdot :
    exec (.vdot n t d a b) s =
      s.whenOk (decide (t.width < 16)) (toV s 2 n d (ofInts 32 (dotTotals s.core t d a b)) 0) := rfl

theorem exec_vdotSat :
    exec (.vdotSat n t d a b) s = s.whenOk (decide (t.width < 16))
      (toV s 2 n d (ofInts 32 ((dotTotals s.core t d a b).map (clamp .i32))) 0) := rfl

theorem exec_vpack :
    exec (.vpack n t d a b) s = s.whenOk (decide (t.width ≠ 32))
      (toV s 3 n d (ofElems t.width (narrowed t (s.core.vx a) ++ narrowed t (s.core.vx b))) 0) := rfl

end

/-! ## The lanes of the results -/

/-- 05 R123: product i stands in register i mod 2 of the pair, at position i div 2. -/
theorem lane_productsFrom (c : Core) (t : ITy) (a b : VSrc) (i : Nat) (hi : i < 4096 / t.width) :
    lane (2 * t.width) (productsFrom c t a b (i % 2)) (i / 2) = BitVec.ofInt (2 * t.width) (laneProduct c t a b i) := by
  rw [← two_mul_div_two_mul_width] at hi
  exact (lanesAre_ofInts_map _ _ (i / 2) (by omega)).trans (by simp only [Nat.div_add_mod])

/-- 05 R122: the lanes of the totals, changed by f. -/
theorem lanesAre_dotTotals {t : ITy} (ht : t.width < 16) (c : Core) (d : VDst) (a b : VSrc) (f : Int → Int) :
    lanesAre 32 (ofInts 32 ((dotTotals c t d a b).map f)) fun i => BitVec.ofInt 32 (f (dotTotal c t d a b i)) := by
  rw [dotTotals_eq_map ht, List.map_map]
  exact lanesAre_ofInts_map 32 _

@[simp] theorem narrowed_length (t : ITy) (v : VWord) : (narrowed t v).length = 4096 / (2 * t.width) := by
  simp [narrowed]

theorem ofNat_narrowed_getElem (t : ITy) (v : VWord) (i : Nat) (h : i < (narrowed t v).length) :
    BitVec.ofNat t.width (narrowed t v)[i] = BitVec.ofInt t.width (clamp t (lane (2 * t.width) v i).toInt) := by
  simp only [narrowed, List.getElem_map, elems_getElem, sval_elem, ofNat_lowBits]
  rfl

/-- 05 R127: the first source fills the lower half of the lanes and the second the upper half. -/
theorem lanesAre_pack (t : ITy) (v u : VWord) :
    lanesAre t.width (ofElems t.width (narrowed t v ++ narrowed t u)) fun i => BitVec.ofInt t.width (clamp t (
      if i < 4096 / t.width / 2 then (lane (2 * t.width) v i).toInt
      else (lane (2 * t.width) u (i - 4096 / t.width / 2)).toInt)) := by
  have hhalf : 4096 / (2 * t.width) = 4096 / t.width / 2 := by
    have := two_mul_div_two_mul_width t
    omega
  have hlen : (narrowed t v ++ narrowed t u).length = 4096 / t.width := by
    simpa [two_mul] using two_mul_div_two_mul_width t
  intro i hi
  rw [lane_ofElems _ _ i (hlen ▸ hi) (hlen ▸ Nat.mul_div_le 4096 t.width), List.getElem_append]
  simp only [narrowed_length, hhalf]
  split <;> exact ofNat_narrowed_getElem t _ _ _

/-! ## The obligation -/

/-- Settles O5: the accepted forms by the lanes of their results, the refused forms by their condition. -/
theorem vectorWideElements : Obligations.VectorWideElements := by
  intro n t d va vb s w a b old total
  refine ⟨?mulw, ?mulwIllegal, ?dot, ?dotIllegal, ?pack, ?packIllegal⟩
  case mulw =>
    rintro ⟨hw, hd⟩
    refine ⟨productsFrom s.core t va vb 0, productsFrom s.core t va vb 1, ?_, fun i hi => ?_⟩
    · rw [exec_vmulw, whenOk_of_true (by simp [hd, hw, w])]
    · refine Eq.trans ?_ (lane_productsFrom s.core t va vb i hi)
      obtain h | h := Nat.mod_two_eq_zero_or_one i <;> simp [h, w]
  case mulwIllegal =>
    intro h
    rw [exec_vmulw, whenOk_of_false (by simpa [or_iff_not_imp_left] using h)]
  case dot =>
    intro ht
    have hok : decide (t.width < 16) = true := decide_eq_true ht
    have hwrap := lanesAre_dotTotals ht s.core d va vb id
    rw [List.map_id] at hwrap
    exact ⟨_, _, by rw [exec_vdot, whenOk_of_true hok], hwrap,
      by rw [exec_vdotSat, whenOk_of_true hok], lanesAre_dotTotals ht s.core d va vb (clamp .i32)⟩
  case dotIllegal =>
    intro ht
    have hok : decide (t.width < 16) = false := decide_eq_false (Nat.not_lt.2 ht)
    exact ⟨by rw [exec_vdot, whenOk_of_false hok], by rw [exec_vdotSat, whenOk_of_false hok]⟩
  case pack =>
    intro hw
    exact ⟨_, by rw [exec_vpack, whenOk_of_true (decide_eq_true hw)], lanesAre_pack t _ _⟩
  case packIllegal =>
    intro hw
    rw [exec_vpack, whenOk_of_false (decide_eq_false (not_not.2 hw))]

end Sys2Proof.Machine
end
